-- ==== Sys2Proof/Word.lean ====
section
/-! DEFINITION. The word types of the model and the sparse table type its state is made of. -/

namespace Sys2Proof

abbrev Byte := BitVec 8
abbrev W16 := BitVec 16
abbrev W32 := BitVec 32
abbrev W64 := BitVec 64

/-- A byte string, byte 0 first. -/
abbrev Bytes := List Byte

/-- A sparse table: pairs of key and value, keys strictly rising. What an unlisted key holds is said by
the reader of the table (`Tbl.getD`). -/
abbrev Tbl (α : Type) := List (Nat × α)

end Sys2Proof
end

