-- ==== Sys2Proof/Syntax.lean ====
section
/-! DEFINITION. The commands and events of the block: one constructor of `Instr` for each row of
spec/opcode_table.json, with the operands the rule of that row gives it. -/

namespace Sys2Proof

/-- A host port (R41). -/
inductive Port where
  | ha | hb
  deriving DecidableEq, Repr

/-- A source of register accesses (R437). -/
inductive RegSource where
  | port (p : Port) | reeve
  deriving DecidableEq, Repr

/-- A register address: a lane window of BAR0 (R61), or a BAR2 or BAR4 offset (R502, R501). -/
inductive RegAddr where
  | bar0 (sl : Fin 256) (ln : Fin 64) (off : BitVec 10)
  | bar2 (off : BitVec 20)
  | bar4 (off : BitVec 16)
  deriving DecidableEq, Repr

/-- The hardware update that meets a software write in its PCLK cycle (R438). -/
inductive HwUpdate where
  | none
  /-- Status bits the hardware sets (W1C). -/
  | set (mask : W64)
  /-- A counter increment. -/
  | inc (n : Nat)
  /-- The completion clear of a go-bit. -/
  | complete
  /-- The fault clear of a control field. -/
  | faultClear
  /-- A hardware-owned status takes a value. -/
  | value (v : W64)
  deriving DecidableEq, Repr

/-- What a non-posted request brought back (R86). -/
inductive DmaResult where
  | ok (data : Bytes)
  /-- The ATS translation failed, or the host returned Unsupported Request or Completer Abort. -/
  | failed
  deriving DecidableEq, Repr

/-- The tile that issues an operation or completes: package hamlet and logical core (R157, R182). -/
structure Tile where
  hamlet : Fin 32
  core : Fin 864
  deriving DecidableEq, Repr

/-- A tile with the command it belongs to. -/
structure CmdTile where
  cmd : Nat
  tile : Tile
  deriving DecidableEq, Repr

/-- The effects a completed tile leaves (R156, R157, R161). Compiled code has no instruction set in the spec, so what it did
is the event's operand; the output is held to R154. -/
structure TileEffects where
  /-- Committed state of its own hamlet that it read: hamlet offset and length. -/
  reads : List (Nat × Nat) := []
  /-- Writes to HBM or scratchpad of the command's own hamlet: hamlet offset and bytes. -/
  writes : List (Nat × Bytes) := []
  /-- Host-bound output: offset in the output and bytes. -/
  output : List (Nat × Bytes) := []
  /-- CCLK cycles the tile's wave ran. -/
  cycles : Nat := 0
  /-- The tile was the last one of its wave in this hamlet. -/
  waveEnd : Bool := false
  /-- The tile was the command's last one in this hamlet. -/
  last : Bool := false
  /-- A core could not decode or execute an instruction (R546). -/
  illegal : Bool := false
  /-- Sticky flags INVALID, OVERFLOW and SAT as the tile leaves them in its cores, by logical core (R150). -/
  flags : List (Nat × BitVec 3) := []
  /-- Accumulator and register bytes the tile leaves in its core's 64 KiB: offset and bytes (R49). -/
  registers : List (Nat × Bytes) := []
  deriving DecidableEq, Repr

/-- Translations of the result writes (R86): payload and payload tag, then the seal trailer. -/
structure ResultTranslation where
  payload : Bool
  trailer : Bool
  deriving DecidableEq, Repr

/-- The HEAD fields of a road message and its data (R217, R218). -/
structure RoadMsg where
  cls : BitVec 2
  relayed : Bool := false
  replayed : Bool := false
  epoch : Byte
  tenant : W16
  src : W16
  dst : W16
  hgen : Byte := 0
  jgen : Byte := 0
  job : W16 := 0
  ttag : W16 := 0
  addr : W64 := 0
  len : W32 := 0
  hseq : W32 := 0
  operand : W64 := 0
  nctr : BitVec 48 := 0
  oroad : Byte := 0
  tag : Bytes := []
  /-- Ciphertext of the data flits. -/
  data : Bytes := []
  deriving DecidableEq, Repr

/-- A received block (R212, R213). Whether its codewords decode is the physical layer's outcome. -/
structure RoadBlock where
  decodes : Bool
  correctedCodewords : Nat
  linkA : Bytes
  flits : List Bytes
  linkB : Bytes
  deriving DecidableEq, Repr

/-- The identity an end sends in link word B (R213, R216). -/
structure RoadIdentity where
  pkg : Fin 32
  road : Fin 64
  gen : Byte
  deriving DecidableEq, Repr

/-- The channel that carried a request envelope (R418). -/
inductive EnvChannel where
  | mgmt | fmRelay | tc
  deriving DecidableEq, Repr

/-- A request envelope (R428); its opcode is the row it is the operand of. -/
structure Envelope where
  channel : EnvChannel
  cookie : W32
  counter : W64
  bootNonce : W64
  reserved : W64 := 0
  args : Bytes
  /-- Absent on the TC channel. -/
  tag : Bytes := []
  deriving DecidableEq, Repr

/-- Where an order came from (R418): the PF mailbox of a port, which holds it SUBMITTED, or an envelope. -/
inductive OrderSource where
  | pf (p : Port)
  | env (e : Envelope)
  deriving DecidableEq, Repr

/-- What a read of an HBM block finds (R197). -/
inductive EccClass where
  | clean | corrected
  /-- Beyond the code's correction, and whether its mirror or second copy, where it has one, is so too. -/
  | uncorrectable (copyBad : Bool)
  | linkRetried
  deriving DecidableEq, Repr

/-- What GRANARY_ECC found (R367). -/
inductive GranaryError where
  | corrected | uncorrected | hardBank
  deriving DecidableEq, Repr

/-- A triplicated field (R375). -/
inductive TmrField where
  | containPolicy
  | hamletAssign (h : Fin 32) | hamletGen (h : Fin 32) | croftMap (h : Fin 32) | channels (h : Fin 32)
  | almanac (h : Fin 32)
  | ownerMap (i : Fin 1024) | wayMasks (t : Fin 32) | sliceBinding (s : Fin 256) | sliceGen (s : Fin 256)
  | strongboxSlots
  deriving DecidableEq, Repr

/-- A /T field whose copies differ: one odd copy, or all three (R375). -/
structure TmrFinding where
  field : TmrField
  allDiffer : Bool
  deriving DecidableEq, Repr

/-- The domain a fence deadline belongs to (R395). -/
inductive FenceScope where
  | slice (s : Fin 256) | hamlet (h : Fin 32) | package | tenant (t : Fin 32)
  deriving DecidableEq, Repr

/-- The reset step whose target ran out (R406). -/
inductive ResetScope where
  | context (s : Fin 256) (ctx : W16) | croft (h : Fin 32) (croft : Fin 13) | retirement (h : Fin 32)
  | hamlet (h : Fin 32) | warm | full
  deriving DecidableEq, Repr

/-- PTP common header fields the device uses (R459 to R461). -/
structure PtpHeader where
  domain : Byte
  sdoId : W16
  source : W64
  sourcePort : W16
  seq : W16
  /-- correctionField, in units of 2^-16 ns. -/
  correction : Int
  twoStep : Bool := false
  logInterval : Int := 0
  deriving DecidableEq, Repr

/-- The data set of an Announce message (R461). -/
structure PtpAnnounceBody where
  gmId : W64
  priority1 : Byte
  clockClass : Byte
  accuracy : Byte
  variance : W16
  priority2 : Byte
  stepsRemoved : W16
  ptpTimescale : Bool
  utcOffset : W16
  utcValid : Bool
  deriving DecidableEq, Repr

/-- The time a PTP message carries, with the port identity of the requester it answers. -/
structure PtpTime where
  /-- Timestamp of the message, in ns of TAI. -/
  ns : W64
  /-- requestingPortIdentity's clockIdentity, where the message has one. -/
  requester : W64 := 0
  deriving DecidableEq, Repr

/-- A unit a self-test phase failed (R480, R519): kind, unit and subunit as MB_SELFTEST_REPORT gives them. -/
structure FailedUnit where
  kind : Nat
  unit : Nat
  sub : Nat
  deriving DecidableEq, Repr

/-- The end of a self-test phase (R480). -/
structure PhaseResult where
  durationMs : Nat
  failed : List FailedUnit := []
  /-- The tests of the phase met its lantern condition. -/
  lantern : Bool := false
  /-- Low digit n of the failure code. -/
  detail : BitVec 4 := 0
  deriving DecidableEq, Repr

/-- The PCIe link rate trained to, in units of 0.5 GT/s (R490). -/
abbrev LinkRate := Nat
/-- The PCIe link width trained to. -/
abbrev LinkWidth := Nat

/-- One core as a gleanings record samples it (R389). -/
structure CoreSample where
  state : Byte
  flags : Byte
  pc : W32
  /-- The command the core was bound to: sequence, slice, lane. -/
  seq : W32 := 0
  slice : Byte := 0
  lane : Byte := 0
  cycles : W16
  deriving DecidableEq, Repr

/-- What the hardware read out for a gleanings record: cores by logical number, scratchpad samples by
logical croft, unreadable words (R389, R411). -/
structure GleaningsSample where
  cores : List (Nat × CoreSample)
  samples : List (Nat × Bytes)
  badWords : Nat
  deriving DecidableEq, Repr

/-- The commands and events of the block, in the order of spec/opcode_table.json. -/
inductive Instr where
  /-- LN_SQ_TAIL_WRITE (R66). -/
  | lnSqTailWrite (p : Port) (sl : Fin 256) (ln : Fin 64) (v : W32)
  /-- LN_CQ_HEAD_WRITE (R74). -/
  | lnCqHeadWrite (p : Port) (sl : Fin 256) (ln : Fin 64) (v : W32)
  /-- POSTCARD_SLOT_WRITE (R67). -/
  | postcardSlotWrite (p : Port) (sl : Fin 256) (ln : Fin 64) (slot : Fin 3) (off : Fin 256) (bytes : Bytes)
  /-- SHADOW_LO_READ (R442). -/
  | shadowLoRead (src : RegSource) (a : RegAddr) (width : Nat)
  /-- SHADOW_HI_READ (R442). -/
  | shadowHiRead (src : RegSource) (a : RegAddr) (width : Nat)
  /-- REGISTER_WRITE (R14). -/
  | registerWrite (src : RegSource) (a : RegAddr) (width : Nat) (v : W64) (hw : HwUpdate)
  /-- DESCRIPTOR_FETCH_DONE (R66). -/
  | descriptorFetchDone (sl : Fin 256) (ln : Fin 64) (r : DmaResult)
  /-- INPUT_READ_DONE (R92). -/
  | inputReadDone (c : Nat) (r : DmaResult)
  /-- PREDISPATCH_DECISION (R137). -/
  | predispatchDecision (c : Nat)
  /-- GQI_OP_RUN (R109). -/
  | gqiOpRun (c : Nat)
  /-- GQI_OP_RUN_CTX (R110). -/
  | gqiOpRunCtx (c : Nat)
  /-- GQI_OP_PREFILL_CHUNK (R260). -/
  | gqiOpPrefillChunk (c : Nat)
  /-- GQI_OP_CTX_RELEASE (R109). -/
  | gqiOpCtxRelease (c : Nat)
  /-- GQI_OP_NOP (R109). -/
  | gqiOpNop (c : Nat)
  /-- GQI_ADM_IDENTIFY (R115). -/
  | gqiAdmIdentify (c : Nat)
  /-- GQI_ADM_SET_FEATURES (R82). -/
  | gqiAdmSetFeatures (c : Nat)
  /-- GQI_ADM_CREATE_LANE (R112). -/
  | gqiAdmCreateLane (c : Nat)
  /-- GQI_ADM_DELETE_LANE (R112). -/
  | gqiAdmDeleteLane (c : Nat)
  /-- GQI_ADM_RESET_LANE (R113). -/
  | gqiAdmResetLane (c : Nat)
  /-- GQI_ADM_SET_LANE_POLICY (R257). -/
  | gqiAdmSetLanePolicy (c : Nat)
  /-- GQI_ADM_MODEL_LOAD (R327). -/
  | gqiAdmModelLoad (c : Nat) (image : DmaResult)
  /-- GQI_ADM_MODEL_UNLOAD (R88). -/
  | gqiAdmModelUnload (c : Nat)
  /-- GQI_ADM_QUERY_STATS (R271). -/
  | gqiAdmQueryStats (c : Nat)
  /-- GQI_ADM_GLEANINGS_READ (R391). -/
  | gqiAdmGleaningsRead (c : Nat)
  /-- GRANARY_RESERVE (R163). -/
  | granaryReserve (c : Nat)
  /-- BIND_COMMAND (R158). -/
  | bindCommand (h : Fin 32)
  /-- TILE_COMPLETE (R157). -/
  | tileComplete (c : Nat) (t : Tile) (e : TileEffects)
  /-- COMMIT_TOKEN (R165). -/
  | commitToken (c : Nat)
  /-- RESULT_DELIVERY (R118). -/
  | resultDelivery (c : Nat) (x : ResultTranslation)
  /-- COMPLETION_ENTRY_WRITE (R72). -/
  | completionEntryWrite (c : Nat) (translated : Bool)
  /-- IRQ_TIME_THRESHOLD (R76). -/
  | irqTimeThreshold (sl : Fin 256) (ln : Fin 64)
  /-- SHEAF_DONE (R347). -/
  | sheafDone (k : Nat)
  /-- TLY_READ (R175). -/
  | tlyRead (c : CmdTile) (name : W32)
  /-- TLY_WAIT_GE (R175). -/
  | tlyWaitGe (c : CmdTile) (name : W32) (v : W32)
  /-- TLY_WAIT_EQ (R175). -/
  | tlyWaitEq (c : CmdTile) (name : W32) (v : W32)
  /-- TLY_ADD (R175). -/
  | tlyAdd (c : CmdTile) (name : W32) (v : W32)
  /-- TLY_SET (R175). -/
  | tlySet (c : CmdTile) (name : W32) (v : W32)
  /-- TLY_CLAIM (R177). -/
  | tlyClaim (c : CmdTile) (name : W32)
  /-- TLY_CLAIM_WAIT (R177). -/
  | tlyClaimWait (c : CmdTile) (name : W32)
  /-- TLY_RELEASE (R177). -/
  | tlyRelease (c : CmdTile) (name : W32)
  /-- TALLY_WAIT_RELEASE (R176). -/
  | tallyWaitRelease (name : W32)
  /-- REMOTE_READ (R222). -/
  | remoteRead (c : CmdTile) (addr : W64) (len : Nat)
  /-- REMOTE_WRITE (R164). -/
  | remoteWrite (c : CmdTile) (addr : W64) (bytes : Bytes)
  /-- RD (R222). -/
  | rd (r : Fin 64) (m : RoadMsg)
  /-- WR_STAGE (R222). -/
  | wrStage (r : Fin 64) (m : RoadMsg)
  /-- MARK (R235). -/
  | mark (r : Fin 64) (m : RoadMsg)
  /-- RD_DATA (R222). -/
  | rdData (r : Fin 64) (m : RoadMsg)
  /-- STAGED_ACK (R165). -/
  | stagedAck (r : Fin 64) (m : RoadMsg)
  /-- APPLIED (R168). -/
  | applied (r : Fin 64) (m : RoadMsg)
  /-- GRANT (R164). -/
  | grant (r : Fin 64) (m : RoadMsg)
  /-- DEFERRED (R164). -/
  | deferred (r : Fin 64) (m : RoadMsg)
  /-- TALLY_RESULT (R180). -/
  | tallyResult (r : Fin 64) (m : RoadMsg)
  /-- SYNC_ACK (R398). -/
  | syncAck (r : Fin 64) (m : RoadMsg)
  /-- NACK (R219). -/
  | nack (r : Fin 64) (m : RoadMsg)
  /-- RESERVE (R164). -/
  | reserve (r : Fin 64) (m : RoadMsg)
  /-- UNRESERVE (R219). -/
  | unreserve (r : Fin 64) (m : RoadMsg)
  /-- COMMIT (R167). -/
  | commit (r : Fin 64) (m : RoadMsg)
  /-- DISCARD_MESSAGE (R169). -/
  | discardMessage (r : Fin 64) (m : RoadMsg)
  /-- TALLY_OP (R180). -/
  | tallyOp (r : Fin 64) (m : RoadMsg)
  /-- WAIT_REGISTER (R180). -/
  | waitRegister (r : Fin 64) (m : RoadMsg)
  /-- WAIT_NOTIFY (R180). -/
  | waitNotify (r : Fin 64) (m : RoadMsg)
  /-- EPOCH_INSTALL (R227). -/
  | epochInstall (r : Fin 64) (m : RoadMsg)
  /-- EPOCH_RETIRE (R228). -/
  | epochRetire (r : Fin 64) (m : RoadMsg)
  /-- EPOCH_ACK (R228). -/
  | epochAck (r : Fin 64) (m : RoadMsg)
  /-- ORPHAN_NOTICE (R179). -/
  | orphanNotice (r : Fin 64) (m : RoadMsg)
  /-- JOB_DEAD (R413). -/
  | jobDead (r : Fin 64) (m : RoadMsg)
  /-- ROUTE_NOTICE (R232). -/
  | routeNotice (r : Fin 64) (m : RoadMsg)
  /-- MARK_SEEN (R235). -/
  | markSeen (r : Fin 64) (m : RoadMsg)
  /-- REPLAY_QUERY (R230). -/
  | replayQuery (r : Fin 64) (m : RoadMsg)
  /-- REPLAY_REPLY (R230). -/
  | replayReply (r : Fin 64) (m : RoadMsg)
  /-- TIME_PROBE (R470). -/
  | timeProbe (r : Fin 64) (m : RoadMsg)
  /-- TIME_REPLY (R470). -/
  | timeReply (r : Fin 64) (m : RoadMsg)
  /-- LIVE (R237). -/
  | live (r : Fin 64) (m : RoadMsg)
  /-- ROAD_BLOCK_RECEIVED (R214). -/
  | roadBlockReceived (r : Fin 64) (b : RoadBlock)
  /-- ROAD_TRAINING_DONE (R216). -/
  | roadTrainingDone (r : Fin 64) (far : RoadIdentity)
  /-- ROAD_TRAINING_TIMEOUT (R207). -/
  | roadTrainingTimeout (r : Fin 64)
  /-- ROAD_SIGNAL_LOST (R207). -/
  | roadSignalLost (r : Fin 64)
  /-- PEER_SILENCE_TIMEOUT (R237). -/
  | peerSilenceTimeout (q : Fin 32)
  /-- LIVE_TIMER (R237). -/
  | liveTimer
  /-- REQUEST_TIMEOUT (R224). -/
  | requestTimeout (h : Fin 32) (ttag : W16)
  /-- ROUTE_RECOMPUTE (R232). -/
  | routeRecompute
  /-- EPOCH_ROTATION (R227). -/
  | epochRotation (t : Fin 32)
  /-- TIME_PROBE_TIMER (R239). -/
  | timeProbeTimer
  /-- BACKUP_TAKEOVER (R241). -/
  | backupTakeover
  /-- MBX_ACK (R423). -/
  | mbxAck (p : Port)
  /-- ORDER_START (R433). -/
  | orderStart (jseq : Nat)
  /-- WIDE_REQ (R446). -/
  | wideReq (src : RegSource) (selector : Byte) (index : W16)
  /-- WIDE_ACK (R446). -/
  | wideAck (src : RegSource)
  /-- LDG_COMMIT_COMMIT (R451). -/
  | ldgCommitCommit
  /-- LDG_COMMIT_CAPTURE (R451). -/
  | ldgCommitCapture
  /-- LDG_RANGE_WRITE (R448). -/
  | ldgRangeWrite (n : Fin 16) (limit : Bool) (v : W32)
  /-- LEDGER_PASS_START (R449). -/
  | ledgerPassStart
  /-- LEDGER_PASS_END (R450). -/
  | ledgerPassEnd
  /-- MB_IDENTIFY (R44). -/
  | mbIdentify (src : OrderSource)
  /-- MB_SELFTEST_REPORT (R480). -/
  | mbSelftestReport (src : OrderSource)
  /-- MB_LOG_READ (R520). -/
  | mbLogRead (src : OrderSource)
  /-- MB_FAULT_LOG_READ (R376). -/
  | mbFaultLogRead (src : OrderSource)
  /-- MB_DETAIL_LOG_READ (R106). -/
  | mbDetailLogRead (src : OrderSource)
  /-- MB_GLEANINGS_LIST (R391). -/
  | mbGleaningsList (src : OrderSource)
  /-- MB_ORDER_STATUS (R436). -/
  | mbOrderStatus (src : OrderSource)
  /-- MB_SLICE_STATS (R270). -/
  | mbSliceStats (src : OrderSource)
  /-- MB_TENANT_CREATE (R342). -/
  | mbTenantCreate (src : OrderSource)
  /-- MB_TENANT_REMOVE (R350). -/
  | mbTenantRemove (src : OrderSource)
  /-- MB_TENANT_PERMIT (R332). -/
  | mbTenantPermit (src : OrderSource)
  /-- MB_HAMLET_ASSIGN (R343). -/
  | mbHamletAssign (src : OrderSource)
  /-- MB_HAMLET_RELEASE (R344). -/
  | mbHamletRelease (src : OrderSource)
  /-- MB_HAMLET_RESET (R401). -/
  | mbHamletReset (src : OrderSource)
  /-- MB_HAMLET_CONFIG (R519). -/
  | mbHamletConfig (src : OrderSource)
  /-- MB_OWNER_MAP_SET (R342). -/
  | mbOwnerMapSet (src : OrderSource)
  /-- MB_WAY_MASK (R330). -/
  | mbWayMask (src : OrderSource)
  /-- MB_TALLY_ALLOC (R173). -/
  | mbTallyAlloc (src : OrderSource)
  /-- MB_SLICE_CREATE (R345). -/
  | mbSliceCreate (src : OrderSource)
  /-- MB_SLICE_DESTROY (R346). -/
  | mbSliceDestroy (src : OrderSource)
  /-- MB_SLICE_RESET (R348). -/
  | mbSliceReset (src : OrderSource)
  /-- MB_SLICE_SET_PORT (R79). -/
  | mbSliceSetPort (src : OrderSource)
  /-- MB_SLICE_SCHED (R251). -/
  | mbSliceSched (src : OrderSource)
  /-- MB_SLICE_RATE (R274). -/
  | mbSliceRate (src : OrderSource)
  /-- MB_ALMANAC_WRITE (R249). -/
  | mbAlmanacWrite (src : OrderSource)
  /-- MB_RESV_CREATE (R279). -/
  | mbResvCreate (src : OrderSource)
  /-- MB_RESV_END (R278). -/
  | mbResvEnd (src : OrderSource)
  /-- MB_RESV_QUERY (R278). -/
  | mbResvQuery (src : OrderSource)
  /-- MB_ROAD_ENABLE (R207). -/
  | mbRoadEnable (src : OrderSource)
  /-- MB_ROAD_DISABLE (R207). -/
  | mbRoadDisable (src : OrderSource)
  /-- MB_ROAD_WEIGHT (R282). -/
  | mbRoadWeight (src : OrderSource)
  /-- MB_TIME_ROLE (R238). -/
  | mbTimeRole (src : OrderSource)
  /-- MB_TIME_CONFIG (R458). -/
  | mbTimeConfig (src : OrderSource)
  /-- MB_TIME_SET (R469). -/
  | mbTimeSet (src : OrderSource)
  /-- MB_CONTAIN_POLICY (R363). -/
  | mbContainPolicy (src : OrderSource)
  /-- MB_RECOVERY_SET (R396). -/
  | mbRecoverySet (src : OrderSource)
  /-- MB_PKG_RESET (R403). -/
  | mbPkgReset (src : OrderSource)
  /-- MB_RETURN_TO_SERVICE (R410). -/
  | mbReturnToService (src : OrderSource)
  /-- MB_JOB_SET (R386). -/
  | mbJobSet (src : OrderSource)
  /-- MB_JOB_DEAD (R413). -/
  | mbJobDead (src : OrderSource)
  /-- MB_JOB_CLEAR (R387). -/
  | mbJobClear (src : OrderSource)
  /-- MB_MIG_FREEZE (R353). -/
  | mbMigFreeze (src : OrderSource)
  /-- MB_MIG_SAVE (R354). -/
  | mbMigSave (src : OrderSource)
  /-- MB_MIG_RESTORE (R357). -/
  | mbMigRestore (src : OrderSource) (image : DmaResult)
  /-- MB_MIG_RESUME (R361). -/
  | mbMigResume (src : OrderSource)
  /-- MB_CHARTER_READ (R488). -/
  | mbCharterRead (src : OrderSource)
  /-- MB_CHARTER_WRITE (R488). -/
  | mbCharterWrite (src : OrderSource)
  /-- MB_FW_WRITE (R484). -/
  | mbFwWrite (src : OrderSource) (image : DmaResult)
  /-- MB_FW_SVN_COMMIT (R484). -/
  | mbFwSvnCommit (src : OrderSource)
  /-- MB_REBOOT (R494). -/
  | mbReboot (src : OrderSource)
  /-- MB_DEBUG_UNLOCK (R337). -/
  | mbDebugUnlock (src : OrderSource)
  /-- TENANT_CLAIM (R312). -/
  | tenantClaim (p : Port) (session : Nat) (msg : Bytes)
  /-- SLICE_KEY_INSTALL (R313). -/
  | sliceKeyInstall (p : Port) (session : Nat) (msg : Bytes)
  /-- SLICE_KEY_RETIRE (R310). -/
  | sliceKeyRetire (p : Port) (session : Nat) (msg : Bytes)
  /-- TENANT_STATUS (R310). -/
  | tenantStatus (p : Port) (session : Nat) (msg : Bytes)
  /-- MIGRATION_ARM (R352). -/
  | migrationArm (p : Port) (session : Nat) (msg : Bytes)
  /-- GET_VERSION (R306). -/
  | getVersion (p : Port) (req : Bytes)
  /-- GET_CAPABILITIES (R306). -/
  | getCapabilities (p : Port) (req : Bytes)
  /-- NEGOTIATE_ALGORITHMS (R306). -/
  | negotiateAlgorithms (p : Port) (req : Bytes)
  /-- GET_DIGESTS (R306). -/
  | getDigests (p : Port) (req : Bytes)
  /-- GET_CERTIFICATE (R307). -/
  | getCertificate (p : Port) (req : Bytes)
  /-- CHALLENGE (R306). -/
  | challenge (p : Port) (req : Bytes)
  /-- GET_MEASUREMENTS (R308). -/
  | getMeasurements (p : Port) (req : Bytes)
  /-- KEY_EXCHANGE (R306). -/
  | keyExchange (p : Port) (req : Bytes)
  /-- FINISH (R306). -/
  | finish (p : Port) (req : Bytes)
  /-- ALMANAC_ACTIVATION (R249). -/
  | almanacActivation (h : Fin 32)
  /-- ALMANAC_SLOT_BOUNDARY (R250). -/
  | almanacSlotBoundary (h : Fin 32)
  /-- PREEMPT_TRIGGER (R263). -/
  | preemptTrigger (h : Fin 32)
  /-- STILE_REACHED (R267). -/
  | stileReached (c : Nat) (h : Fin 32)
  /-- PARK_DONE (R267). -/
  | parkDone (c : Nat) (h : Fin 32)
  /-- RESUME_DONE (R267). -/
  | resumeDone (c : Nat) (h : Fin 32)
  /-- BROWNOUT_GRANTS_APPLY (R290). -/
  | brownoutGrantsApply
  /-- STRICT_FRAME_BOUNDARY (R333). -/
  | strictFrameBoundary
  /-- PATROL_SCRUB (R199). -/
  | patrolScrub (h : Fin 32) (block : Nat) (cls : EccClass)
  /-- CORRECTED_WRITEBACK (R197). -/
  | correctedWriteback (h : Fin 32) (block : Nat)
  /-- CHANNEL_FAILURE (R202). -/
  | channelFailure (h : Fin 32) (ch : Fin 4)
  /-- CHANNEL_REBUILD_DONE (R202). -/
  | channelRebuildDone (h : Fin 32)
  /-- ZERO_FILL_DONE (R343). -/
  | zeroFillDone (h : Fin 32)
  /-- CORE_ECC (R367). -/
  | coreEcc (h : Fin 32) (croft : Fin 13) (core : Fin 72) (corrected : Bool)
  /-- MILL_RESIDUE (R367). -/
  | millResidue (h : Fin 32) (croft : Fin 13) (core : Fin 72)
  /-- SPAD_ECC (R367). -/
  | spadEcc (h : Fin 32) (croft : Fin 13) (off : Nat) (corrected : Bool)
  /-- DISPATCH (R367). -/
  | dispatch (h : Fin 32) (croft : Fin 13) (core : Fin 72)
  /-- GRANARY_ECC (R367). -/
  | granaryEcc (h : Fin 32) (bank : Nat) (kind : GranaryError) (touched : List Nat)
  /-- TALLY_VOTE (R367). -/
  | tallyVote (h : Fin 32) (idx : Fin 256) (allDiffer : Bool)
  /-- BRIDGE (R367). -/
  | bridge (f : Fin 4) (retries : Nat)
  /-- FIELD_NET (R367). -/
  | fieldNet (f : Fin 4)
  /-- REEVE_LOCK (R372). -/
  | reeveLock (pair : Fin 2)
  /-- REEVE_WDOG (R372). -/
  | reeveWdog (pair : Fin 2)
  /-- REEVE_TAKEOVER_DONE (R372). -/
  | reeveTakeoverDone
  /-- REEVE_PAIR_RETURN (R373). -/
  | reevePairReturn (pair : Fin 2) (pass : Bool)
  /-- TMR_REREAD (R375). -/
  | tmrReread (odd : List TmrFinding)
  /-- HEARTH_SRAM (R367). -/
  | hearthSram (cache : Bool)
  /-- CRYPTO_KAT (R367). -/
  | cryptoKat (engine : Fin 16)
  /-- CLOCK (R47). -/
  | clock
  /-- RAIL (R534). -/
  | rail (rail : Fin 9)
  /-- THERMAL_SAMPLE (R538). -/
  | thermalSample (die : Fin 5) (readings : List Int)
  /-- THERMTRIP (R539). -/
  | thermtrip (die : Fin 5)
  /-- SPARE_BIST_DONE (R369). -/
  | spareBistDone (h : Fin 32) (pass : Bool)
  /-- CROFT_REMAP_DONE (R369). -/
  | croftRemapDone (h : Fin 32)
  /-- CROFT_SELF_CHECK_DONE (R400). -/
  | croftSelfCheckDone (h : Fin 32) (croft : Fin 13) (pass : Bool)
  /-- HANG_TIMEOUT (R394). -/
  | hangTimeout (c : Nat)
  /-- CORE_IDLE_TIMEOUT (R406). -/
  | coreIdleTimeout (h : Fin 32) (croft : Fin 13)
  /-- FENCE_DEADLINE (R395). -/
  | fenceDeadline (scope : FenceScope)
  /-- RESET_TARGET_EXPIRY (R406). -/
  | resetTargetExpiry (scope : ResetScope)
  /-- TTAG_QUARANTINE_EXPIRY (R384). -/
  | ttagQuarantineExpiry (h : Fin 32) (ttag : W16)
  /-- WARM_RESET_HOLD_EXPIRY (R365). -/
  | warmResetHoldExpiry
  /-- FULL_RESET_TIMEOUT (R405). -/
  | fullResetTimeout
  /-- PTP_ANNOUNCE (R461). -/
  | ptpAnnounce (hd : PtpHeader) (a : PtpAnnounceBody)
  /-- PTP_SYNC (R462). -/
  | ptpSync (hd : PtpHeader) (t : PtpTime)
  /-- PTP_FOLLOW_UP (R462). -/
  | ptpFollowUp (hd : PtpHeader) (t : PtpTime)
  /-- PTP_DELAY_REQ_TIMER (R459). -/
  | ptpDelayReqTimer
  /-- PTP_DELAY_RESP (R459). -/
  | ptpDelayResp (hd : PtpHeader) (t : PtpTime)
  /-- PTP_PDELAY_REQ (R459). -/
  | ptpPdelayReq (hd : PtpHeader) (t : PtpTime)
  /-- PTP_PDELAY_RESP (R459). -/
  | ptpPdelayResp (hd : PtpHeader) (t : PtpTime)
  /-- PTP_PDELAY_RESP_FOLLOW_UP (R459). -/
  | ptpPdelayRespFollowUp (hd : PtpHeader) (t : PtpTime)
  /-- PPS_IN_EDGE (R467). -/
  | ppsInEdge
  /-- SOURCE_LOST_TIMEOUT (R464). -/
  | sourceLostTimeout
  /-- HOLDOVER_LIMIT (R465). -/
  | holdoverLimit
  /-- PPS_OUT_SECOND (R468). -/
  | ppsOutSecond
  /-- PPS_OUT_FALL (R468). -/
  | ppsOutFall
  /-- VDD_AUX_CHANGE (R473). -/
  | vddAuxChange (inRange : Bool)
  /-- PWR_OK_ASSERT (R475). -/
  | pwrOkAssert
  /-- PWR_OK_DEASSERT (R476). -/
  | pwrOkDeassert
  /-- PKG_RESET_N_ASSERT (R479). -/
  | pkgResetNAssert
  /-- PKG_RESET_N_DEASSERT (R32). -/
  | pkgResetNDeassert (tray : Fin 8) (slot : Fin 4)
  /-- PERST_ASSERT (R479). -/
  | perstAssert (p : Port)
  /-- PERST_DEASSERT (R479). -/
  | perstDeassert (p : Port)
  /-- REFCLK_RESTORED (R479). -/
  | refclkRestored
  /-- SELFTEST_PHASE_DONE (R480). -/
  | selftestPhaseDone (r : PhaseResult)
  /-- AVS_TARGET_CHANGE (R477). -/
  | avsTargetChange (f : Fin 4) (mv : Nat)
  /-- CONFIG_REQUEST (R481). -/
  | configRequest (p : Port) (off : BitVec 12) (write : Option W32)
  /-- LINK_DOWN (R79). -/
  | linkDown (p : Port)
  /-- FLR (R87). -/
  | flr (p : Port)
  /-- ATS_INVALIDATION (R85). -/
  | atsInvalidation (p : Port) (pasid : BitVec 20) (page : Nat)
  /-- I3C_STATUS_READ (R492). -/
  | i3cStatusRead
  /-- I3C_DYNAMIC_ADDRESS (R491). -/
  | i3cDynamicAddress (a : BitVec 7)
  /-- EXTEST (R533). -/
  | extest
  /-- IDCODE (R533). -/
  | idcode
  /-- SAMPLE_PRELOAD (R533). -/
  | samplePreload (pins : BitVec 64) (preload : BitVec 64)
  /-- CLAMP (R533). -/
  | clamp
  /-- HIGHZ (R533). -/
  | highz
  /-- BYPASS (R533). -/
  | bypass
  /-- ROAD_TRAINING_START (R207). -/
  | roadTrainingStart (r : Fin 64)
  /-- LINK_UP (R79). -/
  | linkUp (p : Port) (rate : LinkRate) (width : LinkWidth)
  /-- HBM_UNCORRECTABLE (R197). -/
  | hbmUncorrectable (h : Fin 32) (block : Nat) (cls : EccClass) (reader : Option Nat)
  /-- GLEANINGS_COLLECTED (R411). -/
  | gleaningsCollected (h : Fin 32) (g : GleaningsSample)
  /-- HAMLET_RESET_DONE (R401). -/
  | hamletResetDone (h : Fin 32)
  /-- PACKAGE_WARM_RESET_DONE (R403). -/
  | packageWarmResetDone
  /-- FLASH_OPERATION_DONE (R488). -/
  | flashOperationDone (pass : Bool)
  deriving DecidableEq, Repr

end Sys2Proof
end

