-- ==== Sys2Proof/Machine/Bits.lean ====
section
/-! DEFINITION. Byte strings and their little-endian fields (R10), and the CRC-32C check. -/

namespace Sys2Proof.Machine
open Sys2Proof

/-- The `k` little-endian bytes of `n`. -/
def leBytes : Nat → Nat → Bytes
  | 0, _ => []
  | k + 1, n => BitVec.ofNat 8 n :: leBytes k (n / 256)

/-- The number a byte string is in little-endian order. -/
def leNat : Bytes → Nat
  | [] => 0
  | b :: bs => b.toNat + 256 * leNat bs

/-- The `k` big-endian bytes of `n`. -/
def beBytes (k n : Nat) : Bytes := (leBytes k n).reverse

/-- The number a byte string is in big-endian order. -/
def beNat (bs : Bytes) : Nat := leNat bs.reverse

/-- Bytes `off` to `off + len - 1` of a string. -/
def sub (bs : Bytes) (off len : Nat) : Bytes := (bs.drop off).take len

/-- The little-endian field of `len` bytes at byte `off`. -/
def fld (bs : Bytes) (off len : Nat) : Nat := leNat (sub bs off len)

/-- Bits [hi:lo] of a number. -/
def bits (n hi lo : Nat) : Nat := n / 2 ^ lo % 2 ^ (hi + 1 - lo)

/-- Bit `i` of a number. -/
def bitOf (n i : Nat) : Bool := n / 2 ^ i % 2 = 1

/-- 1 for true. -/
def b2n (b : Bool) : Nat := if b then 1 else 0

/-- `n` zero bytes. -/
def zeros (n : Nat) : Bytes := List.replicate n 0

/-- `bs` filled with zeros, or cut, to `n` bytes. -/
def padTo (n : Nat) (bs : Bytes) : Bytes := (bs ++ zeros n).take n

/-- Every byte is 0. -/
def allZero (bs : Bytes) : Bool := bs.all (· == 0)

/-- The string with `new` written over it from byte `off` on. -/
def overlay (bs : Bytes) (off : Nat) (new : Bytes) : Bytes :=
  bs.take off ++ new ++ bs.drop (off + new.length)

/-- `n` divided by `d`, rounded up. -/
def ceilDiv (n d : Nat) : Nat := (n + d - 1) / d

/-- A count that saturates at 2^k - 1. -/
def satAdd (k n d : Nat) : Nat := min (n + d) (2 ^ k - 1)

/-- A 64-bit counter advanced by `n`: it saturates at 2^64 - 1 (R496). -/
def addCount (c : W64) (n : Nat) : W64 := BitVec.ofNat 64 (satAdd 64 c.toNat n)

/-- The numbers whose bit is set in `m`, among the lowest `k`. -/
def bitList (k m : Nat) : List Nat := (List.range k).filter (bitOf m)

/-- The word with the bits of `l` set. -/
def ofBitList (l : List Nat) : Nat := l.foldl (fun a i => if bitOf a i then a else a + 2 ^ i) 0

/-- One bit step of the reflected CRC-32C register. -/
def crcBit (c : W32) : W32 := if c.getLsbD 0 then (c >>> 1) ^^^ 0x82F63B78#32 else c >>> 1

/-- One byte step of CRC-32C. -/
def crcByte (c : W32) (b : Byte) : W32 :=
  crcBit (crcBit (crcBit (crcBit (crcBit (crcBit (crcBit (crcBit (c ^^^ b.setWidth 32))))))))

/-- CRC-32C of a byte string. -/
def crc32c (bs : Bytes) : W32 := bs.foldl crcByte 0xFFFFFFFF#32 ^^^ 0xFFFFFFFF#32

end Sys2Proof.Machine
end

