-- ==== Sys2Proof/Machine/Crypto.lean ====
section
/-! DEFINITION. SHA-384, HMAC-SHA-384, HKDF-SHA-384, AES-256, AES-256-XTS, AES-256-GCM and ECDSA P-384 verification: the
algorithms the spec names (R22, R298 to R310, R483) without restating them. PRESUMED from the published
standards (log 9). -/

namespace Sys2Proof.Machine
open Sys2Proof

/-! ### SHA-384 -/

/-- Round constants of SHA-512 and SHA-384. Part 0. -/
def shaK0 : List W64 :=
  [0x428A2F98D728AE22#64, 0x7137449123EF65CD#64, 0xB5C0FBCFEC4D3B2F#64, 0xE9B5DBA58189DBBC#64,
   0x3956C25BF348B538#64, 0x59F111F1B605D019#64, 0x923F82A4AF194F9B#64, 0xAB1C5ED5DA6D8118#64,
   0xD807AA98A3030242#64, 0x12835B0145706FBE#64, 0x243185BE4EE4B28C#64, 0x550C7DC3D5FFB4E2#64,
   0x72BE5D74F27B896F#64, 0x80DEB1FE3B1696B1#64, 0x9BDC06A725C71235#64, 0xC19BF174CF692694#64,
   0xE49B69C19EF14AD2#64, 0xEFBE4786384F25E3#64, 0x0FC19DC68B8CD5B5#64, 0x240CA1CC77AC9C65#64]

/-- Round constants of SHA-512 and SHA-384. Part 1. -/
def shaK1 : List W64 :=
  [0x2DE92C6F592B0275#64, 0x4A7484AA6EA6E483#64, 0x5CB0A9DCBD41FBD4#64, 0x76F988DA831153B5#64,
   0x983E5152EE66DFAB#64, 0xA831C66D2DB43210#64, 0xB00327C898FB213F#64, 0xBF597FC7BEEF0EE4#64,
   0xC6E00BF33DA88FC2#64, 0xD5A79147930AA725#64, 0x06CA6351E003826F#64, 0x142929670A0E6E70#64,
   0x27B70A8546D22FFC#64, 0x2E1B21385C26C926#64, 0x4D2C6DFC5AC42AED#64, 0x53380D139D95B3DF#64,
   0x650A73548BAF63DE#64, 0x766A0ABB3C77B2A8#64, 0x81C2C92E47EDAEE6#64, 0x92722C851482353B#64]

/-- Round constants of SHA-512 and SHA-384. Part 2. -/
def shaK2 : List W64 :=
  [0xA2BFE8A14CF10364#64, 0xA81A664BBC423001#64, 0xC24B8B70D0F89791#64, 0xC76C51A30654BE30#64,
   0xD192E819D6EF5218#64, 0xD69906245565A910#64, 0xF40E35855771202A#64, 0x106AA07032BBD1B8#64,
   0x19A4C116B8D2D0C8#64, 0x1E376C085141AB53#64, 0x2748774CDF8EEB99#64, 0x34B0BCB5E19B48A8#64,
   0x391C0CB3C5C95A63#64, 0x4ED8AA4AE3418ACB#64, 0x5B9CCA4F7763E373#64, 0x682E6FF3D6B2B8A3#64,
   0x748F82EE5DEFB2FC#64, 0x78A5636F43172F60#64, 0x84C87814A1F0AB72#64, 0x8CC702081A6439EC#64]

/-- Round constants of SHA-512 and SHA-384. Part 3. -/
def shaK3 : List W64 :=
  [0x90BEFFFA23631E28#64, 0xA4506CEBDE82BDE9#64, 0xBEF9A3F7B2C67915#64, 0xC67178F2E372532B#64,
   0xCA273ECEEA26619C#64, 0xD186B8C721C0C207#64, 0xEADA7DD6CDE0EB1E#64, 0xF57D4F7FEE6ED178#64,
   0x06F067AA72176FBA#64, 0x0A637DC5A2C898A6#64, 0x113F9804BEF90DAE#64, 0x1B710B35131C471B#64,
   0x28DB77F523047D84#64, 0x32CAAB7B40C72493#64, 0x3C9EBE0A15C9BEBC#64, 0x431D67C49C100D4C#64,
   0x4CC5D4BECB3E42B6#64, 0x597F299CFC657E2A#64, 0x5FCB6FAB3AD6FAEC#64, 0x6C44198C4A475817#64]

/-- Round constants of SHA-512 and SHA-384. -/
def shaK : List W64 := shaK0 ++ shaK1 ++ shaK2 ++ shaK3

/-- Initial hash value of SHA-384. -/
def shaInit : List W64 :=
  [0xCBBB9D5DC1059ED8#64, 0x629A292A367CD507#64, 0x9159015A3070DD17#64, 0x152FECD8F70E5939#64,
   0x67332667FFC00B31#64, 0x8EB44A8768581511#64, 0xDB0C2E0D64F98FA7#64, 0x47B5481DBEFA4FA4#64]

/-- The message schedule, extended from the words so far in reverse order. -/
def shaExtend : Nat → List W64 → List W64
  | 0, r => r
  | n + 1, r =>
    let w2 := r.getD 1 0
    let w7 := r.getD 6 0
    let w15 := r.getD 14 0
    let w16 := r.getD 15 0
    let s0 := w15.rotateRight 1 ^^^ w15.rotateRight 8 ^^^ (w15 >>> 7)
    let s1 := w2.rotateRight 19 ^^^ w2.rotateRight 61 ^^^ (w2 >>> 6)
    shaExtend n ((s1 + w7 + s0 + w16) :: r)

/-- The eight working words of SHA-384. -/
structure ShaWork where
  a : W64
  b : W64
  c : W64
  d : W64
  e : W64
  f : W64
  g : W64
  h : W64

/-- One round. -/
def shaRound (x : ShaWork) (kw : W64 × W64) : ShaWork :=
  let s1 := x.e.rotateRight 14 ^^^ x.e.rotateRight 18 ^^^ x.e.rotateRight 41
  let ch := (x.e &&& x.f) ^^^ (~~~x.e &&& x.g)
  let t1 := x.h + s1 + ch + kw.1 + kw.2
  let s0 := x.a.rotateRight 28 ^^^ x.a.rotateRight 34 ^^^ x.a.rotateRight 39
  let mj := (x.a &&& x.b) ^^^ (x.a &&& x.c) ^^^ (x.b &&& x.c)
  ⟨t1 + s0 + mj, x.a, x.b, x.c, x.d + t1, x.e, x.f, x.g⟩

/-- Groups of `k` bytes, `n` of them. -/
def chunksOf (k : Nat) : Nat → Bytes → List Bytes
  | 0, _ => []
  | n + 1, bs => bs.take k :: chunksOf k n (bs.drop k)

/-- One block of the compression. -/
def shaBlock (hs : List W64) (blk : Bytes) : List W64 :=
  let w := (chunksOf 8 16 blk).map fun c => BitVec.ofNat 64 (beNat c)
  let sched := (shaExtend 64 w.reverse).reverse
  let x0 : ShaWork := ⟨hs.getD 0 0, hs.getD 1 0, hs.getD 2 0, hs.getD 3 0, hs.getD 4 0, hs.getD 5 0, hs.getD 6 0, hs.getD 7 0⟩
  let x := (shaK.zip sched).foldl shaRound x0
  [x0.a + x.a, x0.b + x.b, x0.c + x.c, x0.d + x.d, x0.e + x.e, x0.f + x.f, x0.g + x.g, x0.h + x.h]

/-- SHA-384 of a byte string: 48 bytes. -/
def sha384 (m : Bytes) : Bytes :=
  let l := m.length
  let padded := m ++ [0x80] ++ zeros ((239 - l % 128) % 128) ++ beBytes 16 (8 * l)
  let hs := (chunksOf 128 (padded.length / 128) padded).foldl shaBlock shaInit
  (hs.take 6).flatMap fun w => beBytes 8 w.toNat

/-- HMAC-SHA-384. -/
def hmac384 (key m : Bytes) : Bytes :=
  let k := padTo 128 (if key.length ≤ 128 then key else sha384 key)
  sha384 (k.map (· ^^^ 0x5C) ++ sha384 (k.map (· ^^^ 0x36) ++ m))

/-- HKDF-Extract. -/
def hkdfExtract (salt ikm : Bytes) : Bytes := hmac384 (if salt.isEmpty then zeros 48 else salt) ikm

/-- The blocks T(i), T(i+1), ... of HKDF-Expand. -/
def hkdfBlocks (prk info : Bytes) : Nat → Nat → Bytes → Bytes
  | 0, _, _ => []
  | n + 1, i, prev =>
    let t := hmac384 prk (prev ++ info ++ [BitVec.ofNat 8 i])
    t ++ hkdfBlocks prk info n (i + 1) t

/-- HKDF-Expand to `len` bytes. -/
def hkdfExpand (prk info : Bytes) (len : Nat) : Bytes :=
  (hkdfBlocks prk info (ceilDiv len 48) 1 []).take len

/-- HKDF-SHA-384 of RFC 5869. -/
def hkdf (salt ikm info : Bytes) (len : Nat) : Bytes := hkdfExpand (hkdfExtract salt ikm) info len

/-! ### AES-256 -/

/-- Multiplication by x in GF(2^8). -/
def xtime (b : Byte) : Byte := (b <<< 1) ^^^ (if b.msb then 0x1B else 0)

/-- Multiplication in GF(2^8), over the lowest `n` bits of `b`. -/
def gmulN : Nat → Byte → Byte → Byte
  | 0, _, _ => 0
  | n + 1, a, b => (if b.getLsbD 0 then a else 0) ^^^ gmulN n (xtime a) (b >>> 1)

def gmul (a b : Byte) : Byte := gmulN 8 a b

/-- The inverse a^254 of GF(2^8), 0 for 0. -/
def ginv (a : Byte) : Byte :=
  let a2 := gmul a a
  let a4 := gmul a2 a2
  let a8 := gmul a4 a4
  let a16 := gmul a8 a8
  let a32 := gmul a16 a16
  let a64 := gmul a32 a32
  let a128 := gmul a64 a64
  gmul (gmul (gmul a2 a4) (gmul a8 a16)) (gmul (gmul a32 a64) a128)

/-- The AES S-box. -/
def sbox (a : Byte) : Byte :=
  let b := ginv a
  b ^^^ b.rotateLeft 1 ^^^ b.rotateLeft 2 ^^^ b.rotateLeft 3 ^^^ b.rotateLeft 4 ^^^ 0x63

/-- Bytewise exclusive or. -/
def xorBytes (a b : Bytes) : Bytes := List.zipWith (· ^^^ ·) a b

/-- The expanded key as words in reverse order, `n` more from word `i` on. -/
def aesExpand : Nat → Nat → Byte → List Bytes → List Bytes
  | 0, _, _, r => r
  | n + 1, i, rc, r =>
    let p := r.getD 0 []
    let t := if i % 8 = 0 then xorBytes ((p.drop 1 ++ p.take 1).map sbox) [rc, 0, 0, 0]
      else if i % 8 = 4 then p.map sbox else p
    aesExpand n (i + 1) (if i % 8 = 0 then xtime rc else rc) (xorBytes (r.getD 7 []) t :: r)

/-- The fifteen round keys of AES-256, 16 bytes each. -/
def aesKeys (key : Bytes) : List Bytes :=
  chunksOf 16 15 ((aesExpand 52 8 1 (chunksOf 4 8 (padTo 32 key)).reverse).reverse.flatten)

/-- SubBytes and ShiftRows. -/
def aesSubShift (s : Bytes) : Bytes :=
  (List.range 16).map fun i => sbox (s.getD ((i + 4 * (i % 4)) % 16) 0)

/-- One column of MixColumns. -/
def aesMixCol (c : Bytes) : Bytes :=
  (List.range 4).map fun i =>
    xtime (c.getD i 0) ^^^ (xtime (c.getD ((i + 1) % 4) 0) ^^^ c.getD ((i + 1) % 4) 0)
      ^^^ c.getD ((i + 2) % 4) 0 ^^^ c.getD ((i + 3) % 4) 0

/-- The middle and last rounds over the remaining round keys. -/
def aesRounds : List Bytes → Bytes → Bytes
  | [], s => s
  | [k], s => xorBytes (aesSubShift s) k
  | k :: ks, s => aesRounds ks (xorBytes ((chunksOf 4 4 (aesSubShift s)).flatMap aesMixCol) k)

/-- AES-256 of one block under expanded keys. -/
def aesBlock (ks : List Bytes) (blk : Bytes) : Bytes :=
  aesRounds (ks.drop 1) (xorBytes (padTo 16 blk) (ks.getD 0 []))

/-- The inverse of the S-box. -/
def sboxInv (a : Byte) : Byte := ginv (a.rotateLeft 1 ^^^ a.rotateLeft 3 ^^^ a.rotateLeft 6 ^^^ 0x05)

/-- InvShiftRows and InvSubBytes. -/
def aesSubShiftInv (s : Bytes) : Bytes :=
  (List.range 16).map fun i => sboxInv (s.getD ((i + 12 * (i % 4)) % 16) 0)

/-- One column of InvMixColumns. -/
def aesMixColInv (c : Bytes) : Bytes :=
  (List.range 4).map fun i =>
    gmul 0x0E (c.getD i 0) ^^^ gmul 0x0B (c.getD ((i + 1) % 4) 0) ^^^ gmul 0x0D (c.getD ((i + 2) % 4) 0)
      ^^^ gmul 0x09 (c.getD ((i + 3) % 4) 0)

/-- The inverse cipher of AES-256 under expanded keys. -/
def aesBlockInv (ks : List Bytes) (blk : Bytes) : Bytes :=
  let r := ks.reverse
  let s := xorBytes (padTo 16 blk) (r.getD 0 [])
  let mid := ((r.drop 1).take 13).foldl (fun s k => (chunksOf 4 4 (xorBytes (aesSubShiftInv s) k)).flatMap aesMixColInv) s
  xorBytes (aesSubShiftInv mid) (r.getD 14 [])

/-! ### XTS (R195) -/

/-- The tweak of the next 16 bytes of a data unit: multiplication by x in XTS's byte order. -/
def xtsNext (t : Bytes) : Bytes :=
  let v := BitVec.ofNat 128 (leNat t)
  leBytes 16 ((v <<< 1) ^^^ (if v.msb then 0x87 else 0)).toNat

/-- The 16-byte blocks of a data unit through cipher `f`, tweak by tweak. -/
def xtsBlocks (f : Bytes → Bytes) : Bytes → List Bytes → Bytes
  | _, [] => []
  | t, b :: l => xorBytes (f (xorBytes b t)) t ++ xtsBlocks f (xtsNext t) l

/-- The first tweak of a data unit: its number under the second half of the key pair. -/
def xtsTweak (key : Bytes) (n : Nat) : Bytes := aesBlock (aesKeys (key.drop 32)) (leBytes 16 n)

/-- AES-256-XTS of a 64 B data unit with tweak number `n`. -/
def xtsEncrypt (key : Bytes) (n : Nat) (unit : Bytes) : Bytes :=
  xtsBlocks (aesBlock (aesKeys (key.take 32))) (xtsTweak key n) (chunksOf 16 4 (padTo 64 unit))

/-- Its inverse. -/
def xtsDecrypt (key : Bytes) (n : Nat) (unit : Bytes) : Bytes :=
  xtsBlocks (aesBlockInv (aesKeys (key.take 32))) (xtsTweak key n) (chunksOf 16 4 (padTo 64 unit))

/-! ### GCM -/

/-- Multiplication in GF(2^128) in GCM's bit order, over the `n` remaining bits of `x`. -/
def ghashMulN : Nat → BitVec 128 → BitVec 128 → BitVec 128
  | 0, _, _ => 0
  | n + 1, x, v =>
    (if x.msb then v else 0) ^^^
      ghashMulN n (x <<< 1) (if v.getLsbD 0 then (v >>> 1) ^^^ (0xE1#128 <<< 120) else v >>> 1)

/-- A 16-byte block as a number, byte 0 highest. -/
def blockOf (bs : Bytes) : BitVec 128 := BitVec.ofNat 128 (beNat (padTo 16 bs))

/-- GHASH over blocks. -/
def ghash (h : BitVec 128) (blocks : List Bytes) : BitVec 128 :=
  blocks.foldl (fun y b => ghashMulN 128 (y ^^^ blockOf b) h) 0

/-- The key stream blocks from counter `c` on. -/
def ctrStream (ks : List Bytes) (iv : Bytes) : Nat → Nat → Bytes
  | 0, _ => []
  | n + 1, c => aesBlock ks (iv ++ beBytes 4 c) ++ ctrStream ks iv n (c + 1)

/-- The tag of AES-256-GCM over the ciphertext `ct`. -/
def gcmTag (key iv aad ct : Bytes) : Bytes :=
  let ks := aesKeys key
  let h := blockOf (aesBlock ks (zeros 16))
  let y := ghash h (chunksOf 16 (ceilDiv aad.length 16) aad ++ chunksOf 16 (ceilDiv ct.length 16) ct ++
    [beBytes 8 (8 * aad.length) ++ beBytes 8 (8 * ct.length)])
  xorBytes (beBytes 16 y.toNat) (aesBlock ks (iv ++ beBytes 4 1))

/-- The counter-mode cipher of AES-256-GCM under a 12-byte nonce. -/
def gcmCrypt (key iv data : Bytes) : Bytes :=
  xorBytes data (ctrStream (aesKeys key) iv (ceilDiv data.length 16) 2)

/-- Sealed data and tag. -/
def gcmSeal (key iv aad plain : Bytes) : Bytes × Bytes :=
  let ct := gcmCrypt key iv plain
  (ct, gcmTag key iv aad ct)

/-- The plaintext, where the tag agrees. -/
def gcmOpen (key iv aad ct tag : Bytes) : Option Bytes :=
  if gcmTag key iv aad ct = tag then some (gcmCrypt key iv ct) else none

/-! ### ECDSA P-384 -/

/-- The prime of P-384. -/
def p384P : Nat := 2 ^ 384 - 2 ^ 128 - 2 ^ 96 + 2 ^ 32 - 1
/-- The order of P-384. -/
def p384N : Nat := 0xFFFFFFFFFFFFFFFFFFFFFFFFFFFFFFFFFFFFFFFFFFFFFFFFC7634D81F4372DDF581A0DB248B0A77AECEC196ACCC52973
def p384B : Nat := 0xB3312FA7E23EE7E4988E056BE3F82D19181D9C6EFE8141120314088F5013875AC656398D8A2ED19D2A85C8EDD3EC2AEF
def p384Gx : Nat := 0xAA87CA22BE8B05378EB1C71EF320AD746E1D3B628BA79B9859F741E082542A385502F25DBF55296C3A545E3872760AB7
def p384Gy : Nat := 0x3617DE4A96262C6F5D9E98BF9292DC29F8F41DBD289A147CE9DA3113B5F0B8C00A60B1CE1D7E819D7A431D7C90EA0E5F

/-- b^e mod m over the lowest `n` bits of e. -/
def powModN : Nat → Nat → Nat → Nat → Nat
  | 0, _, _, _ => 1
  | n + 1, b, e, m =>
    let r := powModN n (b * b % m) (e / 2) m
    if e % 2 = 1 then b * r % m else r

/-- The inverse modulo a prime of at most 384 bits. -/
def invMod (a m : Nat) : Nat := powModN 384 (a % m) (m - 2) m

/-- The sum of two points of P-384; `none` is the point at infinity. -/
def ecAdd : Option (Nat × Nat) → Option (Nat × Nat) → Option (Nat × Nat)
  | none, q => q
  | p, none => p
  | some (x1, y1), some (x2, y2) =>
    let p := p384P
    if x1 = x2 ∧ (y1 + y2) % p = 0 then none
    else
      let l := if x1 = x2 ∧ y1 = y2 then (3 * x1 * x1 + (p - 3)) * invMod (2 * y1) p % p
        else (y2 + p - y1) * invMod (x2 + p - x1) p % p
      let x3 := (l * l + 2 * p - x1 - x2) % p
      some (x3, (l * (x1 + p - x3) + p - y1) % p)

/-- k times a point, over the lowest `n` bits of k. -/
def ecMulN : Nat → Nat → Option (Nat × Nat) → Option (Nat × Nat)
  | 0, _, _ => none
  | n + 1, k, q =>
    let r := ecMulN n (k / 2) (ecAdd q q)
    if k % 2 = 1 then ecAdd q r else r

/-- (x, y) is a point of P-384. -/
def onCurve (x y : Nat) : Bool :=
  x < p384P && y < p384P && (y * y) % p384P == (x * x * x + (p384P - 3) * x + p384B) % p384P

/-- A 96-byte public key (x then y, big-endian) is a point of the curve. -/
def ecKeyValid (key : Bytes) : Bool := key.length == 96 && onCurve (beNat (key.take 48)) (beNat (key.drop 48))

/-- ECDSA P-384 verification of a 96-byte signature (r then s, big-endian) over a SHA-384 digest. -/
def ecdsaVerify (key digest sig : Bytes) : Bool :=
  let r := beNat (sig.take 48)
  let s := beNat (sig.drop 48)
  let n := p384N
  if ecKeyValid key && sig.length == 96 && 0 < r && r < n && 0 < s && s < n then
    let w := invMod s n
    let u1 := beNat digest * w % n
    let u2 := r * w % n
    let q : Option (Nat × Nat) := some (beNat (key.take 48), beNat (key.drop 48))
    match ecAdd (ecMulN 384 u1 (some (p384Gx, p384Gy))) (ecMulN 384 u2 q) with
    | none => false
    | some (x, _) => x % n == r
  else false

/-- The 96 bytes of a point; empty at infinity. -/
def ecBytes (q : Option (Nat × Nat)) : Bytes := match q with | some (x, y) => beBytes 48 x ++ beBytes 48 y | none => []

/-- The public key of a private scalar. -/
def ecPublic (k : Nat) : Bytes := ecBytes (ecMulN 384 k (some (p384Gx, p384Gy)))

/-- The x coordinate that a private scalar and a public key share. -/
def ecShared (k : Nat) (key : Bytes) : Bytes :=
  (ecBytes (ecMulN 384 k (some (beNat (key.take 48), beNat (key.drop 48))))).take 48

/-- ECDSA P-384 signature of a SHA-384 digest by a private scalar, with the secret number `k`. -/
def ecdsaSign (key : Nat) (digest : Bytes) (k : Nat) : Bytes :=
  let r := beNat ((ecPublic k).take 48) % p384N
  beBytes 48 r ++ beBytes 48 (invMod k p384N * (beNat digest + r * key) % p384N)

end Sys2Proof.Machine
end

