-- ==== Sys2Proof/Machine/Mem.lean ====
section
/-! DEFINITION. Byte memory: a list of (address, byte), addresses strictly rising, no entry 0. An unlisted
address reads 0 (R196: a hamlet's memory is zero-filled before it is granted). -/

namespace Sys2Proof.Mem

/-- Addresses strictly rise from `lo` on and no listed byte is 0. -/
def wfFrom : Nat → List Host.Cell → Bool
  | _, [] => true
  | lo, (a, b) :: m => decide (lo ≤ a) && (b != 0) && wfFrom (a + 1) m

/-- The canonical form. -/
def wf (m : List Host.Cell) : Bool := wfFrom 0 m

/-- The byte at address `a`. -/
def read : List Host.Cell → Nat → Byte
  | [], _ => 0
  | (j, b) :: m, a => if j = a then b else read m a

/-- The memory with byte `b` at address `a`. -/
def write : List Host.Cell → Nat → Byte → List Host.Cell
  | [], a, b => if b = 0 then [] else [(a, b)]
  | (j, c) :: m, a, b =>
    if a < j then (if b = 0 then (j, c) :: m else (a, b) :: (j, c) :: m)
    else if a = j then (if b = 0 then m else (a, b) :: m)
    else (j, c) :: write m a b

/-- The memory with the bytes `bs` from address `a` on. -/
def writeBytes : List Host.Cell → Nat → Bytes → List Host.Cell
  | m, _, [] => m
  | m, a, b :: bs => writeBytes (write m a b) (a + 1) bs

/-- The `n` bytes from address `a` on. -/
def readBytes (m : List Host.Cell) : Nat → Nat → Bytes
  | _, 0 => []
  | a, n + 1 => read m a :: readBytes m (a + 1) n

/-- The memory with every byte whose address satisfies `p` zeroed. -/
def zeroWhere (m : List Host.Cell) (p : Nat → Bool) : List Host.Cell := m.filter fun e => !p e.1

/-- The memory with the `n` bytes from `a` on zeroed. -/
def zero (m : List Host.Cell) (a n : Nat) : List Host.Cell :=
  zeroWhere m fun x => decide (a ≤ x) && decide (x < a + n)

end Sys2Proof.Mem
end

