-- ==== Sys2Proof/Config.lean ====
section
/-! DEFINITION. What an implementation fixes and what the spec leaves open: opaque constants, so that no
proof can see their value. Free values are applied to the plain counter `State.fresh`. -/

namespace Sys2Proof.Config

/-- HRT_SERIAL, fixed at manufacture (R43). -/
opaque serial : W64
/-- Byte `i` of the `n`-th random draw of the device (R429, R304, R305, R514, R306). -/
opaque drawByte : Nat → Nat → Byte
/-- The `n`-th model handle the device would draw (R88: an opaque 32-bit value). -/
opaque drawHandle : Nat → W32
/-- The device identity seed fused at manufacture (R303). -/
opaque identitySeed : Bytes
/-- SHA-384 of the Hearth ROM (measurement 1, R308). -/
opaque romDigest : Bytes
/-- The private scalar of the device identity key, from the seed (R303; the spec gives no derivation). -/
opaque identityScalar : Bytes → Nat
/-- The private scalar of the alias key, from the seed and the firmware digest (R303; the spec gives no derivation). -/
opaque aliasScalar : Bytes → Bytes → Nat
/-- The Ralfador root certificate (R307). -/
opaque rootCertificate : Bytes
/-- The device certificate for a package serial and an identity public key (R303, R307). -/
opaque deviceCertificate : W64 → Bytes → Bytes
/-- What an alias certificate signs: alias public key, firmware digest and security version (R307; the spec gives no encoding). -/
opaque aliasBody : Bytes → Bytes → Nat → Bytes
/-- The encoding of a certificate: its signed body and the signature (R307). -/
opaque certificateOf : Bytes → Bytes → Bytes
/-- The secret number of the `n`-th signature, and of the `n`-th ephemeral key (R303, R306). -/
opaque signNonce : Nat → Nat
opaque ephemeralScalar : Nat → Nat
/-- The factory charter in flash (R486): the region's bytes, never written by the package. -/
opaque factoryCharter : Bytes
/-- The firmware signing key, whose SHA-384 digest the Hearth ROM holds (R483). -/
opaque firmwareKey : Bytes
/-- The firmware copy in flash at delivery (R474, R483). -/
opaque factoryFirmware : Bytes
/-- The PTP clockIdentity of the management port, from the factory charter (R459, R486). -/
opaque clockIdentity : W64
/-- CTExponent, DataTransferSize and MaxSPDMmsgSize of the responder (R306). -/
opaque spdmLimits : Nat × Nat × Nat
/-- Verification of a vendor unlock token under the debug unlock verification key (R519). -/
opaque unlockTokenValid : Bytes → Bool
/-- The encoding of a migration section's body of type `n`, and what a body holds: the spec leaves the layout to
revision B0 (R356). -/
opaque migrationBody {α : Type} (n : Nat) (x : α) : Bytes
opaque migrationRead {α : Type} (n : Nat) (b : Bytes) : Option α
/-- The pages of a model's context region that hold a context's state: slice, context, model handle, hamlet (R355; the
spec gives no mapping). -/
opaque contextPages : Nat → Nat → Nat → Nat → List Nat
/-- The row of its channel's stack that an in-channel address lies in: hamlet, channel, address (R197; the spec gives no
mapping). -/
opaque rowOf : Nat → Nat → Nat → Nat
/-- The eight parity bytes of a codeword of RS(224,216) over its 216 data bytes (R212; the spec names no generator polynomial). -/
opaque rsParity : List Byte → Fin 8 → Byte
/-- The bank of that row: hamlet, channel, row (R197; the spec gives no mapping). -/
opaque bankOf : Nat → Nat → Nat → Nat
/-- The configuration space offset of the ATS control register, its enable in bit 31 of the word (R85; the spec gives no
capability layout). -/
opaque atsControl : BitVec 12
/-- What core-cycles of a command add to the virtual time of a slice of weight 0 (R251 divides by the weight). -/
opaque weightless : Int → Rat
/-- The sign of the NaN a conversion makes of an FP32 NaN (R151 gives its mantissa alone). -/
opaque nanSign : W32 → Bool
/-- Scale and elements of an MX block where R152 gives none: an infinity in it, or the elements beside a NaN. -/
opaque mxOpen : List W32 → Byte × List Byte
/-- Minimum, maximum and comparison of FP32 numbers where R153 does not say: zeros of both signs, and NaNs. -/
opaque minOpen : W32 → W32 → W32
opaque maxOpen : W32 → W32 → W32
opaque compareOpen : W32 → W32 → Bool
/-- The error of the vector unit's fixed functions, by number, in ulp from -2 (R153: within 2 ulp, the same on every core). -/
opaque vecError : Nat → W32 → Fin 5
/-- The vector unit's fixed functions where R153 states no result: NaN, infinities, and numbers outside a function's domain. -/
opaque vecFunction : Nat → W32 → W32
/-- The outcome of a translation the Hearth asks for on its own account, by draw number (R86). -/
opaque translated : Nat → Bool
/-- Which of a tenant's ways a cache fill takes, and which entry it evicts, by draw number (R330 gives no replacement rule). -/
opaque cachePick : Nat → Nat
/-- A fill of the address translation cache evicts entry `k` of its way, by draw number (the spec gives no capacity). -/
opaque evicts : Nat → Nat → Bool
/-- A 64-bit random draw of the device, by draw number (R429). -/
opaque freeWord : Nat → W64

end Sys2Proof.Config
end

