-- ==== Sys2Proof/Machine/State.lean ====
section
/-! DEFINITION. The state of the block as plain data: everything the spec gives the package, the queue of
waiting commands, the trace of issued actions and the counter of free values. Reset values are the fields'
defaults; `State.reset` is the package right after a full reset begins self-test. -/

namespace Sys2Proof.Machine
open Sys2Proof

/-! ### Slices and lanes (02, 03, 08, 09) -/

/-- Slice states (R53). -/
inductive SliceState where
  | free | bound | active | fenced | frozen | portLost
  deriving DecidableEq, Repr

/-- Lane states (R57), in the encoding order of LN_STATUS[1:0]. -/
inductive LaneState where
  | disabled | enabled | fenced | error
  deriving DecidableEq, Repr

/-- A postcard slot (R67, R68): TAKEN, or the bytes written since it was last freed. -/
structure Slot where
  taken : Bool := false
  bytes : Tbl Byte := []
  deriving DecidableEq, Repr

/-- The counters of an accounting block (R271). -/
structure Stats where
  accepted : Nat := 0
  ok : Nat := 0
  late : Nat := 0
  apprentice : Nat := 0
  infeasible : Nat := 0
  refused : Nat := 0
  shedNewest : Nat := 0
  shedExpired : Nat := 0
  shedBrownout : Nat := 0
  aborted : Nat := 0
  failed : Nat := 0
  engineCoreCycles : Nat := 0
  queueWaitTotal : Nat := 0
  queueWaitMax : Nat := 0
  preemptStile : Nat := 0
  preemptKill : Nat := 0
  killLostCoreCycles : Nat := 0
  switchNs : Nat := 0
  fastPath : Nat := 0
  fastOver : Nat := 0
  hostBytes : Nat := 0
  /-- Postcards taken off the fast path, by condition 1 to 11 (R133). -/
  offpath : Tbl Nat := []
  eventsDropped : Nat := 0
  deriving DecidableEq, Repr

/-- The writes of one completion not yet consumed by the guest, and the port they left on, for the rewrite of R79. -/
structure Delivered where
  index : Nat
  port : Port := .ha
  writes : List (W64 × Bytes)
  deriving DecidableEq, Repr

/-- A lane (R55 to R77, R97, R112, R318, R500). -/
structure Lane where
  state : LaneState := .disabled
  sqBaseA : W64 := 0
  sqBaseB : W64 := 0
  cqBaseA : W64 := 0
  cqBaseB : W64 := 0
  sqLog : Nat := 0
  cqLog : Nat := 0
  sqTail : Nat := 0
  fetchIdx : Nat := 0
  cqHead : Nat := 0
  cqWrite : Nat := 0
  phase : Bool := true
  /-- Entries written and not yet consumed. -/
  unconsumed : Nat := 0
  seq : W32 := 0
  wraps : Nat := 0
  incarnation : Nat := 0
  err : BitVec 5 := 0
  irqCtl : W32 := 0
  pcDrops : W32 := 0
  slots : Tbl Slot := []
  resultBase : W64 := 0
  strideLog : Nat := 0
  apprentice : W32 := 0
  divert : Bool := false
  shedExpired : Bool := false
  pinned : Bool := false
  /-- The way of the lane state cache that holds the lane's state (R28, R134); none while it is evicted. -/
  way : Option Nat := none
  /-- The sequences, with their wraps, that doorbells took for entries still to be fetched, in ring order (R66, R70). -/
  reserved : List (W32 × Nat) := []
  irqCount : Nat := 0
  irqOldest : Option Nat := none
  delivered : List Delivered := []
  stats : Stats := {}
  /-- The delete or reset command in progress on this lane. -/
  closing : Option Nat := none
  deriving DecidableEq, Repr

/-- A session key epoch (R300). -/
structure EpochKeys where
  epoch : Nat
  h2d : Bytes
  d2h : Bytes
  gen : Byte
  deriving DecidableEq, Repr

/-- An emptied epoch and, per lane, how many submissions the lane had accepted then (R313). -/
structure EmptiedEpoch where
  keys : EpochKeys
  accepted : Tbl Nat
  deriving DecidableEq, Repr

/-- A slice's session key table entry (R300, R313). -/
structure SessionKeys where
  current : Option EpochKeys := none
  previous : Option EpochKeys := none
  emptied : List EmptiedEpoch := []
  deriving DecidableEq, Repr

/-- A rate bucket (R274): rate and depth as set, balance in its unit, the interval time it was last brought
up to date. -/
structure Bucket where
  rate : Nat := 0
  depth : Nat := 0
  balance : Int := 0
  stamp : Nat := 0
  deriving DecidableEq, Repr

inductive PreemptMode where
  | auto | stileOnly | killOnly
  deriving DecidableEq, Repr

/-- What procedure runs on a slice (R346, R348, R353, R354, R357). -/
inductive SliceProcKind where
  | reset | destroy | freeze | save | restore | removal
  deriving DecidableEq, Repr

/-- A procedure in progress: its journal order, its start on interval time, whether the squash has run. -/
structure SliceProc where
  kind : SliceProcKind
  jseq : Nat
  start : Nat
  squashed : Bool := false
  deriving DecidableEq, Repr

/-- A slice (R50 to R56, R82, R116, R251, R261, R266, R270, R272, R274, R352). -/
structure Slice where
  state : SliceState := .free
  gen : Byte := 0
  tenant : Nat := 0
  home : Port := .ha
  cur : Port := .ha
  boundA : Bool := false
  boundB : Bool := false
  pasidA : BitVec 20 := 0
  pasidB : BitVec 20 := 0
  vecBaseA : Nat := 0
  vecCountA : Nat := 0
  vecBaseB : Nat := 0
  vecCountB : Nat := 0
  laneLimit : Nat := 0
  incarnation : W32 := 0
  features : W64 := 0
  featuresSet : Bool := false
  eventSeq : W32 := 0
  eventOverflow : Bool := false
  weight : Nat := 16
  preempt : PreemptMode := .auto
  /-- Prefill core cap per package hamlet in units of 72 cores; unlisted 12 (R261). -/
  caps : Tbl Nat := []
  /-- Virtual time per package hamlet (R251); unlisted 0. -/
  vtime : Tbl Rat := []
  credits : Nat := 32
  fastLimit : Nat := 0
  /-- Interval times of the operations counted in the FAST window (R274). -/
  fastTimes : List Nat := []
  submit : Bucket := {}
  bulk : Bucket := {}
  arm : Option Bytes := none
  saved : Bool := false
  keys : SessionKeys := {}
  proc : Option SliceProc := none
  stats : Stats := {}
  lanes : Tbl Lane := []
  /-- Creations of each lane since the generation last changed (R318). -/
  laneCreations : Tbl Nat := []
  /-- Device time at which a freeze ended (R356). -/
  frozenAt : W64 := 0
  deriving DecidableEq, Repr

/-! ### Models, contexts, commands (05, 06, 08, 10) -/

/-- A stile entry (R143). -/
structure Stile where
  cycle : Nat
  live : Nat
  first : Nat
  count : Nat
  wave : Nat
  deriving DecidableEq, Repr

/-- A live or resident range (R143): scratchpad offset and length. -/
structure Range where
  off : Nat
  len : Nat
  deriving DecidableEq, Repr

/-- An entry point: the annotation block of R142 with its lists. -/
structure Entry where
  kind : Nat
  roadOps : Bool := false
  spill : Bool := false
  coreDemand : Nat := 1
  cost : Nat := 1
  inputBytes : Nat := 0
  outputBytes : Nat := 0
  granaryLocal : Nat := 0
  spillBytes : Nat := 0
  dests : List (Nat × Nat) := []
  stiles : List Stile := []
  ranges : List Range := []
  tallies : List (W32 × Bool) := []
  maxLive : Nat := 0
  hamletCount : Nat := 1
  deriving DecidableEq, Repr

/-- A remote window (R223): first and last hamlet offset, permission 0 empty, 1 READ, 2 READ_WRITE. -/
structure Window where
  base : Nat := 0
  limit : Nat := 0
  perm : Nat := 0
  deriving DecidableEq, Repr

/-- A placement record (R325) with its resident ranges. -/
structure Placement where
  hamlet : Nat
  residents : List Range := []
  modelPages : Nat := 0
  shadowPages : Nat := 0
  contextPages : Nat := 0
  spillPages : Nat := 0
  parkPages : Nat := 0
  granaryLocal : Nat := 0
  receiveGrant : Nat := 0
  dataFirst : Nat := 0
  dataPages : Nat := 0
  windows : List (Option Window) := []
  /-- Its pages carry one copy although the model is mirrored: rebuilt on the three-channel map (R202). -/
  single : Bool := false
  deriving DecidableEq, Repr

/-- A resident model (R88, R323 to R327). -/
structure Model where
  tenant : Nat
  entries : List Entry
  records : List Placement
  baseMiB : Nat := 0
  mirror : Bool := false
  bodyTag : Bytes := []
  deriving DecidableEq, Repr

/-- A model load in progress (R327, R545). -/
structure Load where
  cmd : Nat
  model : Model
  pages : Bytes
  tagOk : Bool
  sheaves : Nat
  /-- The model key the strongbox unwrapped (R327 step 2). -/
  key : Bytes := []
  deriving DecidableEq, Repr

/-- The chunk record of a context (R260). -/
structure ChunkRecord where
  count : Nat
  committed : Nat
  admitted : Nat
  deriving DecidableEq, Repr

/-- A context of a slice (R110, R260). -/
structure Context where
  holds : Bool := false
  model : W32 := 0
  chunks : Option ChunkRecord := none
  deriving DecidableEq, Repr

/-- A status: class and detail (R105). -/
structure Status where
  cls : Byte
  detail : Byte
  deriving DecidableEq, Repr

/-- The states of a command in a hamlet (R141), with parking (R267). -/
inductive InstState where
  | queued | reserving | bound | staged | committed | done | discarded | parked
  deriving DecidableEq, Repr

/-- A staged tally operation (R161, R175). -/
inductive TallyEffect where
  | add (d : W32) | set (v : W32) | release
  deriving DecidableEq, Repr

/-- A remote grant of a command (R164): destination, bytes asked, whether it is held, bytes used, the ttag of
its RESERVE, STAGED acknowledgements awaited, whether APPLIED is awaited. -/
structure Grant where
  dest : Nat
  bytes : Nat
  asked : Bool := false
  held : Bool := false
  used : Nat := 0
  ttag : Nat := 0
  acks : Nat := 0
  applied : Bool := false
  deriving DecidableEq, Repr

/-- A claim a command made, with whether the tally was ORPHANED before it (R178). -/
structure ClaimMade where
  name : W32
  wasOrphaned : Bool
  deriving DecidableEq, Repr

/-- What a tile waits for before it completes (R157). -/
inductive TileWait where
  | tally (t : Tile) (name : W32) | remote (t : Tile) (ttag : Nat)
  deriving DecidableEq, Repr

/-- The part of a command in one hamlet (R141). -/
structure Part where
  state : InstState := .queued
  /-- Its local granary space is reserved (R163). -/
  reserved : Bool := false
  cores : List Nat := []
  /-- The cores of its last bind, once it has released them. -/
  lastCores : List Nat := []
  granary : Nat := 0
  /-- Interval time of the bind in force and compiled cycles run before it (R265). -/
  bindAt : Nat := 0
  before : Nat := 0
  /-- Live state of the stile it parked at, and that the bind in force resumes it (R267). -/
  live : Nat := 0
  resumed : Bool := false
  /-- Its live ranges are being restored after the bind. -/
  restoring : Bool := false
  /-- The stile a preemption stops it at (the last one it stopped at), and that its park has begun. -/
  parkAt : Option Stile := none
  parking : Bool := false
  /-- The cycles charged to the slice's virtual time, while it is charged (R251). -/
  charged : Option Nat := none
  /-- Cycles it held cores in POOL slots that ended, and since when it holds them in the POOL slot in force (R251). -/
  poolCycles : Nat := 0
  poolSince : Option Nat := none
  /-- The index of the wave that runs (R143, R172). -/
  wave : Nat := 0
  /-- Working scratchpad bytes it has written, by scratchpad offset: private, and gone once it leaves BOUND (R156). -/
  working : Tbl Byte := []
  /-- Bytes it stages locally, in the granary and beyond it in the spill region (R163). -/
  staged : Nat := 0
  deriving DecidableEq, Repr

/-- Where a submission stands outside the hamlets. -/
inductive CmdPhase where
  /-- Accepted; a postcard awaiting its pre-dispatch decision. -/
  | accepted
  /-- Awaiting its input (check 7). -/
  | input
  /-- A guest administration order in the journal. -/
  | admin
  /-- Admitted by the watchman. -/
  | admitted
  /-- In its hamlets (`parts`). -/
  | running
  /-- Committed or resolved; its result is to be delivered. -/
  | resolved
  /-- Its result is delivered; the completion entry is due. -/
  | delivered
  /-- Withdrawn by a freeze (R353). -/
  | withdrawn
  deriving DecidableEq, Repr

/-- A submission (R60, R91, R94, R103, R141, R161, R392). -/
structure Cmd where
  slice : Nat
  lane : Nat
  seq : W32
  gen : Byte
  incarnation : Nat := 0
  wraps : Nat := 0
  port : Port := .ha
  /-- The phase a freeze withdrew it from (R353). -/
  was : CmdPhase := .accepted
  /-- The slot of a postcard. -/
  slot : Option Nat := none
  raw : Bytes := []
  opcode : Byte := 0
  noDivert : Bool := false
  /-- The apprentice its lane diverted to when it was accepted, 0 for none (R257). -/
  policy : W32 := 0
  timeout : Nat := 0
  model : W32 := 0
  deadline : W64 := 0
  inputAddr : W64 := 0
  inputLen : Nat := 0
  resultCap : Nat := 0
  resultAddr : W64 := 0
  context : Nat := 0
  aux : W32 := 0
  epoch : Option EpochKeys := none
  tAccept : W64 := 0
  iAccept : Nat := 0
  phase : CmdPhase := .accepted
  credit : Bool := false
  input : Bytes := []
  /-- The status checks 1 to 3 decided at acceptance, until it is due (R108, R137). -/
  early : Option Status := none
  status : Option Status := none
  tCommit : W64 := 0
  iCommit : Nat := 0
  ranModel : W32 := 0
  diverted : Option Status := none
  resultLen : Nat := 0
  payload : Option Bytes := none
  trailerOk : Bool := false
  /-- The result writes issued to host memory, for the rewrite of R79. -/
  hostWrites : List (W64 × Bytes) := []
  execField : W32 := 0
  parts : Tbl Part := []
  instance_ : Nat := 0
  grants : List Grant := []
  writes : List (Nat × Bytes) := []
  output : List (Nat × Bytes) := []
  /-- Staged tally operations with the hamlet that issued each, in program order (R161, R182). -/
  tallyOps : List (Nat × W32 × TallyEffect) := []
  claims : List ClaimMade := []
  waits : List TileWait := []
  /-- What the tiles of each schedule slot have read and been answered, by 1,024 × hamlet position + slot (R154). -/
  seen : Tbl (List Bytes) := []
  token : Bool := false
  kills : Nat := 0
  cycles : Nat := 0
  /-- Interval time at which it first bound, the current bind, and hang time run before it (R393). -/
  firstBind : Option Nat := none
  bindTime : Nat := 0
  hangRun : Nat := 0
  tDecide : Nat := 0
  predictedCost : Nat := 0
  /-- The compiled cost of the entry point it was admitted to, in CCLK cycles (R139). -/
  compiledCost : Nat := 0
  /-- Its slice's port changed after it was accepted: it left the fast path by no condition of R133 (R79). -/
  moved : Bool := false
  /-- The way of the descriptor cache that holds its descriptor (R28, R330). -/
  descWay : Option Nat := none
  /-- Interval time of the reserved offset that a strict tenant's postcard beyond its slot rate waits for (R334). -/
  waitUntil : Nat := 0
  job : Nat := 0
  jgen : Nat := 0
  offPath : Option Nat := none
  jseq : Nat := 0
  deriving DecidableEq, Repr

/-! ### Hamlets and tallies (05, 06, 08, 11, 12, 13) -/

/-- Hamlet assignment (R339). -/
inductive AssignState where
  | unassigned | assigned | filling | granted | releasing
  deriving DecidableEq, Repr

inductive ChannelState where
  | inService | retiring | retired
  deriving DecidableEq, Repr

/-- HAM_RESET_STATUS (R508). -/
inductive HamletRun where
  | running | fencing | draining | squashing | resetting | restoring | paused | outOfService
  deriving DecidableEq, Repr

/-- An almanac entry (R248): length in µs, kind 0 IDLE 1 EXCLUSIVE 2 POOL, slice. -/
structure AlmanacEntry where
  length : Nat
  kind : Nat
  slice : Nat
  deriving DecidableEq, Repr

structure Almanac where
  entries : List AlmanacEntry := []
  tAct : W64 := 0
  deriving DecidableEq, Repr

/-- A croft retirement in progress (R369): crofts being removed, start, step reached. -/
structure Retirement where
  crofts : List Nat
  start : Nat
  spareOk : Option Bool := none
  /-- Detector code of the gleanings record, and whether it is collected. -/
  reason : Nat := 0
  collected : Bool := false
  deriving DecidableEq, Repr

/-- A croft reset in progress (R400): start, reason of its gleanings record, whether it is collected. -/
structure CroftReset where
  start : Nat
  reason : Nat
  collected : Bool := false
  deriving DecidableEq, Repr

/-- A reset of a hamlet in progress (R401). -/
structure HamletReset where
  jseq : Nat
  start : Nat
  fault : Bool
  reason : Nat
  squashed : Bool := false
  /-- Answers of R398 still awaited. -/
  answers : Nat := 0
  collected : Bool := false
  /-- A release of the hamlet instead of a reset (R344). -/
  release : Bool := false
  deriving DecidableEq, Repr

/-- A set staged in a hamlet or the Hearth by another hamlet (R163 to R167). -/
structure StagedSet where
  src : Nat
  ttag : Nat
  dest : Nat
  tenant : Nat
  granted : Nat
  writes : List (Nat × Bytes) := []
  tallyOps : List (W32 × TallyEffect × Nat × Nat) := []
  commit : Bool := false
  discardSent : Bool := false
  deriving DecidableEq, Repr

/-- A deferred reservation request (R164). -/
structure Deferred where
  src : Nat
  ttag : Nat
  tenant : Nat
  bytes : Nat
  deriving DecidableEq, Repr

/-- A hamlet (R27, R242 to R250, R339, R383, R508). -/
structure Hamlet where
  assign : AssignState := .unassigned
  tenant : Nat := 0
  gen : Byte := 0
  /-- Physical crofts out of service. -/
  badCrofts : List Nat := []
  outOfService : Bool := false
  /-- Only a full reset clears this out-of-service cause (R203, R371). -/
  hardOut : Bool := false
  channels : Tbl ChannelState := []
  split : Nat := 14
  backfill : Bool := true
  stepWait : Nat := 10
  reservation : Option Nat := none
  reservedMode : Bool := false
  remoteUsed : Nat := 0
  deferred : List Deferred := []
  sets : List StagedSet := []
  almanac : Almanac := {}
  pendingAlmanac : Option Almanac := none
  entryInForce : Nat := 0
  entryStart : W64 := 0
  run : HamletRun := .running
  reset : Option HamletReset := none
  retirement : Option Retirement := none
  channelRetiring : Option Nat := none
  /-- Failed channels, RETIRING, that wait for a croft retirement or reset to end. -/
  channelWaiting : List Nat := []
  /-- Croft resets in progress by physical croft (R400). -/
  croftResets : Tbl CroftReset := []
  /-- Logical crofts that held a bound or parked command at the squash of the reset in progress (R411). -/
  sampled : List Nat := []
  eccCe : W64 := 0
  eccUe : W64 := 0
  eccLink : W64 := 0
  commitDiscards : W64 := 0
  staleRsp : W64 := 0
  windows : Tbl Window := []
  retiredTtags : Tbl Nat := []
  nextTtag : Nat := 0
  resetTimes : List Nat := []
  croftResetTimes : Tbl (List Nat) := []
  rowCorrections : Tbl (List Nat) := []
  weakRows : List Nat := []
  /-- Blocks found UNCORRECTABLE in each channel, with the time of the latest detection (R197). -/
  ueTimes : Tbl (List (Nat × Nat)) := []
  /-- The HBM key in the hamlet's memory controllers (R195, R301, R312); empty where cleared. -/
  hbmKey : Bytes := []
  /-- The key under which the window's blocks were last written (R195). -/
  sealedUnder : Bytes := []
  spadErrors : Tbl (List Nat) := []
  /-- Preemption at a stile in progress: victim and preemptor. -/
  preempting : Option (Nat × Nat) := none
  /-- The trigger of the EXCLUSIVE slot in force met a preemption that ran: it is evaluated again once that has freed its cores
  (R263). -/
  slotDue : Bool := false
  /-- Corrected blocks awaiting write-back (R197, R199). -/
  writeBacks : List Nat := []
  /-- Core sticky flags INVALID, OVERFLOW, SAT by logical core (R149, R150). -/
  coreFlags : Tbl (BitVec 3) := []
  /-- The 64 KiB of accumulator and register storage of each logical core (R49, R329); unlisted bytes 0. -/
  coreStore : Tbl (Tbl Byte) := []
  /-- Scratchpad ranges that hold no defined working contents: a command left BOUND after writing them (R156, R204). -/
  spadOpen : List Range := []
  deriving DecidableEq, Repr

/-- Claim states (R173). -/
inductive ClaimState where
  | free | claimed | orphaned
  deriving DecidableEq, Repr

/-- The owner record of a claim (R173); context 0x10000 is command-scoped, with its command and instance. -/
structure Owner where
  pkg : Nat
  slice : Nat
  context : Nat
  gen : Byte
  cmd : Nat := 0
  inst : Nat := 0
  deriving DecidableEq, Repr

/-- What a waiter waits for (R175). -/
inductive WaitKind where
  | ge (v : W32) | eq (v : W32) | claim (o : Owner)
  deriving DecidableEq, Repr

/-- What a tally operation returns to its tile (R175). -/
inductive TallyResult where
  | value (v : W32) | granted | priorLost | held | owner | notOwner | badMode | denied
  deriving DecidableEq, Repr

/-- A waiter (R176, R180): a command of this package, or an endpoint on another with its ttag. `due` is set by the
apply that satisfies it, until it is released. -/
structure Waiter where
  kind : WaitKind
  cmd : Option Nat
  tile : Option Tile := none
  remote : Option (Nat × Nat) := none
  due : Option TallyResult := none
  deriving DecidableEq, Repr

structure Tally where
  value : W32 := 0
  claimMode : Bool := false
  claim : ClaimState := .free
  owner : Option Owner := none
  /-- The command instance that made the claim in force, by package, command and instance, and that it replaced an ORPHANED one
  (R178). -/
  maker : Option (Nat × Nat × Nat) := none
  prior : Bool := false
  waiters : List Waiter := []
  deriving DecidableEq, Repr

/-! ### Roads and peers (07) -/

/-- Road states (R207). -/
inductive RoadState where
  | down | training | up | fenced | mismatch | disabled
  deriving DecidableEq, Repr

/-- A message that waits to leave on a road: its opcode, and the interval time it joined the queue. -/
structure Waiting where
  op : Nat
  msg : RoadMsg
  since : Nat
  deriving DecidableEq, Repr

structure Road where
  state : RoadState := .down
  farPkg : Nat := 0
  farRoad : Nat := 0
  farGen : Byte := 0
  txSeq : W32 := 0
  rxAck : W32 := 0
  nakTx : Bool := false
  /-- The far end's last ack. -/
  txAck : W32 := 0
  /-- The last 64 blocks sent: sequence, and the opcode and message each carries, if any (R214; one message a block, log 16). -/
  replay : List (W32 × Option (Nat × RoadMsg)) := []
  /-- Credits freed and not yet returned, in flits by class (R220). -/
  creditDue : Tbl Nat := []
  /-- The next block tells the far end a new ack, NAK or credit (R213, R214). -/
  linkDue : Bool := false
  nakSame : Nat := 0
  nakTimes : List Nat := []
  retrainTimes : List Nat := []
  fencedTx : Bool := false
  fencedRx : Bool := false
  trainStart : Option Nat := none
  /-- Transmit credits in flits, by class (R220). -/
  credits : Tbl Nat := []
  /-- Received flits whose messages have yet to be handled. -/
  rxFlits : List Bytes := []
  /-- Messages that wait for credits, oldest first (R220, R221). -/
  waiting : List Waiting := []
  /-- The round robins of R221: the tenant whose turn it is in each class, and by 65,536 × class + tenant its deficit in flits
  and the source endpoint it served last. -/
  turn : Tbl Nat := []
  deficit : Tbl Nat := []
  lastSrc : Tbl Nat := []
  hseqTx : W32 := 0
  hseqRx : Option W32 := none
  /-- The last hop sequence delivered from the road before it failed, its replay counted (R230, R231). -/
  hseqLast : Option W32 := none
  /-- The road failed and its domains await the REPLAY_REPLY for it (R230). -/
  replayPending : Bool := false
  /-- What the failed road's replay buffer held, and the messages that wait behind its replay (R230, R231). -/
  failed : List (Nat × RoadMsg) := []
  behind : List (Nat × RoadMsg) := []
  /-- Counters RD_FEC_CORR, RD_BLOCK_RETRY, RD_RETRAIN, then the seven drop counters (R509). -/
  counters : Tbl W64 := []
  deriving DecidableEq, Repr

/-- Routes (R232). -/
inductive Route where
  | direct | reserveDirect | relaySrc | relayDst | unreachable
  deriving DecidableEq, Repr

/-- What a package knows of a peer (R221, R228, R232, R237). -/
structure Peer where
  route : Route := .unreachable
  via : Nat := 0
  lost : Bool := false
  gen : Byte := 0
  lastBlock : Nat := 0
  lastLive : Nat := 0
  /-- Peers it reports a mesh road UP to, and whether its reserve road is UP (R232). -/
  reportsMesh : W32 := 0
  reportsReserve : Bool := false
  weights : Tbl Nat := []
  brownWeights : Option (Tbl Nat) := none
  /-- Domains sent on a relay path: source, destination, tenant (R235). -/
  relayed : List (Nat × Nat × Nat) := []
  /-- MARKs awaited before a domain returns to the direct road: source, destination, class (R235). -/
  marks : List (Nat × Nat × Nat) := []
  /-- Messages held until the MARKs of their domain are seen. -/
  held : List (Nat × RoadMsg) := []
  /-- COMMIT, DISCARD, UNRESERVE and WAIT_NOTIFY sent to it and not yet answered (R219). -/
  unacked : List (Nat × RoadMsg) := []
  /-- Those that wait for a road, or for room within the 512 of R224. -/
  unsent : List (Nat × RoadMsg) := []
  /-- Its roads have trained with a generation of it; and it has had the query of R316 since it became live. -/
  known : Bool := false
  asked : Bool := false
  /-- Its DISCARDs answered: source endpoint, ttag, answer, time (R219, R384). -/
  discards : List (Nat × Nat × Nat × Nat) := []
  deriving DecidableEq, Repr

/-- A request awaiting an answer (R224). -/
structure Request where
  hamlet : Nat
  ttag : Nat
  cmd : Nat
  inst : Nat
  peer : Nat
  opcode : Nat
  time : Nat
  deferred : Bool := false
  addr : W64 := 0
  len : Nat := 0
  operand : W64 := 0
  /-- The tile that awaits the answer. -/
  tile : Option Tile := none
  deriving DecidableEq, Repr

/-! ### Tenants and trust (10, 11) -/

inductive TenantState where
  | created | claimed | removing
  deriving DecidableEq, Repr

/-- A road key generation held (R299). -/
structure RoadKey where
  gen : Nat
  key : Bytes
  deriving DecidableEq, Repr

/-- An epoch barrier, join or rotation in progress (R227, R228, R315). -/
structure Barrier where
  /-- 0 rotation install, 1 rotation retire, 2 join query, 3 removal, 4 query after a warm reset. -/
  kind : Nat
  gen : Nat
  awaited : List Nat
  largest : Nat := 0
  start : Nat := 0
  deriving DecidableEq, Repr

/-- A tenant of the package (R298 to R305, R312, R315, R330, R514); the strongbox slots of its local index
are its key fields. -/
structure Tenant where
  ident : W16
  handle : W16
  state : TenantState := .created
  permitStrict : Bool := false
  permitMigration : Bool := false
  saltMismatch : Bool := false
  joined : Bool := false
  wayDesc : W32 := 0
  wayAtc : W32 := 0
  wayLane : W32 := 0
  ownerKey : Bytes := []
  ownerDigest : Bytes := []
  rootKey : Bytes := []
  claimSalt : Bytes := []
  roadSalt : Bytes := []
  hbmKey : Bytes := []
  roadCur : Option RoadKey := none
  roadPrev : Option RoadKey := none
  barrier : Option Barrier := none
  removeJseq : Nat := 0
  removeStep : Nat := 0
  removeStart : Nat := 0
  nextGleanings : Nat := 0
  /-- The strict slots in force (R333): 0 to 83 engine slots of a frame, 84 to 275 carter slots. -/
  strictSlots : List Nat := []
  deriving DecidableEq, Repr

/-- A gleanings record in the log (R388 to R391). -/
structure GleaningsRecord where
  tenant : Nat
  index : Nat
  header : Bytes
  body : Bytes
  tag : Bytes
  deriving DecidableEq, Repr

/-- A job (R386, R387). -/
structure Job where
  ident : Nat
  gen : Nat
  abort : Bool
  slices : List Nat
  dead : List Nat := []
  deriving DecidableEq, Repr

/-- A reservation (R278) with its guarantees and grants by resource. -/
structure Reservation where
  cls : Nat
  reserved : Bool
  hamlets : W32
  slices : List Nat
  tenant : Nat
  guarantees : Tbl Nat := []
  grants : Tbl Rat := []
  share : Nat := 1000
  carter : Bucket := {}
  bulk : Bucket := {}
  /-- Brownout buckets by port resource (R294). -/
  brown : Tbl Bucket := []
  deriving DecidableEq, Repr

/-- What a sheaf is part of: the image of the model load that a command runs, the image of its slice's save or restore, or a
command's input, from a host address. -/
inductive SheafUse where
  | load (cmd : Nat) | migration | input (cmd : Nat) (addr : W64)
  deriving DecidableEq, Repr

/-- Where a sheaf stands: waiting for its first unit, in carter or engine `n`, or in a Hearth buffer before its second unit (R321). -/
inductive SheafPlace where
  | queued | carter (n : Nat) | engine (n : Nat) | buffered
  deriving DecidableEq, Repr

/-- A sheaf of a transfer (R321, R322, R347). -/
structure Sheaf where
  tenant : Nat
  slice : Nat
  gen : Byte
  len : Nat
  use : SheafUse
  /-- Its index in the transfer. -/
  index : Nat := 0
  /-- The slice's epoch whose key its engine loads, 0 before the first (R322). -/
  epoch : Nat := 0
  /-- Device to host: its engine comes before its carter (R321). -/
  out : Bool := false
  place : SheafPlace := .queued
  /-- It is to be discarded at its boundary. -/
  squashed : Bool := false
  deriving DecidableEq, Repr

/-- The sheaf a crypto engine works on, and what its key registers hold (R301, R322). -/
structure EngineHold where
  sheaf : Nat
  key : Bytes
  deriving DecidableEq, Repr

/-- The carters and the crypto engines 4 to 15 that hold a sheaf, the tenants their round robin served last, and the interval ns at
which the strict frame in force began (R284, R321, R333). -/
structure HostUnits where
  carters : Tbl Nat := []
  engines : Tbl EngineHold := []
  carterTurn : Nat := 31
  engineTurn : Nat := 31
  frameStart : Nat := 0
  deriving DecidableEq, Repr

/-! ### The Reeve, journal, registers (12, 14, 17) -/

inductive PairState where
  | active | standby | selftest | out
  deriving DecidableEq, Repr

inductive MbxState where
  | idle | submitted | responded
  deriving DecidableEq, Repr

/-- A PF mailbox block (R419, R422 to R426). -/
structure Mailbox where
  state : MbxState := .idle
  dropped : Bool := false
  ovf : Bool := false
  opcode : W16 := 0
  argLen : Nat := 0
  cookie : W32 := 0
  arg : Tbl Byte := []
  result : Byte := 0
  rsp : Bytes := []
  jseq : Nat := 0
  rcookie : W32 := 0
  tail : Nat := 0
  head : Nat := 0
  ring : Tbl Bytes := []
  deriving DecidableEq, Repr

/-- A wide mailbox (R445, R446). -/
structure WideMbx where
  req : Bool := false
  selector : Byte := 0
  index : W16 := 0
  valid : Bool := false
  badSel : Bool := false
  words : List W32 := []
  deriving DecidableEq, Repr

/-- Objects of orders (R421). -/
inductive Obj where
  | package | tenant (ident : Nat) | hamlet (h : Nat) | slice (s : Nat) | reservation (n : Nat)
  | job (j : Nat) | road (r : Nat) | port (p : Port)
  deriving DecidableEq, Repr

inductive JState where
  | arrived | waiting | executing | done
  deriving DecidableEq, Repr

/-- The way an order's answer goes (R418). -/
inductive JSource where
  | internal | pf (p : Port) | env (ch : EnvChannel) (cookie : W32) (counter : W64)
  | guest (cmd : Nat) | doe (p : Port)
  deriving DecidableEq, Repr

/-- A journal entry (R420) with the arguments it executes on. -/
structure JEntry where
  master : Nat
  source : JSource
  opcode : Nat
  obj : Obj
  arrival : Nat
  state : JState := .arrived
  result : Nat := 0
  doneAt : W64 := 0
  args : Bytes := []
  image : DmaResult := .ok []
  deriving DecidableEq, Repr

/-- A fault record (R376). -/
structure FaultRecord where
  rseq : Nat
  time : W64
  detector : Nat
  action : Nat
  severity : Nat
  policy : Nat
  unit : Nat
  sub : Nat
  count : Nat := 1
  handle : Nat := 0
  slice : Nat := 0xFFFF
  jseq : Nat := 0
  read : Bool := false
  stamp : Nat := 0
  deriving DecidableEq, Repr

/-- A detail record (R520, R521). -/
structure DetailRecord where
  seq : Nat
  time : W64
  status : Status
  slice : Nat
  lane : Nat
  subSeq : W32
  handle : Nat
  gen : Byte
  opcode : Byte
  model : W32
  read : Bool := false
  deriving DecidableEq, Repr

/-- A reset history record (R520). -/
structure HistoryRecord where
  seq : Nat
  time : W64
  kind : Nat
  cause : Nat
  counted : Bool
  nonce : W64
  deriving DecidableEq, Repr

/-- The ledger (R448 to R452, R505). -/
structure Ledger where
  state : Nat := 0
  mismatch : Bool := false
  stale : Bool := false
  capturing : Bool := false
  current : W32 := 0
  ref : W32 := 0
  /-- The reference in force, once one is. -/
  reference : W32 := 0
  cfgSeq : Nat := 0
  commitSeq : W32 := 0
  base : Tbl W32 := []
  limit : Tbl W32 := []
  /-- A pass in progress: LDG_CFG_SEQ and the CRC at its start. -/
  pass : Option (Nat × W32) := none
  lastEnd : W64 := 0
  deriving DecidableEq, Repr

/-- The Reeve (R372, R373, R418, R429, R503, R521). -/
structure Reeve where
  pair0 : PairState := .active
  pair1 : PairState := .standby
  active : Nat := 0
  takeovers : Nat := 0
  takeover : Bool := false
  failTimes0 : List Nat := []
  failTimes1 : List Nat := []
  bootNonce : W64 := 0
  /-- Journal sequence of the unanswered order of each envelope channel (R430). -/
  fm : Option Nat := none
  fmRelay : Option Nat := none
  tc : Option Nat := none
  fmCounter : Option W64 := none
  nextJseq : Nat := 1
  journal : Tbl JEntry := []
  faultLog : List FaultRecord := []
  nextRseq : Nat := 0
  detailLog : List DetailRecord := []
  nextDetail : Nat := 0
  alert : W32 := 0
  pfIrqEn : BitVec 3 := 0
  regErr : BitVec 2 := 0
  tmrCorr : W64 := 0
  faultLost : W64 := 0
  msgDrops : W64 := 0
  detailLost : W64 := 0
  mirrorSeq : Nat := 0
  /-- The Reeve's own shadow (R443). -/
  shadow : Option (Nat × W32) := none
  /-- The Reeve's own wide mailbox (R445). -/
  wide : WideMbx := {}
  deriving DecidableEq, Repr

/-! ### Actions the block issues -/

/-- An action of the block toward its surroundings, in the order issued. -/
inductive Action where
  /-- A read the guest or PF driver made, and its value. -/
  | readValue (src : RegSource) (v : W64)
  /-- A posted write to host memory: port, PASID (none for the PF), address, bytes. -/
  | hostWrite (p : Port) (pasid : Option (BitVec 20)) (addr : W64) (bytes : Bytes)
  /-- A read request to host memory. -/
  | hostRead (p : Port) (pasid : Option (BitVec 20)) (addr : W64) (len : Nat)
  /-- An MSI-X write: port, PASID of the slice the vector belongs to (none for the PF), vector. -/
  | msix (p : Port) (pasid : Option (BitVec 20)) (vector : Nat)
  /-- A message leaves on road `r`: its opcode (R219) and fields. -/
  | road (r : Nat) (op : Nat) (m : RoadMsg)
  /-- A block leaves on road `r`: its 28 units (R212, R213). -/
  | block (r : Nat) (bytes : Bytes)
  | envelope (ch : EnvChannel) (bytes : Bytes)
  | doe (p : Port) (bytes : Bytes)
  | trust (p : Port) (session : Nat) (bytes : Bytes)
  | ibi (code : Byte)
  | faultToManager (rseq : Nat)
  | alertManager (obj : Obj)
  /-- A row is due to repair: its stack, channel, bank and row, to the PF driver (R197). -/
  | rowWeak (stack channel bank row : Nat)
  | ptp (kind : Nat) (seq : Nat)
  | config (p : Port) (v : Option W32)
  | atsRequest (p : Port) (pasid : BitVec 20) (page : Nat)
  | atsDone (p : Port)
  | tallyResult (cmd : Nat) (r : TallyResult)
  | readData (cmd : Nat) (bytes : Bytes)
  | jtagData (v : W64)
  | i3cData (bytes : Bytes)
  | ackNone
  deriving DecidableEq, Repr

/-- A transmission that waits on a port (R132, R284): class 0 a fast-path result or entry, 1 a reserved write within its
guarantee, 2 any other; the lane it belongs to; what it sends. -/
structure Transmission where
  cls : Nat
  lane : Option (Nat × Nat) := none
  act : Action
  deriving DecidableEq, Repr

/-- An entry of the address translation cache: PASID, page and the way it lies in (R85, R330). -/
structure AtcEntry where
  pasid : Nat
  page : Nat
  way : Nat := 0
  deriving DecidableEq, Repr

/-! ### Host ports (02, 10, 14, 16, 17) -/

structure MsixEntry where
  addr : W64 := 0
  data : W32 := 0
  masked : Bool := true
  deriving DecidableEq, Repr

/-- An SPDM session (R306, R309). -/
structure SpdmSession where
  id : Nat
  transcript : Bytes
  established : Bool := false
  lastCounter : Option Nat := none
  used : Nat := 0
  /-- The ephemeral shared secret, until FINISH. -/
  secret : Bytes := []
  deriving DecidableEq, Repr

structure PortState where
  linkUp : Bool := false
  rate : LinkRate := 128
  width : LinkWidth := 16
  perst : Bool := true
  ats : Bool := false
  /-- The address translation cache's entries for the port (R85). -/
  atc : List AtcEntry := []
  /-- The transmissions that wait; the first is in progress (R132). -/
  tx : List Transmission := []
  /-- What is left of the reservations' outbound guarantees, by reservation (R284). -/
  txGuarantee : Tbl Bucket := []
  msix : Tbl MsixEntry := []
  pba : List Nat := []
  mbx : Mailbox := {}
  wide : WideMbx := {}
  shadow : Option (Nat × W32) := none
  laneShadow : Tbl (Nat × W32) := []
  spdmVersion : Bool := false
  spdmCaps : Bool := false
  spdmAlgs : Bool := false
  spdmLog : Bytes := []
  /-- The digest and certificate messages, and the unsigned measurement messages, since the connection (R306). -/
  spdmCerts : Bytes := []
  spdmMeas : Bytes := []
  sessions : List SpdmSession := []
  nextSession : Nat := 0
  deriving DecidableEq, Repr

/-! ### Device time (15) -/

inductive TimeState where
  | unset | acquiring | locked | holdover | freerun
  deriving DecidableEq, Repr

inductive TimeSource where
  | none | ptp | pps | leader
  deriving DecidableEq, Repr

inductive TimeRole where
  | standalone | leader | backup | follower
  deriving DecidableEq, Repr

/-- PTP exchange state (R459, R460). -/
structure PtpState where
  master : Option PtpAnnounceBody := none
  masterPort : W64 := 0
  lastAnnounce : Option Nat := none
  lastSync : Option Nat := none
  syncInterval : Int := 0
  announceInterval : Int := 0
  /-- A two-step Sync awaiting its Follow_Up: sequence, receive time, correction. -/
  pendingSync : Option (Nat × W64 × Int) := none
  /-- The last Sync's origin and receive time, in ps, for the delay measurement. -/
  lastPair : Option (Int × Int) := none
  /-- A Delay_Req or Pdelay_Req sent: sequence and transmit time. -/
  pendingDelay : Option (Nat × W64) := none
  /-- A Pdelay_Resp awaiting its Follow_Up: sequence, t1, t2, t4, correction. -/
  pendingPdelay : Option (Nat × W64 × W64 × W64 × Int) := none
  nextDelaySeq : Nat := 0
  /-- Measured mean path delay in ps. -/
  delay : Int := 0
  /-- The last PTP offset, in ps (R467). -/
  offset : Option Int := none
  deriving DecidableEq, Repr

/-- The time unit (R453 to R472, R506). Interval time counts 2^-32 ns; device time is 64.32 bits. -/
structure TimeUnit where
  interval : Nat := 0
  device : BitVec 96 := 0
  rate : Int := 0
  /-- HCLK cycles into the TCLK cycle, 0 to 3 (R37). -/
  tclk : Nat := 0
  state : TimeState := .unset
  before : TimeState := .unset
  source : TimeSource := .none
  steps : Byte := 0
  role : TimeRole := .standalone
  leader : Nat := 0
  backup : Option Nat := none
  /-- Configured source: 0 PTP, 1 PPS, 2 PTP_PPS. -/
  config : Nat := 0
  domain : Byte := 0
  sdoId : W16 := 0
  peerDelay : Bool := false
  announceTimeout : Nat := 3
  udp : Bool := false
  stepThreshold : Nat := 100
  holdoverLimit : Nat := 60
  slewOnly : Bool := false
  ppsOutEn : Bool := false
  asym : Int := 0
  utcOffset : W16 := 0
  utcValid : Bool := false
  gmId : W64 := 0
  ppsGlitch : W64 := 0
  everLocked : Bool := false
  lockStreak : Nat := 0
  overStreak : Nat := 0
  rates : List Int := []
  offset : Int := 0
  predicted : Option Int := none
  lastMeasure : Option Nat := none
  ptp : PtpState := {}
  ppsLast : Option Nat := none
  ppsLabel : Option Nat := none
  ppsValid : Bool := false
  ppsDisagree : Nat := 0
  ppsRejected : Bool := false
  ppsIn : W64 := 0
  ppsOut : Bool := false
  ppsOutTime : W64 := 0
  lastReply : Option Nat := none
  /-- The source of the last measurement taken, with its identity: grandmaster or leader (R456, R457). -/
  lastSource : Option (TimeSource × Nat) := none
  /-- Interval time at which the state in force was entered. -/
  entered : Nat := 0
  /-- The probe in flight: t1 and the step count then (R470). -/
  probe : Option (W64 × Byte) := none
  holdoverStart : Nat := 0
  deriving DecidableEq, Repr

/-! ### Package life (16, 18, 13) -/

/-- Package states (R473). -/
inductive PkgLife where
  | off | aux | inReset | selftest | operating | lantern
  /-- After a package fabric fault, until the dies enter reset (R528). -/
  | failed
  deriving DecidableEq, Repr

/-- A package warm reset in progress (R403, R365). -/
structure WarmReset where
  jseq : Nat
  start : Nat
  policy : Bool
  counted : Bool
  cause : Nat
  squashed : Bool := false
  workDone : Bool := false
  /-- The roads have dropped after their FENCED words (R236). -/
  dropped : Bool := false
  /-- The reset returns the package to service (R410). -/
  returning : Bool := false
  /-- The hamlet whose fault caused it (R407), and what the fault needs done within it (R365): crofts to retire, hamlets to take
  out of service; RETIRING channels stand in their hamlets. -/
  hamlet : Option Nat := none
  retire : List (Nat × Nat) := []
  leave : List Nat := []
  /-- Hamlet resets in progress that it absorbed, by their journal orders (R381). -/
  absorbed : List Nat := []
  deriving DecidableEq, Repr

/-- A charter copy in flash (R485 to R488): its records when it was written by the package, or raw bytes. -/
structure FlashCopy where
  bytes : Bytes := []
  deriving DecidableEq, Repr

inductive FlashOp where
  | charter (jseq : Nat) (copyB : Bool) (bytes : Bytes)
  | firmware (jseq : Nat) (copyB : Bool) (bytes : Bytes)
  deriving DecidableEq, Repr

inductive JtagInstr where
  | extest | idcode | samplePreload | clamp | highz | bypass
  deriving DecidableEq, Repr

/-- Reset limits of one domain (R407): limit and window in s. -/
structure ResetLimit where
  limit : Nat
  window : Nat
  deriving DecidableEq, Repr

/-- The options of a host port (R486, R490): width, highest rate in units of 0.5 GT/s, common clock. -/
structure PcieOptions where
  width : Nat := 16
  rate : Nat := 128
  common : Bool := false
  deriving DecidableEq, Repr

structure Package where
  life : PkgLife := .selftest
  vddAux : Bool := true
  pwrOk : Bool := true
  resetN : Bool := true
  refclk : Bool := true
  tray : Nat := 0
  slot : Nat := 0
  phase : Nat := 0
  code : Byte := 0
  results : Tbl (Nat × Nat) := []
  failed : List (Nat × FailedUnit) := []
  latch : Bool := false
  latchCode : Byte := 0
  deviceId : Option W16 := none
  thermtrip : Bool := false
  outOfService : Bool := false
  warm : Option WarmReset := none
  fullStart : Nat := 0
  fullJseq : Nat := 0
  powerCycle : Bool := false
  gen : Byte := 0
  policyPackage : Bool := false
  hangMult : Nat := 4
  fenceDeadline : Nat := 100
  croftLimit : ResetLimit := ⟨3, 600⟩
  hamletLimit : ResetLimit := ⟨3, 600⟩
  packageLimit : ResetLimit := ⟨2, 3600⟩
  history : List HistoryRecord := []
  nextHistory : Nat := 0
  /-- First record of the history that counts under R407 since the last return to service (R410). -/
  countFrom : Nat := 0
  copyA : FlashCopy := {}
  copyB : FlashCopy := {}
  copiesInvalid : Bool := false
  firmwareA : FlashCopy := {}
  firmwareB : FlashCopy := {}
  runningB : Bool := false
  runningVersion : W32 := 0
  runningSvn : Nat := 0
  runningDigest : Bytes := []
  /-- The alias key's private scalar and its certificate, made at each boot (R303, R307). -/
  aliasKey : Nat := 0
  aliasCert : Bytes := []
  fusedSvn : Nat := 0
  flash : List FlashOp := []
  mgmtKey : Option Bytes := none
  /-- MGMT_IPV4: address, prefix length, gateway; all zero unset (R486, R493). -/
  mgmtIp : Bytes := List.replicate 9 0
  pcieA : PcieOptions := {}
  pcieB : PcieOptions := {}
  debugUnlocked : Bool := false
  avs : Tbl Nat := []
  /-- Interval time of each Field's last AVS change (R477). -/
  avsTimes : Tbl Nat := []
  temps : Tbl Int := []
  excluded : List (Nat × Nat) := []
  thermal : Bool := false
  coolSince : Option Nat := none
  bridgeBad : List Nat := []
  bridgeRetry : Tbl W64 := []
  i3cAddress : Option (BitVec 7) := none
  ibi : List Byte := []
  jtag : JtagInstr := .idcode
  boundary : W64 := 0
  sampled : W64 := 0
  deriving DecidableEq, Repr

/-- What a command's output is a function of (R154): the model image, the entry point and its arguments, the input, and what every
schedule slot has read and been answered; with the slot whose tile completes. -/
structure TileKey where
  image : Bytes
  kind : Nat
  aux : W32
  input : Bytes
  seen : Tbl (List Bytes)
  slot : Nat
  deriving DecidableEq, Repr

/-- The control state of the block: everything but its byte memory and its command queue. -/
structure Ctl where
  /-- How many free values have been drawn. -/
  fresh : Nat := 0
  out : List Action := []
  time : TimeUnit := {}
  pkg : Package := {}
  portA : PortState := {}
  portB : PortState := {}
  reeve : Reeve := {}
  ledger : Ledger := {}
  tenants : Tbl Tenant := []
  /-- Hearth tally blocks of 16: owning tenant's local index (R173). -/
  tallyBlocks : Tbl Nat := []
  /-- Owner map by rack hamlet (R225); unlisted 0. -/
  owners : Tbl W16 := []
  /-- Removal marks: tenant and package (R351). -/
  removed : List (W16 × Nat) := []
  slices : Tbl Slice := []
  incarnations : W32 := 0
  models : Tbl Model := []
  loads : Tbl Load := []
  contexts : Tbl Context := []
  cmds : Tbl Cmd := []
  nextCmd : Nat := 0
  hamlets : Tbl Hamlet := []
  /-- Tallies by name (R174). -/
  tallies : Tbl Tally := []
  /-- Staged sets toward Hearth tallies (R180). -/
  hearthSets : List StagedSet := []
  roads : Tbl Road := []
  peers : Tbl Peer := []
  /-- Nonce counters by origin road and tenant, and the block each road uses (R226). -/
  nonces : Tbl Nat := []
  requests : List Request := []
  reservations : Tbl Reservation := []
  /-- Resources whose brownout grants are in force (R290). -/
  brownout : List Nat := []
  /-- Jobs by slot (R386). -/
  jobs : Tbl Job := []
  gleanings : List GleaningsRecord := []
  sheaves : Tbl Sheaf := []
  nextSheaf : Nat := 0
  /-- The model's own field: the output each completed tile wrote, by what it is a function of (R154, log 54). -/
  computed : List (TileKey × List (Nat × Bytes)) := []
  units : HostUnits := {}
  deriving DecidableEq, Repr

/-- The package: its control state and its byte memory. -/
structure Dev extends Ctl where
  /-- Bytes of HBM and scratchpad by rack address [47:0] (R183, R184); unlisted 0 (R196). -/
  mem : List Host.Cell := []
  /-- Poisoned 64-byte blocks by rack address (R197). -/
  poison : List Nat := []
  deriving DecidableEq, Repr

/-- The state of the block: the package and the queue of commands that wait. -/
structure State extends Dev where
  /-- The commands that wait, first in, first out. -/
  pending : List Instr := []
  deriving DecidableEq, Repr

/-- Model faults. The spec describes every error of the block as an effect on its state, so no meaning of
this model ends in a fault. -/
inductive Fault where
  /-- Raised by nothing. Safe: a stop proves no statement about a next state. -/
  | none
  deriving DecidableEq, Repr

/-- Refusals. -/
inductive Refusal where
  /-- Raised by `exec` for a command without a meaning yet. Safe. -/
  | notModelled (mnemonic : String)
  deriving DecidableEq, Repr

/-- The package as a full reset leaves it when self-test begins (R404, R473, R480): every field at the value
the spec gives, or the value the assumption log names. The boot nonce is the first free value drawn (R429). -/
def State.reset : State :=
  { reeve := { bootNonce := Config.freeWord 0 }, pkg := { firmwareA := { bytes := Config.factoryFirmware } }, fresh := 1 }

end Sys2Proof.Machine
end

