-- ==== Sys2Proof/Machine/Tbl.lean ====
section
/-! DEFINITION. The sparse table: keys strictly rising, read by `find?`, written by `set`. -/

namespace Sys2Proof.Tbl

variable {α : Type}

/-- The value at key `k`. -/
def find? : Tbl α → Nat → Option α
  | [], _ => none
  | (j, v) :: t, k => if j = k then some v else find? t k

/-- The value at key `k`, or `dflt` where the table does not list it. -/
def getD (t : Tbl α) (k : Nat) (dflt : α) : α := (find? t k).getD dflt

/-- The table with `v` at key `k`. -/
def set : Tbl α → Nat → α → Tbl α
  | [], k, v => [(k, v)]
  | (j, w) :: t, k, v =>
    if k < j then (k, v) :: (j, w) :: t
    else if k = j then (k, v) :: t
    else (j, w) :: set t k v

/-- The table without key `k`. -/
def erase (t : Tbl α) (k : Nat) : Tbl α := t.filter fun e => e.1 != k

/-- The table with the value at `k`, `dflt` where it lists none, changed by `f`. -/
def modify (t : Tbl α) (k : Nat) (dflt : α) (f : α → α) : Tbl α := set t k (f (getD t k dflt))

/-- The table with the value at `k` changed by `f`, where it lists one. -/
def update (t : Tbl α) (k : Nat) (f : α → α) : Tbl α :=
  match find? t k with
  | some v => set t k (f v)
  | none => t

/-- Every value changed by `f`. -/
def mapVal (t : Tbl α) (f : Nat → α → α) : Tbl α := t.map fun e => (e.1, f e.1 e.2)

def keys (t : Tbl α) : List Nat := t.map Prod.fst

def vals (t : Tbl α) : List α := t.map Prod.snd

end Sys2Proof.Tbl
end

