-- ==== Sys2Proof/Machine/Ops.lean ====
section
/-! DEFINITION. The named operations over the state that every family shares: reading and changing its tables,
time, the action trace, random draws, interrupts, alerts, fault records and the lanes' completion rings. -/

namespace Sys2Proof.Machine
open Sys2Proof

/-- A command's outcome: the package changed by `f`, the queue of waiting commands as it was. -/
def onDev (s : State) (f : Dev → Dev) : Host.Outcome State Fault Refusal :=
  .next { s with toDev := f s.toDev }

/-- A command's outcome when it changes the control state only: byte memory and the queue stay. -/
def onCtl (s : State) (f : Ctl → Ctl) : Host.Outcome State Fault Refusal :=
  .next { s with toCtl := f s.toCtl }

/-! ### Tables -/

/-- Slice `i`. -/
def getSlice (d : Ctl) (i : Nat) : Slice := Tbl.getD d.slices i {}

def setSlice (d : Ctl) (i : Nat) (x : Slice) : Ctl := { d with slices := Tbl.set d.slices i x }

def modSlice (d : Ctl) (i : Nat) (f : Slice → Slice) : Ctl := setSlice d i (f (getSlice d i))

/-- Lane `l` of slice `i`; a lane that was never created is DISABLED (R57). -/
def getLane (d : Ctl) (i l : Nat) : Lane := Tbl.getD (getSlice d i).lanes l {}

def modLane (d : Ctl) (i l : Nat) (f : Lane → Lane) : Ctl :=
  modSlice d i fun s => { s with lanes := Tbl.set s.lanes l (f (Tbl.getD s.lanes l {})) }

/-- Package hamlet `h`. -/
def getHam (d : Ctl) (h : Nat) : Hamlet := Tbl.getD d.hamlets h {}

def modHam (d : Ctl) (h : Nat) (f : Hamlet → Hamlet) : Ctl :=
  { d with hamlets := Tbl.set d.hamlets h (f (getHam d h)) }

/-- Road `r`. -/
def getRoad (d : Ctl) (r : Nat) : Road := Tbl.getD d.roads r {}

def modRoad (d : Ctl) (r : Nat) (f : Road → Road) : Ctl :=
  { d with roads := Tbl.set d.roads r (f (getRoad d r)) }

/-- Peer package `q`. -/
def getPeer (d : Ctl) (q : Nat) : Peer := Tbl.getD d.peers q {}

def modPeer (d : Ctl) (q : Nat) (f : Peer → Peer) : Ctl :=
  { d with peers := Tbl.set d.peers q (f (getPeer d q)) }

/-- Host port `p`. -/
def getPort (d : Ctl) : Port → PortState
  | .ha => d.portA
  | .hb => d.portB

def modPort (d : Ctl) (p : Port) (f : PortState → PortState) : Ctl :=
  match p with
  | .ha => { d with portA := f d.portA }
  | .hb => { d with portB := f d.portB }

def portNum : Port → Nat
  | .ha => 0
  | .hb => 1

def portOf (n : Nat) : Port := if n = 0 then .ha else .hb

def otherPort : Port → Port
  | .ha => .hb
  | .hb => .ha

/-- Tally `n`. -/
def getTally (d : Ctl) (n : Nat) : Tally := Tbl.getD d.tallies n {}

def modTally (d : Ctl) (n : Nat) (f : Tally → Tally) : Ctl :=
  { d with tallies := Tbl.set d.tallies n (f (getTally d n)) }

/-- Command `c` changed, where it exists. -/
def modCmd (d : Ctl) (c : Nat) (f : Cmd → Cmd) : Ctl := { d with cmds := Tbl.update d.cmds c f }

def modReeve (d : Ctl) (f : Reeve → Reeve) : Ctl := { d with reeve := f d.reeve }

def modPkg (d : Ctl) (f : Package → Package) : Ctl := { d with pkg := f d.pkg }

def modTime (d : Ctl) (f : TimeUnit → TimeUnit) : Ctl := { d with time := f d.time }

/-- The tenant of identity `id`, with its local index. -/
def tenantById (d : Ctl) (id : Nat) : Option (Nat × Tenant) :=
  List.find? (fun e => e.2.ident.toNat == id) d.tenants

def modTenant (d : Ctl) (t : Nat) (f : Tenant → Tenant) : Ctl :=
  { d with tenants := Tbl.update d.tenants t f }

/-- The handle of the tenant at local index `t`, 0 where there is none. -/
def handleOf (d : Ctl) (t : Nat) : Nat := ((Tbl.find? d.tenants t).map fun x => x.handle.toNat).getD 0

/-- The hamlets that carry the assignment of tenant index `t`. -/
def tenantHamlets (d : Ctl) (t : Nat) : List Nat :=
  (List.range 32).filter fun h =>
    let x := getHam d h
    x.assign != .unassigned && x.tenant == t

/-- The hamlets GRANTED to tenant index `t` (R339, R340). -/
def grantedHamlets (d : Ctl) (t : Nat) : List Nat := (tenantHamlets d t).filter fun h => (getHam d h).assign == .granted

/-- The hamlets of tenant index `t` that a release or removal is not taking away. -/
def keptHamlets (d : Ctl) (t : Nat) : List Nat := (tenantHamlets d t).filter fun h => (getHam d h).assign != .releasing

/-- The package's number (R32) and a rack hamlet's package and hamlet (R31). -/
def pkgNum (d : Ctl) : Nat := 4 * d.pkg.tray + d.pkg.slot

def rackHamlet (d : Ctl) (h : Nat) : Nat := 32 * pkgNum d + h

/-! ### Time -/

/-- Interval time in units of 2^-32 ns. -/
def now (d : Ctl) : Nat := d.time.interval

/-- `n` ns of interval time. -/
def ns (n : Nat) : Nat := n * 2 ^ 32

def us (n : Nat) : Nat := ns (n * 1000)

def ms (n : Nat) : Nat := ns (n * 1000000)

def sec (n : Nat) : Nat := ns (n * 1000000000)

/-- Interval time in whole ns. -/
def nowNs (d : Ctl) : Nat := d.time.interval / 2 ^ 32

/-- Device time in whole ns (R453). -/
def devNow (d : Ctl) : W64 := d.time.device.extractLsb' 32 64

/-- The stamps of a list that lie within the last `w` units of interval time. -/
def within (d : Ctl) (w : Nat) (l : List Nat) : List Nat := l.filter fun t => decide (now d < t + w)

/-! ### Actions and draws -/

/-- The package issues an action. -/
def emit (d : Ctl) (a : Action) : Ctl := { d with out := d.out ++ [a] }

/-- The next draw number used up. -/
def drawn (d : Ctl) : Ctl := { d with fresh := d.fresh + 1 }

/-- `k` random bytes of the next draw (a free value). -/
def drawBytes (d : Ctl) (k : Nat) : Bytes := (List.range k).map (Config.drawByte d.fresh)

/-! ### Rate buckets (R274) -/

/-- A bucket brought up to date: it gains its rate each ns, up to its depth in units (R274). -/
def refill (d : Ctl) (b : Bucket) (unit : Nat) : Bucket :=
  { b with
    balance := min (b.balance + (b.rate : Int) * ((nowNs d : Int) - (b.stamp : Int))) ((b.depth : Int) * (unit : Int))
    stamp := nowNs d }

/-- The reservation that covers a slice (R278). -/
def resvOf (d : Ctl) (i : Nat) : Option (Nat × Reservation) :=
  List.find? (fun e => e.2.slices.contains i) d.reservations

/-! ### Transmit queues of the ports (R132, R284) -/

/-- `t` must leave behind `x`: of its class or a higher one, or of its own lane, whose writes keep their order (R118). -/
def leavesBehind (t x : Transmission) : Bool := decide (x.cls ≤ t.cls) || (t.lane.isSome && x.lane == t.lane)

/-- A transmission joins the waiting ones behind the last it must not overtake. -/
def txInsert (t : Transmission) : List Transmission → List Transmission
  | [] => [t]
  | x :: l => if (x :: l).any (leavesBehind t) then x :: txInsert t l else t :: x :: l

/-- A transmission joins a port's queue; the one in progress at the front completes first (R132). -/
def txJoin (t : Transmission) : List Transmission → List Transmission
  | [] => [t]
  | x :: l => x :: txInsert t l

/-- The arbiter of a port takes a transmission; without a link nothing leaves. -/
def sendTx (d : Ctl) (p : Port) (t : Transmission) : Ctl :=
  if (getPort d p).linkUp then modPort d p fun x => { x with tx := txJoin t x.tx } else d

/-- The transmission in progress on a port ends, and the next is in progress. -/
def portSends (d : Ctl) (p : Port) : Ctl :=
  match (getPort d p).tx with
  | [] => d
  | t :: l => emit (modPort d p fun x => { x with tx := l }) t.act

/-! ### Interrupts and alerts -/

/-- The PASID of a slice on a port (R85). -/
def pasidOn (s : Slice) : Port → BitVec 20
  | .ha => s.pasidA
  | .hb => s.pasidB

/-- The slice is bound to a port. -/
def boundOn (s : Slice) : Port → Bool
  | .ha => s.boundA
  | .hb => s.boundB

/-- Vector `v` is one of a slice's on a port (R75). -/
def ownsVector (s : Slice) (v : Nat) : Port → Bool
  | .ha => s.boundA && decide (s.vecBaseA ≤ v ∧ v < s.vecBaseA + s.vecCountA)
  | .hb => s.boundB && decide (s.vecBaseB ≤ v ∧ v < s.vecBaseB + s.vecCountB)

/-- The PASID an MSI-X write carries: that of the slice the vector serves, none for the PF's (R75, R85). -/
def vectorPasid (d : Ctl) (p : Port) (v : Nat) : Option (BitVec 20) :=
  (List.find? (fun (e : Nat × Slice) => e.2.state != .free && ownsVector e.2 v p) d.slices).map fun e => pasidOn e.2 p

/-- The port raises MSI-X vector `v`: a masked entry sets its pending bit (R75, R501). -/
def raiseVector (d : Ctl) (p : Port) (v : Nat) : Ctl :=
  let e := Tbl.getD (getPort d p).msix v {}
  if e.masked then modPort d p fun x => { x with pba := if x.pba.contains v then x.pba else x.pba ++ [v] }
  else sendTx d p { cls := 2, act := .msix p (vectorPasid d p v) v }

/-- Vector 0 of a port for PF cause `k`: 0 VALID, 1 ASYNC, 2 ALERT (R427). -/
def pfIrq (d : Ctl) (p : Port) (k : Nat) : Ctl :=
  if d.reeve.pfIrqEn.getLsbD k then raiseVector d p 0 else d

/-- Bits of HRT_ALERT_STATUS become set (R377, R427). -/
def setAlert (d : Ctl) (mask : W32) : Ctl :=
  let new := mask &&& ~~~d.reeve.alert
  let d := modReeve d fun r => { r with alert := r.alert ||| mask }
  if new = 0 then d else pfIrq (pfIrq d .ha 2) .hb 2

/-- An in-band interrupt toward the tray controller: pending in the status, and on the bus once a dynamic address makes it
an I3C target (R491, R492). -/
def raiseIbi (d : Ctl) (code : Byte) : Ctl :=
  let d := modPkg d fun k => { k with ibi := if k.ibi.contains code then k.ibi else k.ibi ++ [code] }
  if d.pkg.i3cAddress.isSome then emit d (.ibi code) else d

/-! ### Fault records -/

/-- Drops a record from a full fault log: the oldest without FAULT severity first (R376). -/
def dropFault (l : List FaultRecord) : List FaultRecord × Bool :=
  match l.find? (fun r => r.severity != 2) with
  | some r => (l.erase r, !r.read)
  | none => (l.drop 1, (l.head?.map fun r => !r.read).getD false)

/-- A new fault record with the next sequence (R376), its alert bit (R377) and its report to the manager. -/
def newFault (d : Ctl) (r : FaultRecord) : Ctl :=
  let r := { r with rseq := d.reeve.nextRseq, time := devNow d, stamp := now d, policy := b2n d.pkg.policyPackage }
  let full := decide (1024 ≤ d.reeve.faultLog.length)
  let kept := if full then dropFault d.reeve.faultLog else (d.reeve.faultLog, false)
  let d := modReeve d fun x => { x with
    faultLog := kept.1 ++ [r], nextRseq := (x.nextRseq + 1) % 2 ^ 32,
    faultLost := if kept.2 then addCount x.faultLost 1 else x.faultLost }
  let d := if r.severity = 2 then raiseIbi (emit d (.faultToManager r.rseq)) 0x12 else d
  if r.severity = 0 then d else setAlert d (BitVec.ofNat 32 (2 ^ r.action))

/-- A corrected or counted detection: one INFO record per detector and unit in each second, later ones folded
into its count (R378). -/
def countedFault (d : Ctl) (detector unit sub n : Nat) : Ctl :=
  let same (r : FaultRecord) : Bool :=
    r.severity == 0 && r.detector == detector && r.unit == unit && decide (now d < r.stamp + sec 1)
  if d.reeve.faultLog.any same then
    modReeve d fun x => { x with
      faultLog := x.faultLog.map fun r => if same r then { r with count := satAdd 32 r.count n } else r }
  else newFault d {
    rseq := 0, time := 0, detector := detector, action := 0, severity := 0, policy := 0,
    unit := unit, sub := sub, count := n }

/-- An uncorrected detection raises its own record (R378). -/
def faultRecord (d : Ctl) (detector action severity unit sub handle slice jseq : Nat) : Ctl :=
  newFault d {
    rseq := 0, time := 0, detector := detector, action := action, severity := severity, policy := 0,
    unit := unit, sub := sub, handle := handle, slice := slice, jseq := jseq }

/-! ### Host writes and completion rings -/

def dualHomed (s : Slice) : Bool := s.boundA && s.boundB

/-- A write of `n` bytes for a slice lies within its reservation's outbound guarantee on a port, with the port after it drew on
that (R284). -/
def withinGuarantee (d : Ctl) (p : Port) (i n : Nat) : Bool × Ctl :=
  match resvOf d i with
  | none => (false, d)
  | some (k, v) =>
    let g := Tbl.getD v.guarantees (2 * portNum p + 1) 0
    let depth := max 4096 (g * 10000)
    let held := Tbl.getD (getPort d p).txGuarantee k {}
    let b := refill d (if held.rate = g then held else { rate := g, depth := depth, balance := (depth * 10 : Nat), stamp := nowNs d }) 10
    if g = 0 ∨ b.balance < 10 * (n : Int) then (false, d)
    else (true, modPort d p fun x => { x with
      txGuarantee := Tbl.set x.txGuarantee k { b with balance := b.balance - 10 * (n : Int) } })

/-- A posted write of a slice's lane through its current port (R78, R85), in its class of R132 and R284. -/
def sliceWrite (d : Ctl) (i l : Nat) (fast : Bool) (addr : W64) (bs : Bytes) : Ctl :=
  let s := getSlice d i
  let act : Action := .hostWrite s.cur (some (pasidOn s s.cur)) addr bs
  if fast then sendTx d s.cur { cls := 0, lane := some (i, l), act := act }
  else
    let g := withinGuarantee d s.cur i bs.length
    sendTx g.2 s.cur { cls := if g.1 then 1 else 2, lane := some (i, l), act := act }

/-- A read of a slice through its current port (R78, R85); the arbiter sends it behind the writes (R132). -/
def sliceRead (d : Ctl) (i : Nat) (addr : W64) (n : Nat) : Ctl :=
  let s := getSlice d i
  sendTx d s.cur { cls := 2, act := .hostRead s.cur (some (pasidOn s s.cur)) addr n }

/-! ### Translations (R85, R134, R330) -/

/-- The pages that `n` bytes from an address touch. -/
def pagesAt (a : W64) (n : Nat) : List Nat :=
  (List.range ((a.toNat % 4096 + n + 4095) / 4096)).map (· + a.toNat / 4096)

/-- The address translation cache holds a page's translation for a port. -/
def atcHolds (x : PortState) (pasid : BitVec 20) (page : Nat) : Bool := x.atc.any fun e => e.pasid == pasid.toNat && e.page == page

/-- A page of a slice's PASID lies in the postcard result area of one of its lanes on the port. -/
def inResultArea (d : Ctl) (p : Port) (pasid : BitVec 20) (page : Nat) : Bool :=
  d.slices.any fun (e : Nat × Slice) => boundOn e.2 p && pasidOn e.2 p == pasid && e.2.lanes.any fun (l : Nat × Lane) =>
    l.2.strideLog != 0 && decide (l.2.resultBase.toNat / 4096 ≤ page ∧
      4096 * page < l.2.resultBase.toNat + 2 ^ l.2.cqLog * 2 ^ l.2.strideLog)

/-- The Hearth requests the translation of a page it does not hold, where the port's ATS is enabled. -/
def askPage (d : Ctl) (p : Port) (i page : Nat) : Ctl :=
  let pasid := pasidOn (getSlice d i) p
  if !(getPort d p).ats || atcHolds (getPort d p) pasid page then d else emit d (.atsRequest p pasid page)

def askPages (d : Ctl) (p : Port) (i : Nat) (l : List Nat) : Ctl := l.foldl (fun d q => askPage d p i q) d

/-- A page's translation is held in one of the ways of the slice's tenant. Which one, and which entries of it the fill evicts, are
free; those of postcard result areas stay (R134, R330). -/
def holdPage (d : Ctl) (p : Port) (i page : Nat) : Ctl :=
  let s := getSlice d i
  let pasid := pasidOn s p
  let ways := ((Tbl.find? d.tenants s.tenant).map fun t => bitList 32 t.wayAtc.toNat).getD []
  if !(getPort d p).ats || atcHolds (getPort d p) pasid page || ways.isEmpty then d
  else
    let w := ways.getD (Config.cachePick d.fresh % ways.length) 0
    let stays (e : AtcEntry × Nat) : Bool :=
      e.1.way != w || inResultArea d p (BitVec.ofNat 20 e.1.pasid) e.1.page || !Config.evicts d.fresh e.2
    modPort (drawn d) p fun x => { x with
      atc := ((x.atc.zipIdx.filter stays).map Prod.fst) ++ [{ pasid := pasid.toNat, page := page, way := w }] }

def holdPages (d : Ctl) (p : Port) (i : Nat) (l : List Nat) : Ctl := l.foldl (fun d q => holdPage d p i q) d

/-- The completion ring base and size of a lane on a port. -/
def cqBase (ln : Lane) : Port → W64
  | .ha => ln.cqBaseA
  | .hb => ln.cqBaseB

def sqBase (ln : Lane) : Port → W64
  | .ha => ln.sqBaseA
  | .hb => ln.sqBaseB

def cqSize (ln : Lane) : Nat := 2 ^ ln.cqLog

def sqSize (ln : Lane) : Nat := 2 ^ ln.sqLog

/-- Command `c` is an outstanding submission of the lane in its present creation. -/
def onLane (d : Ctl) (i l : Nat) (c : Cmd) : Bool :=
  c.slice == i && c.lane == l && c.incarnation == (getLane d i l).incarnation &&
    c.gen == (getSlice d i).gen

/-- The lane's outstanding submissions, oldest first: each reserves a completion entry (R69). -/
def outstanding (d : Ctl) (i l : Nat) : List (Nat × Cmd) := d.cmds.filter fun e => onLane d i l e.2

/-- Completion entries neither reserved nor unconsumed (R69). -/
def freeEntries (d : Ctl) (i l : Nat) : Nat :=
  let ln := getLane d i l
  cqSize ln - ln.unconsumed - (outstanding d i l).length

/-- The vector a lane signals on a port (R75). -/
def laneVector (s : Slice) (l : Nat) : Port → Nat
  | .ha => s.vecBaseA + l % s.vecCountA
  | .hb => s.vecBaseB + l % s.vecCountB

/-- The lane raises its vector and starts counting anew (R76). -/
def raiseLane (d : Ctl) (i l : Nat) : Ctl :=
  let s := getSlice d i
  let d := modLane d i l fun ln => { ln with irqCount := 0, irqOldest := none }
  raiseVector d s.cur (laneVector s l s.cur)

/-- The interrupt thresholds of R76 hold. -/
def irqDue (d : Ctl) (ln : Lane) : Bool :=
  let cnt := max 1 (bits ln.irqCtl.toNat 15 8)
  let t := bits ln.irqCtl.toNat 31 16
  ln.irqCtl.getLsbD 0 && 0 < ln.irqCount &&
    (decide (cnt ≤ ln.irqCount) || t == 0 ||
      (match ln.irqOldest with | some o => decide (o + ns (100 * t) < now d) | none => false))

/-- The lane raises its vector where a threshold holds. -/
def checkIrq (d : Ctl) (i l : Nat) : Ctl := if irqDue d (getLane d i l) then raiseLane d i l else d

/-- The address of a lane's next completion entry on the slice's current port. -/
def ringPlace (s : Slice) (ln : Lane) : W64 := cqBase ln s.cur + BitVec.ofNat 64 (32 * ln.cqWrite)

/-- A completion entry goes to the lane's ring at its write index through the current port, with the phase of
this pass (R72, R73), after the writes it reports; the lane counts it for its interrupt (R76). -/
def ringWrite (d : Ctl) (i l : Nat) (fast : Bool) (before : List (W64 × Bytes)) (entry : Bytes) : Ctl :=
  let s := getSlice d i
  let ln := getLane d i l
  let addr := ringPlace s ln
  let e := overlay entry 6 [BitVec.ofNat 8 (2 * ((entry.getD 6 0).toNat / 2) + b2n ln.phase)]
  let d := sliceWrite d i l fast addr e
  let nxt := (ln.cqWrite + 1) % cqSize ln
  let d := modLane d i l fun x => { x with
    cqWrite := nxt, phase := if nxt = 0 then !x.phase else x.phase, unconsumed := x.unconsumed + 1,
    irqCount := x.irqCount + 1, irqOldest := some (x.irqOldest.getD (now d)),
    delivered := x.delivered ++ [⟨ln.cqWrite, s.cur, before ++ [(addr, e)]⟩] }
  checkIrq d i l

/-- An entry of R102. -/
def entryBytes (seq : W32) (status flags gen : Nat) (tCommit : W64) (resultLen delta model : Nat) : Bytes :=
  leBytes 4 seq.toNat ++ leBytes 2 status ++ leBytes 1 flags ++ leBytes 1 gen ++ leBytes 8 tCommit.toNat ++
    leBytes 4 resultLen ++ leBytes 4 delta ++ leBytes 4 model ++ zeros 4

/-- No event goes to the slice: it is FREE or BOUND, or PORT_LOST and can be reached through no port. -/
def eventless (s : Slice) : Bool := s.state == .free || s.state == .bound || s.state == .portLost

/-- A slice event goes to lane 0's ring (R116, R117). DESIGN CHOICE (log 50): an event dropped takes no event sequence, an event's
t_accept_delta is 0, and an event of a PORT_LOST slice is not counted. -/
def writeEvent (d : Ctl) (i code resultLen model : Nat) : Ctl :=
  let s := getSlice d i
  if eventless s then d
  else if freeEntries d i 0 = 0 then
    modSlice d i fun s => { s with
      stats := { s.stats with eventsDropped := s.stats.eventsDropped + 1 }, eventOverflow := true }
  else
    let flags := 2 + (if s.eventOverflow then 16 else 0)
    let e := entryBytes s.eventSeq code flags s.gen.toNat (devNow d) resultLen 0 model
    let d := modSlice d i fun s => { s with eventSeq := s.eventSeq + 1, eventOverflow := false }
    ringWrite d i 0 false [] e

/-- The slices that exist and satisfy `p`, in ascending index. -/
def slicesWhere (d : Ctl) (p : Slice → Bool) : List Nat :=
  (d.slices.filter fun e => e.2.state != .free && p e.2).map Prod.fst

/-- `f` applied for each number of a list, in order. -/
def forEach (l : List Nat) (d : Ctl) (f : Ctl → Nat → Ctl) : Ctl := l.foldl f d

end Sys2Proof.Machine
end

