-- ==== Sys2Proof/Machine/Flags.lean ====
section
/-! DEFINITION. What a register field holds after a software write and a hardware update of the same PCLK cycle
(R14, R437, R438), and the output pins as a function of the state (R377, R468, R527, R528). -/

namespace Sys2Proof.Machine
open Sys2Proof

/-- The kinds of field the collision table of R438 tells apart. -/
inductive FieldKind where
  | rw | w1c | counter | goBit | faultCleared | hwStatus | readOnly
  deriving DecidableEq, Repr

/-- The field after a software write of `sw` (none: no software write) and a hardware update, over `k` bits. -/
def collide (kind : FieldKind) (k old : Nat) (sw : Option Nat) (hw : HwUpdate) : Nat :=
  match kind with
  | .rw => (sw.getD old) % 2 ^ k
  | .readOnly => old
  | .w1c =>
    let kept := match sw with | some v => old &&& (2 ^ k - 1 - v % 2 ^ k) | none => old
    match hw with
    | .set m => kept ||| m.toNat % 2 ^ k
    | _ => kept
  | .counter =>
    let base := (sw.getD old) % 2 ^ k
    match hw with
    | .inc n => satAdd k base n
    | _ => base
  | .goBit =>
    if sw = some 1 then 1
    else match hw with
      | .complete => 0
      | _ => old
  | .faultCleared =>
    match hw with
    | .faultClear => 0
    | _ => (sw.getD old) % 2 ^ k
  | .hwStatus =>
    match hw with
    | .value v => v.toNat % 2 ^ k
    | _ => (sw.getD old) % 2 ^ k

/-- Levels of an output pin; `released` is an open-drain output that does not sink. -/
inductive PinLevel where
  | z | low | high | released
  /-- Driven from its boundary scan cell (R533). -/
  | scan
  deriving DecidableEq, Repr

/-- The package's output pins. -/
structure Pins where
  faultN : PinLevel
  ready : PinLevel
  lantern : PinLevel
  alertN : PinLevel
  thermtripN : PinLevel
  ppsOut : PinLevel
  deriving DecidableEq, Repr

/-- Only one Reeve pair is in service (R373). -/
def singleReeve (d : Ctl) : Bool :=
  let up (p : PairState) : Bool := p == .active || p == .standby
  up d.reeve.pair0 != up d.reeve.pair1

/-- HRT_ALERT_STATUS as read: SINGLE_REEVE and CHARTER are set in every cycle in which their condition holds
(R504). -/
def alertStatus (d : Ctl) : W32 :=
  d.reeve.alert ||| (if singleReeve d then 0x80000 else 0) ||| (if d.pkg.copiesInvalid then 0x40000 else 0)

/-- ALERT_N is asserted while any bit of HRT_ALERT_STATUS is set (R377). -/
def alertPin (d : Ctl) : PinLevel := if alertStatus d = 0 then .released else .low

/-- PPS_OUT's driven level (R468). -/
def ppsPin (d : Ctl) : PinLevel := if d.time.ppsOut then .high else .low

/-- The outputs with the dies in reset or phase 1 not yet ended: high-impedance, but for a latched THERMTRIP_N (R527). -/
def undriven (d : Ctl) : Pins := ⟨.z, .z, .z, .z, if d.pkg.thermtrip then .low else .z, .z⟩

/-- Under THERMTRIP every output is low, unless phase 1 had not ended or PKG_RESET_N has asserted (R527, R528, R539). -/
def trippedPins (d : Ctl) : Pins :=
  if d.pkg.phase = 0 then undriven d else ⟨.low, .low, .low, .low, .low, .low⟩

/-- The output pins by package state: the table of R528; under PKG_RESET_N a scan instruction drives them (R533). -/
def pins (d : Ctl) : Pins :=
  if d.pkg.life = .off then ⟨.z, .z, .z, .z, .z, .z⟩
  else if !d.pkg.resetN && (d.pkg.jtag == .extest || d.pkg.jtag == .clamp) then ⟨.scan, .scan, .scan, .scan, .scan, .scan⟩
  else if !d.pkg.resetN && d.pkg.jtag == .highz then ⟨.z, .z, .z, .z, .z, .z⟩
  else if d.pkg.thermtrip then trippedPins d
  else match d.pkg.life with
    | .off | .aux | .inReset => undriven d
    | .selftest => if d.pkg.phase = 0 then undriven d else ⟨.high, .low, .low, alertPin d, .released, .low⟩
    | .lantern => ⟨.low, .low, .high, alertPin d, .released, .low⟩
    | .failed => if d.pkg.phase = 0 then undriven d else ⟨.low, .low, .low, alertPin d, .released, .low⟩
    | .operating =>
      if d.pkg.outOfService then ⟨.low, .low, .low, alertPin d, .released, ppsPin d⟩
      else if d.pkg.warm.isSome then ⟨.high, .low, .low, alertPin d, .released, ppsPin d⟩
      else ⟨.high, .high, .low, alertPin d, .released, ppsPin d⟩

end Sys2Proof.Machine
end

