-- ==== Sys2Proof/Machine/Layout.lean ====
section
/-! DEFINITION. The machine's fixed numbering: hamlets, cores, roads and cabling, endpoints, rack addresses, the
interleave of HBM channels and mirror places. -/

namespace Sys2Proof.Machine
open Sys2Proof

/-! ### Hamlets and crofts (01) -/

/-- Field and local hamlet of a package hamlet (R31). -/
def hamField (h : Nat) : Nat := h / 8

def hamLocal (h : Nat) : Nat := h % 8

/-- The physical crofts of a hamlet that are not out of service. -/
def goodCrofts (x : Hamlet) : List Nat := (List.range 13).filter fun c => !x.badCrofts.contains c

/-- The physical crofts in service, in logical order: the first 12 good ones (R29, R45). -/
def inService (x : Hamlet) : List Nat := (goodCrofts x).take 12

/-- Crofts in service, `n` of R45. -/
def croftCount (x : Hamlet) : Nat := (inService x).length

/-- The spare, physical croft 12, has taken over (R29). -/
def spareUsed (x : Hamlet) : Bool := (inService x).contains 12

/-- The physical croft of a logical croft. -/
def physCroft (x : Hamlet) (k : Nat) : Option Nat := (inService x)[k]?

/-- The logical croft of a physical croft in service. -/
def logCroft (x : Hamlet) (c : Nat) : Option Nat :=
  if (inService x).contains c then some ((inService x).idxOf c) else none

/-- Cores in service: 72 per croft (R45). -/
def coreCount (x : Hamlet) : Nat := 72 * croftCount x

/-- The croft map register (R508): four bits per logical croft, then the count, spare used, out of service. -/
def croftMap (x : Hamlet) : Nat :=
  ((List.range 12).foldl (fun a k => a + (physCroft x k).getD 15 * 16 ^ k) 0) +
    croftCount x * 2 ^ 48 + b2n (spareUsed x) * 2 ^ 52 + b2n x.outOfService * 2 ^ 53

/-- Logical core of a hamlet: 72 × logical croft + core index (R30). -/
def logicalCore (x : Hamlet) (croft core : Nat) : Option Nat := (logCroft x croft).map fun k => 72 * k + core

/-- The logical croft of a logical core. -/
def croftOfCore (core : Nat) : Nat := core / 72

/-! ### Bridges (R26) -/

/-- The Fields a transfer between two Fields passes, the ends included. -/
def fieldPath (a b : Nat) : List Nat :=
  if a = b then [a] else if (b + 4 - a) % 4 = 2 then [a, (a + 1) % 4, b] else [a, b]

/-- Bridge crossings between two Fields. -/
def crossings (a b : Nat) : Nat := (fieldPath a b).length - 1

/-! ### Roads (R205, R206) -/

/-- Peer offset of package `q` from `p`. -/
def peerOffset (p q : Nat) : Nat := (q + 32 - p) % 32

/-- Mesh road of copy `c` from package `p` to `q`. -/
def meshRoad (p q c : Nat) : Nat := 2 * (peerOffset p q - 1) + c

/-- A reserve road. -/
def isReserve (r : Nat) : Bool := decide (62 ≤ r)

/-- The tray neighbour p XOR 1. -/
def neighbour (p : Nat) : Nat := if p % 2 = 0 then p + 1 else p - 1

/-- The peer a road of package `p` is cabled to. -/
def roadPeer (p r : Nat) : Nat := if isReserve r then neighbour p else (p + r / 2 + 1) % 32

/-- The road number at the peer that road `r` meets. -/
def farRoadOf (r : Nat) : Nat := if isReserve r then r else 2 * (31 - (r / 2 + 1)) + r % 2

/-- The Field a road lies on. -/
def roadField (r : Nat) : Nat := r / 16

/-- The other mesh road of the pair. -/
def partnerRoad (r : Nat) : Nat := if r % 2 = 0 then r + 1 else r - 1

/-! ### Endpoints and rack addresses (R183, R208) -/

/-- The endpoint of a rack hamlet, and of a package's Hearth. -/
def endpointHamlet (rh : Nat) : Nat := rh

def endpointHearth (p : Nat) : Nat := 32768 + 32 * p

def endIsHearth (e : Nat) : Bool := bitOf e 15

/-- Package of an endpoint. -/
def endPkg (e : Nat) : Nat := bits e 9 5

/-- Package hamlet of an endpoint. -/
def endHamlet (e : Nat) : Nat := bits e 4 0

/-- Package, package hamlet and offset of a rack address. -/
def addrPkg (a : Nat) : Nat := bits a 52 48

def addrHamlet (a : Nat) : Nat := bits a 47 43

def addrOffset (a : Nat) : Nat := bits a 42 0

/-- Bits [63:53] are 0 (R183). -/
def addrValid (a : Nat) : Bool := decide (a < 2 ^ 53)

/-- The memory key of offset `x` in package hamlet `h`: rack address bits [47:0]. -/
def memKey (h x : Nat) : Nat := h * 2 ^ 43 + x

/-- The scratchpad alias (R184). -/
def aliasBase : Nat := 0x40000000000

/-- Size of the HBM window: 12 GiB, or 9 GiB after a channel retirement (R183). -/
def hbmSize (x : Hamlet) : Nat :=
  if (Tbl.vals x.channels).any (· == .retired) then 9 * 2 ^ 30 else 12 * 2 ^ 30

/-- Size of the scratchpad alias: 4 MiB per croft in service (R184). -/
def aliasSize (x : Hamlet) : Nat := croftCount x * 4 * 2 ^ 20

/-- The `n` bytes from offset `a` are mapped (R185). -/
def mapped (x : Hamlet) (a n : Nat) : Bool :=
  decide (a + n ≤ hbmSize x) || (decide (aliasBase ≤ a) && decide (a + n ≤ aliasBase + aliasSize x))

/-! ### Interleave and mirror (R189 to R191, R200) -/

/-- Field channel of a hamlet channel (R189). -/
def fieldChannel (h ch : Nat) : Nat := 4 * hamLocal h + ch

/-- Channel and in-channel address in the four-channel map (R190). -/
def fourMap (x : Nat) : Nat × Nat := (bits x 9 8, x / 1024 * 256 + x % 256)

/-- Position among the channels in service and in-channel address in the three-channel map (R191). -/
def threeMap (x : Nat) : Nat × Nat := (x / 256 % 3, x / 768 * 256 + x % 256)

/-- The state of hamlet channel `c`. -/
def chanState (x : Hamlet) (c : Nat) : ChannelState := Tbl.getD x.channels c .inService

/-- The hamlet channels in service, ascending. -/
def chansInService (x : Hamlet) : List Nat := (List.range 4).filter fun c => chanState x c == .inService

/-- A hamlet on the three-channel map (R188). -/
def threeChannel (x : Hamlet) : Bool := (List.range 4).any fun c => chanState x c == .retired

/-- The RETIRING channels of a hamlet become RETIRED; with two it is out of service until a full reset (R188, R203). -/
def closeChannels (x : Hamlet) : Hamlet :=
  let cs := Tbl.mapVal x.channels fun _ (y : ChannelState) => if y = .retiring then .retired else y
  let out := decide (2 ≤ ((Tbl.vals cs).filter (· == .retired)).length)
  { x with
    channels := cs, channelRetiring := none, channelWaiting := []
    outOfService := x.outOfService || out, hardOut := x.hardOut || out }

/-- The hamlet channel that serves an HBM offset. -/
def channelOf (x : Hamlet) (a : Nat) : Nat :=
  if threeChannel x then (chansInService x).getD (threeMap a).1 0 else (fourMap a).1

/-- First offset of the mirror half. -/
def mirrorBase : Nat := 0x180000000

/-- The offset of the mirror copy of the block at `x` (R200). -/
def mirrorOf (x : Nat) : Nat :=
  let y := x + mirrorBase
  if bitOf y 9 then y - 512 else y + 512

/-- Bits of HAM_CHAN_STATUS for channel states. -/
def chanCode : ChannelState → Nat
  | .inService => 0
  | .retiring => 1
  | .retired => 2

end Sys2Proof.Machine
end

