-- ==== Sys2Proof/Machine/Views.lean ====
section
/-! DEFINITION. What registers and the configuration mirror present (17): each value is computed from the state
it reports. -/

namespace Sys2Proof.Machine
open Sys2Proof

/-! ### Codes -/

def sliceCode : SliceState → Nat
  | .free => 0 | .bound => 1 | .active => 2 | .fenced => 3 | .frozen => 4 | .portLost => 5

def laneCode : LaneState → Nat
  | .disabled => 0 | .enabled => 1 | .fenced => 2 | .error => 3

def assignCode : AssignState → Nat
  | .unassigned => 0 | .assigned => 1 | .filling => 2 | .granted => 3 | .releasing => 4

def runCode : HamletRun → Nat
  | .running => 0 | .fencing => 1 | .draining => 2 | .squashing => 3 | .resetting => 4 | .restoring => 5
  | .paused => 6 | .outOfService => 7

def roadCode : RoadState → Nat
  | .down => 0 | .training => 1 | .up => 2 | .fenced => 3 | .mismatch => 4 | .disabled => 5

def routeCode : Route → Nat
  | .direct => 0 | .reserveDirect => 1 | .relaySrc => 2 | .relayDst => 3 | .unreachable => 4

def timeCode : TimeState → Nat
  | .unset => 0 | .acquiring => 1 | .locked => 2 | .holdover => 3 | .freerun => 4

def sourceCode : TimeSource → Nat
  | .none => 0 | .ptp => 1 | .pps => 2 | .leader => 3

def roleCode : TimeRole → Nat
  | .standalone => 0 | .leader => 1 | .backup => 2 | .follower => 3

def pairCode : PairState → Nat
  | .active => 0 | .standby => 1 | .selftest => 2 | .out => 3

def preemptCode : PreemptMode → Nat
  | .auto => 0 | .stileOnly => 1 | .killOnly => 2

def tenantCode : TenantState → Nat
  | .created => 1 | .claimed => 2 | .removing => 3

/-! ### Commands in hamlets (R141) -/

/-- The commands with a part in hamlet `h`. -/
def partsIn (d : Ctl) (h : Nat) : List (Nat × Cmd × Part) :=
  d.cmds.filterMap fun e => (Tbl.find? e.2.parts h).map fun p => (e.1, e.2, p)

/-- The commands of hamlet `h` in one of the given states. -/
def inStates (d : Ctl) (h : Nat) (l : List InstState) : List (Nat × Cmd × Part) :=
  (partsIn d h).filter fun e => l.contains e.2.2.state

/-- Commands QUEUED and RESERVING (R255, R508), the parked ones of R267 among them. -/
def queuedCount (d : Ctl) (h : Nat) : Nat := (inStates d h [.queued, .reserving, .parked]).length

/-- Every job on the package is lost, and no work of theirs goes on: a package fabric fault (R46). -/
def jobsLost (d : Ctl) : Bool := d.pkg.life == .failed

/-- Commands holding cores. -/
def boundCount (d : Ctl) (h : Nat) : Nat := (inStates d h [.bound]).length

/-- Logical cores bound in hamlet `h`. -/
def boundCores (d : Ctl) (h : Nat) : List Nat := (inStates d h [.bound]).flatMap fun e => e.2.2.cores

/-- Logical cores free to bind: in service and in no croft under reset (R400), ascending. -/
def idleCores (d : Ctl) (h : Nat) : List Nat :=
  let x := getHam d h
  let used := boundCores d h
  (List.range (coreCount x)).filter fun c =>
    !used.contains c && !(x.croftResets.any fun p => logCroft x p.1 == some (croftOfCore c))

/-! ### Tenants and shares -/

/-- STRICT_TIMING is in effect (R332). -/
def strictInEffect (d : Ctl) (t : Nat) : Bool :=
  ((Tbl.find? d.tenants t).map fun x => x.permitStrict).getD false &&
    d.slices.any fun e => e.2.state != .free && e.2.tenant == t && e.2.features.getLsbD 9

/-- The job slot of slice `i` (R386). -/
def jobOf (d : Ctl) (i : Nat) : Option (Nat × Job) := List.find? (fun e => e.2.slices.contains i) d.jobs

/-- Weight toward peer `q` for tenant index `t`: 16 unless set, 0 where no tenant (R221, R513). -/
def roadWeight (d : Ctl) (q t : Nat) : Nat :=
  if (Tbl.find? d.tenants t).isNone then 0
  else
    let p := getPeer d q
    match p.brownWeights with
    | some w => Tbl.getD w t 1
    | none => Tbl.getD p.weights t 16

/-! ### Configuration mirror (R511, R513) -/

/-- Slice table entry. -/
def sliceEntry (d : Ctl) (i : Nat) : Bytes :=
  let s := getSlice d i
  if s.state = .free then zeros 128
  else padTo 128 (leBytes 1 (sliceCode s.state) ++ leBytes 1 s.gen.toNat ++ leBytes 1 s.laneLimit ++
    leBytes 1 (b2n s.boundA + 2 * b2n s.boundB + 4 * portNum s.home + 8 * portNum s.cur) ++
    leBytes 1 s.tenant ++ leBytes 1 s.weight ++ leBytes 1 (preemptCode s.preempt) ++ leBytes 1 s.fastLimit ++
    leBytes 4 s.pasidA.toNat ++ leBytes 4 s.pasidB.toNat ++
    leBytes 2 s.vecBaseA ++ leBytes 2 s.vecCountA ++ leBytes 2 s.vecBaseB ++ leBytes 2 s.vecCountB ++
    leBytes 2 s.credits ++ leBytes 2 s.submit.rate ++ leBytes 2 s.submit.depth ++ leBytes 2 s.bulk.rate ++
    leBytes 4 s.bulk.depth ++
    leBytes 1 (((resvOf d i).map Prod.fst).getD 0xFF) ++ leBytes 1 (((jobOf d i).map Prod.fst).getD 0xFF) ++
    leBytes 1 (b2n s.arm.isSome + 2 * b2n (s.features.getLsbD 9) + 4 * b2n (s.features.getLsbD 10)) ++
    leBytes 1 0 ++
    leBytes 16 ((List.range 32).foldl (fun a h => a + Tbl.getD s.caps h 12 * 16 ^ h) 0) ++
    leBytes 4 s.incarnation.toNat)

/-- A non-negative rational rounded down. -/
def ratFloor (q : Rat) : Nat := q.num.toNat / q.den

/-- A non-negative rational rounded up. -/
def ratCeil (q : Rat) : Nat := (q.num.toNat + q.den - 1) / q.den

/-- Reservation table entry. -/
def resvEntry (d : Ctl) (n : Nat) : Bytes :=
  match Tbl.find? d.reservations n with
  | none => zeros 256
  | some r => padTo 256 (leBytes 1 1 ++ leBytes 1 r.cls ++ leBytes 1 (b2n r.reserved) ++
      leBytes 1 r.slices.length ++ leBytes 4 r.hamlets.toNat ++
      padTo 16 (r.slices.flatMap (leBytes 1)) ++ leBytes 1 r.tenant ++ leBytes 1 0 ++ leBytes 2 r.share ++
      ((List.range 40).flatMap fun k => leBytes 2 (Tbl.getD r.guarantees k 0)) ++
      ((List.range 40).flatMap fun k => leBytes 2 (ratFloor (Tbl.getD r.grants k 0))))

/-- HAM_ASSIGN_STATUS (R508). -/
def assignStatus (x : Hamlet) : Nat := assignCode x.assign + 256 * x.tenant

/-- HAM_CHAN_STATUS (R508). -/
def chanStatus (x : Hamlet) : Nat :=
  (List.range 4).foldl (fun a c => a + chanCode (chanState x c) * 4 ^ c) 0

/-- HAM_RWINw_BASE and _LIMIT (R508). -/
def winBase (x : Hamlet) (w : Nat) : Nat := (Tbl.getD x.windows w {}).base

def winLimit (x : Hamlet) (w : Nat) : Nat :=
  let v := Tbl.getD x.windows w {}
  v.limit + v.perm * 2 ^ 62

/-- Hamlet table entry; the entry of a hamlet no tenant holds is still its configuration (DEDUCED, log 55). -/
def hamEntry (d : Ctl) (h : Nat) : Bytes :=
  let x := getHam d h
  padTo 128 (leBytes 4 (assignStatus x) ++ leBytes 1 x.gen.toNat ++ leBytes 1 x.split ++
    leBytes 1 (b2n x.backfill + 2 * b2n x.reservedMode) ++ leBytes 1 (x.reservation.getD 0x3F) ++
    leBytes 2 x.stepWait ++ leBytes 1 (chanStatus x) ++ leBytes 1 0 ++ leBytes 8 (croftMap x) ++ zeros 4 ++
    (List.range 4).flatMap fun w => leBytes 8 (winBase x w) ++ leBytes 8 (winLimit x w))

/-- The Hearth tally blocks of tenant index `t`. -/
def tenantBlocks (d : Ctl) (t : Nat) : List Nat := (d.tallyBlocks.filter fun e => e.2 == t).map Prod.fst

/-- Tenant table entry. -/
def tenantEntry (d : Ctl) (t : Nat) : Bytes :=
  match Tbl.find? d.tenants t with
  | none => zeros 64
  | some x => padTo 64 (leBytes 2 x.ident.toNat ++ leBytes 2 x.handle.toNat ++ leBytes 1 (tenantCode x.state) ++
      leBytes 1 (b2n x.permitStrict + 2 * b2n x.permitMigration) ++
      leBytes 1 (b2n (strictInEffect d t) + 2 * b2n x.saltMismatch + 4 * b2n x.joined) ++ leBytes 1 0 ++
      leBytes 4 (ofBitList (tenantHamlets d t)) ++ leBytes 4 x.wayDesc.toNat ++ leBytes 4 x.wayAtc.toNat ++
      leBytes 4 x.wayLane.toNat ++ leBytes 4 (ofBitList (tenantBlocks d t)))

/-- Job table entry. -/
def jobEntry (d : Ctl) (n : Nat) : Bytes :=
  match Tbl.find? d.jobs n with
  | none => zeros 128
  | some j => padTo 128 (leBytes 2 j.ident ++ leBytes 1 j.gen ++ leBytes 1 (b2n j.abort) ++
      leBytes 32 (ofBitList j.slices) ++ leBytes 32 (ofBitList j.dead))

/-- An almanac entry in its 8-byte form (R248). -/
def almEntry (e : AlmanacEntry) : Bytes := leBytes 4 e.length ++ leBytes 1 e.kind ++ leBytes 1 e.slice ++ zeros 2

/-- Almanac region of a hamlet. -/
def almanacEntry (d : Ctl) (h : Nat) : Bytes :=
  let x := getHam d h
  let p := x.pendingAlmanac.getD {}
  padTo 512 (leBytes 8 x.almanac.entries.length ++ leBytes 8 x.almanac.tAct.toNat ++
      x.almanac.entries.flatMap almEntry) ++
    padTo 512 (leBytes 1 p.entries.length ++ leBytes 1 (b2n x.pendingAlmanac.isSome) ++ zeros 6 ++
      leBytes 8 p.tAct.toNat ++ p.entries.flatMap almEntry)

/-- RD_TENANT_WEIGHT of a peer; the own package's entry reads 0. -/
def weightEntry (d : Ctl) (q : Nat) : Bytes :=
  if q = pkgNum d then zeros 32 else (List.range 32).flatMap fun t => leBytes 1 (roadWeight d q t)

/-- RD_ROUTE of a peer; the own package's entry reads 0 (DESIGN CHOICE, log 55). -/
def routeEntry (d : Ctl) (q : Nat) : Bytes :=
  let p := getPeer d q
  if q = pkgNum d then zeros 4
  else leBytes 4 (routeCode p.route + 256 * p.via + 65536 * b2n p.brownWeights.isSome)

/-- Package settings. -/
def settingsEntry (d : Ctl) : Bytes :=
  let k := d.pkg
  let t := d.time
  let lim (l : ResetLimit) : Bytes := leBytes 1 l.limit ++ leBytes 4 l.window
  padTo 256 (leBytes 1 (b2n k.policyPackage) ++ leBytes 1 k.hangMult ++ leBytes 2 k.fenceDeadline ++
    lim k.croftLimit ++ lim k.hamletLimit ++ lim k.packageLimit ++ leBytes 1 0 ++
    leBytes 1 (roleCode t.role) ++ leBytes 1 t.config ++ leBytes 1 t.leader ++ leBytes 1 (t.backup.getD 0xFF) ++
    leBytes 4 t.stepThreshold ++ leBytes 4 t.holdoverLimit ++
    leBytes 1 (b2n t.slewOnly + 2 * b2n t.ppsOutEn) ++ leBytes 1 t.domain.toNat ++ leBytes 2 t.sdoId.toNat ++
    leBytes 1 (b2n t.peerDelay) ++ leBytes 1 t.announceTimeout ++ leBytes 1 (b2n t.udp))

/-- The mirror's 32-bit word at a BAR2 offset (R511). -/
def mirrorWord (d : Ctl) (off : Nat) : W32 :=
  let at_ (base size : Nat) (f : Nat → Bytes) : W32 :=
    BitVec.ofNat 32 (fld (f ((off - base) / size)) ((off - base) % size) 4)
  if off < 0x40000 then 0
  else if off < 0x48000 then at_ 0x40000 128 (sliceEntry d)
  else if off < 0x4C000 then at_ 0x48000 256 (resvEntry d)
  else if off < 0x4D000 then at_ 0x4C000 128 (hamEntry d)
  else if off < 0x4D800 then at_ 0x4D000 64 (tenantEntry d)
  else if off < 0x4E000 then
    at_ 0x4D800 4 fun k => leBytes 2 (Tbl.getD d.owners (2 * k) 0).toNat ++ leBytes 2 (Tbl.getD d.owners (2 * k + 1) 0).toNat
  else if off < 0x50000 then at_ 0x4E000 128 (jobEntry d)
  else if off < 0x58000 then at_ 0x50000 1024 (almanacEntry d)
  else if off < 0x58400 then at_ 0x58000 32 (weightEntry d)
  else if off < 0x58480 then at_ 0x58400 4 (routeEntry d)
  else if off < 0x584A0 then
    at_ 0x58480 4 fun k => (List.range 4).flatMap fun i =>
      leBytes 1 (((Tbl.find? d.tallyBlocks (4 * k + i)).map (· + 1)).getD 0)
  else if off < 0x58500 then 0
  else if off < 0x58600 then at_ 0x58500 256 fun _ => settingsEntry d
  else 0

/-- The word offsets within an entry at which two versions of it differ. -/
def entryDiff (base : Nat) (a b : Bytes) : List Nat :=
  if a = b then [] else
    (List.range (max a.length b.length / 4)).filterMap fun k =>
      if sub a (4 * k) 4 = sub b (4 * k) 4 then none else some (base + 4 * k)

/-- Keys of two tables together. -/
def keysOf {α : Type} (s t : Tbl α) : List Nat := Tbl.keys s ++ (Tbl.keys t).filter fun k => !(Tbl.keys s).contains k

/-- The mirror words that differ between two states: only listed entries can. -/
def mirrorDiff (a b : Ctl) : List Nat :=
  ((keysOf a.slices b.slices).flatMap fun k => entryDiff (0x40000 + 128 * k) (sliceEntry a k) (sliceEntry b k)) ++
  ((keysOf a.reservations b.reservations).flatMap fun k =>
    entryDiff (0x48000 + 256 * k) (resvEntry a k) (resvEntry b k)) ++
  ((keysOf a.hamlets b.hamlets).flatMap fun k => entryDiff (0x4C000 + 128 * k) (hamEntry a k) (hamEntry b k)) ++
  ((keysOf a.tenants b.tenants).flatMap fun k => entryDiff (0x4D000 + 64 * k) (tenantEntry a k) (tenantEntry b k)) ++
  ((keysOf a.owners b.owners).filterMap fun k =>
    if Tbl.getD a.owners k 0 = Tbl.getD b.owners k 0 then none else some (0x4D800 + 4 * (k / 2))) ++
  ((keysOf a.jobs b.jobs).flatMap fun k => entryDiff (0x4E000 + 128 * k) (jobEntry a k) (jobEntry b k)) ++
  ((keysOf a.hamlets b.hamlets).flatMap fun k =>
    entryDiff (0x50000 + 1024 * k) (almanacEntry a k) (almanacEntry b k)) ++
  ((List.range 32).flatMap fun k => entryDiff (0x58000 + 32 * k) (weightEntry a k) (weightEntry b k)) ++
  ((keysOf a.peers b.peers).flatMap fun k => entryDiff (0x58400 + 4 * k) (routeEntry a k) (routeEntry b k)) ++
  ((keysOf a.tallyBlocks b.tallyBlocks).filterMap fun k =>
    if Tbl.find? a.tallyBlocks k = Tbl.find? b.tallyBlocks k then none else some (0x58480 + 4 * (k / 4))) ++
  entryDiff 0x58500 (settingsEntry a) (settingsEntry b)

/-! ### Ledger (R448 to R450) -/

/-- Base and limit of ledger range `n` (R448, R505). -/
def ldgBase (l : Ledger) (n : Nat) : W32 := Tbl.getD l.base n (if n = 0 then 0x40000 else 0x7FFFC)

def ldgLimit (l : Ledger) (n : Nat) : W32 := Tbl.getD l.limit n (if n = 0 then 0x7FFFC else 0x40000)

/-- A BAR2 offset lies in a declared range. -/
def inRange (l : Ledger) (off : Nat) : Bool :=
  (List.range 16).any fun n => decide ((ldgBase l n).toNat ≤ off) && decide (off ≤ (ldgLimit l n).toNat)

/-- The CRC of one pass: ranges 0 to 15, each in ascending offset (R448). -/
def ledgerCrc (d : Ctl) : W32 :=
  let words (n : Nat) : List Nat :=
    let b := (ldgBase d.ledger n).toNat
    let l := (ldgLimit d.ledger n).toNat
    if l < b then [] else (List.range ((l - b) / 4 + 1)).map fun k => b + 4 * k
  crc32c ((List.range 16).flatMap fun n => (words n).flatMap fun o => leBytes 4 (mirrorWord d o).toNat)

/-- LDG_CFG_SEQ takes a sequence: a CLEAN ledger becomes DIRTY (R449, R450). -/
def setCfgSeq (d : Ctl) (j : Nat) : Ctl :=
  { d with ledger := { d.ledger with cfgSeq := j, state := if d.ledger.state = 1 then 2 else d.ledger.state } }

/-- A journal step `j` took the state from `a` to `b`: HRT_MIRROR_SEQ where it changed a mirror word, LDG_CFG_SEQ
where it changed one within a declared range (R449, R503, R512). -/
def stamp (j : Nat) (a b : Ctl) : Ctl :=
  let diff := mirrorDiff a b
  let c := if diff.isEmpty then b else modReeve b fun r => { r with mirrorSeq := j }
  if diff.any (inRange b.ledger) then setCfgSeq c j else c

/-- LDG_STATUS (R505). -/
def ldgStatus (l : Ledger) : Nat :=
  l.state + 4 * b2n l.mismatch + 8 * b2n l.stale + 16 * b2n l.capturing

/-! ### Registers -/

/-- HRT_SELFTEST [3:0] (R503). -/
def lifeCode (k : Package) : Nat :=
  if k.outOfService then 3 else match k.life with
    | .operating => 1
    | .lantern => 2
    | _ => 0

/-- HRT_SELFTEST (R503): the last completed phase and the failure code. -/
def selftestWord (k : Package) : Nat := lifeCode k + 16 * k.phase + 256 * k.code.toNat

/-- Package resets counted in the window of R407, from the reset history (R408). -/
def pkgResetCount (d : Ctl) : Nat :=
  (d.pkg.history.filter fun r => r.counted && decide (d.pkg.countFrom ≤ r.seq) && r.time != 0 &&
    decide ((devNow d - r.time).toNat < d.pkg.packageLimit.window * 1000000000)).length

/-- Hamlet resets counted in the window of R407. -/
def hamResetCount (d : Ctl) (h : Nat) : Nat :=
  (within d (sec d.pkg.hamletLimit.window) (getHam d h).resetTimes).length

/-- HRT_ID as a port reads it (R43, R503). -/
def hrtId (d : Ctl) (src : RegSource) : Nat :=
  (match src with | .port .hb => 1 | _ => 0) + 4 * pkgNum d + 128 * d.pkg.tray + 1024 * d.pkg.slot + 0xB00000

/-- HRT_REEVE_STATUS (R503). -/
def reeveStatus (r : Reeve) : Nat :=
  r.active + 4 * pairCode r.pair0 + 16 * pairCode r.pair1 + 256 * r.takeovers

/-- TM_STATUS (R506). -/
def tmStatus (t : TimeUnit) : Nat :=
  timeCode t.state + 16 * sourceCode t.source + 256 * t.steps.toNat + 65536 * b2n t.ppsValid

/-- TM_ROLE (R506). -/
def tmRole (t : TimeUnit) : Nat :=
  roleCode t.role + 4 * t.leader + (match t.backup with | some b => 128 * b + 4096 | none => 0)

/-- FLD_STATUS of Field `f` (R507): a bridge is named by its index in `bridgeBad`, 0 to 3 to the Hearth, 4 to 7 to
the next Field, 8 to 11 the Field's network. -/
def fldStatus (d : Ctl) (f : Nat) : Nat :=
  let ok (k : Nat) : Nat := b2n (!d.pkg.bridgeBad.contains k)
  let n := ((List.range 8).filter fun l => !(getHam d (8 * f + l)).outOfService).length
  ok f + 2 * ok (4 + f) + 4 * ok (8 + f) + 256 * n

/-- HAM_ALMANAC_STATUS (R508). -/
def almanacStatus (x : Hamlet) : Nat :=
  x.entryInForce + 64 * b2n x.almanac.entries.isEmpty + 128 * b2n x.pendingAlmanac.isSome

/-- Road `r` carries relayed traffic (R233, R509): a relayed route of this package takes it, or a relayed message waits on it.
DEDUCED (log 55). -/
def relaysOn (d : Ctl) (r : Nat) : Bool :=
  (getRoad d r).state == .up && (((getRoad d r).waiting.any fun e => e.msg.relayed) || d.peers.any fun e => match e.2.route with
    | .relaySrc => isReserve r && (r == 62 || (getRoad d 62).state != .up)
    | .relayDst => !isReserve r && roadPeer (pkgNum d) r == neighbour e.1
    | _ => false)

/-- RD_STATUS (R509). -/
def rdStatus (d : Ctl) (r : Nat) : Nat :=
  let x := getRoad d r
  roadCode x.state + 16 * x.farPkg + 1024 * x.farRoad + 65536 * x.farGen.toNat +
    2 ^ 24 * b2n (isReserve r) + 2 ^ 25 * b2n (relaysOn d r)

/-- HRT_MBX_STATUS (R422). -/
def mbxStatus (d : Ctl) (m : Mailbox) : Nat :=
  b2n (m.state != .idle || d.reeve.takeover) + 2 * b2n (m.state == .responded) + 4 * b2n m.dropped +
    8 * b2n m.ovf + 16 * b2n d.reeve.takeover

/-- The value of a 64-bit register pair whose _LO lies at a BAR2 offset (R496, R503 to R509). -/
def pairAt (d : Ctl) (off : Nat) : Option W64 :=
  if off = 0x008 then some Config.serial
  else if off = 0x010 then some d.reeve.bootNonce
  else if off = 0x048 then some d.reeve.tmrCorr
  else if off = 0x050 then some d.reeve.faultLost
  else if off = 0x060 then some d.reeve.msgDrops
  else if off = 0x068 then some d.reeve.detailLost
  else if off = 0x4008 then some (devNow d)
  else if off = 0x4010 then some (BitVec.ofNat 64 (nowNs d))
  else if off = 0x4020 then some d.time.ppsGlitch
  else if off = 0x4030 then some d.time.gmId
  else if 0x10000 ≤ off ∧ off < 0x20000 ∧ off % 8 = 0 then
    let x := getHam d ((off - 0x10000) / 0x800)
    let o := off % 0x800
    if o = 0x008 then some (BitVec.ofNat 64 (croftMap x))
    else if o = 0x028 then some x.entryStart
    else if o = 0x040 then some x.eccCe
    else if o = 0x048 then some x.eccUe
    else if o = 0x050 then some x.eccLink
    else if o = 0x058 then some x.commitDiscards
    else if o = 0x060 then some x.staleRsp
    else if 0x080 ≤ o ∧ o < 0x0C0 then
      some (BitVec.ofNat 64 (if o % 16 = 0 then winBase x ((o - 0x80) / 16) else winLimit x ((o - 0x80) / 16)))
    else none
  else if 0x20000 ≤ off ∧ off < 0x30000 ∧ off % 8 = 0 then
    let o := off % 0x400
    if 0x008 ≤ o ∧ o ≤ 0x050 then some (Tbl.getD (getRoad d ((off - 0x20000) / 0x400)).counters (o / 8 - 1) 0)
    else none
  else if 0x30000 ≤ off ∧ off < 0x31000 ∧ off % 0x400 = 0x010 then
    some (Tbl.getD d.pkg.bridgeRetry ((off - 0x30000) / 0x400) 0)
  else none

/-- A 32-bit register of the Hearth block. -/
def hearthReg (d : Ctl) (src : RegSource) (off : Nat) : Nat :=
  if off = 0x000 then hrtId d src
  else if off = 0x020 then selftestWord d.pkg
  else if off = 0x024 then b2n d.pkg.latch + 256 * d.pkg.latchCode.toNat
  else if off = 0x030 then (alertStatus d).toNat
  else if off = 0x034 then d.reeve.pfIrqEn.toNat
  else if off = 0x038 then d.reeve.regErr.toNat
  else if off = 0x040 then b2n d.pkg.policyPackage
  else if off = 0x044 then reeveStatus d.reeve
  else if off = 0x058 then min 15 (pkgResetCount d)
  else if off = 0x070 then d.reeve.mirrorSeq
  else 0

/-- A register of a PF mailbox block (R422). -/
def mbxReg (d : Ctl) (m : Mailbox) (o : Nat) : Nat :=
  if o = 0x000 then b2n (m.state == .submitted)
  else if o = 0x004 then mbxStatus d m
  else if o = 0x008 then m.opcode.toNat + 65536 * m.argLen
  else if o = 0x00C then m.cookie.toNat
  else if o = 0x010 then m.result.toNat + 65536 * m.rsp.length
  else if o = 0x014 then m.jseq
  else if o = 0x018 then m.rcookie.toNat
  else if o = 0x020 then m.tail
  else if o = 0x024 then m.head
  else if 0x100 ≤ o ∧ o < 0x200 then
    leNat ((List.range 4).map fun k => Tbl.getD m.arg (o - 0x100 + k) 0)
  else if 0x200 ≤ o ∧ o < 0x300 then fld m.rsp (o - 0x200) 4
  else if 0x400 ≤ o ∧ o < 0x600 then fld (Tbl.getD m.ring ((o - 0x400) / 16) []) (o % 16) 4
  else 0

/-- A register of a wide mailbox block (R445). -/
def wideReg (w : WideMbx) (o : Nat) : Nat :=
  if o = 0x000 then b2n w.req + 256 * w.selector.toNat + 65536 * w.index.toNat
  else if o = 0x004 then b2n w.valid + 2 * b2n w.badSel + 256 * w.words.length
  else if 0x100 ≤ o ∧ o < 0x200 then (w.words.getD ((o - 0x100) / 4) 0).toNat
  else 0

/-- A register of the ledger block (R505). -/
def ledgerReg (l : Ledger) (o : Nat) : Nat :=
  if o = 0x000 then ldgStatus l
  else if o = 0x004 then l.current.toNat
  else if o = 0x008 then l.ref.toNat
  else if o = 0x00C then l.cfgSeq
  else if o = 0x010 then l.commitSeq.toNat
  else if 0x040 ≤ o ∧ o < 0x0C0 then
    (if o % 8 = 0 then ldgBase l ((o - 0x40) / 8) else ldgLimit l ((o - 0x40) / 8)).toNat
  else 0

/-- A 32-bit register of the time block (R506). -/
def timeReg (t : TimeUnit) (o : Nat) : Nat :=
  if o = 0x000 then tmStatus t
  else if o = 0x018 then (BitVec.ofInt 32 t.asym).toNat
  else if o = 0x01C then t.utcOffset.toNat + 65536 * b2n t.utcValid
  else if o = 0x028 then tmRole t
  else 0

/-- A 32-bit register of a hamlet block (R508). -/
def hamReg (d : Ctl) (h o : Nat) : Nat :=
  let x := getHam d h
  if o = 0x000 then assignStatus x
  else if o = 0x004 then x.gen.toNat
  else if o = 0x010 then chanStatus x
  else if o = 0x014 then x.split
  else if o = 0x018 then b2n x.reservedMode + 256 * x.reservation.getD 0x3F
  else if o = 0x01C then b2n x.backfill
  else if o = 0x020 then x.stepWait
  else if o = 0x024 then almanacStatus x
  else if o = 0x030 then runCode (if x.outOfService then .outOfService else x.run)
  else if o = 0x034 then min 15 (hamResetCount d h)
  else if o = 0x038 then
    queuedCount d h + 256 * min 255 (boundCount d h) + 65536 * (idleCores d h).length
  else 0

/-- A 32-bit register of a Field block (R507). -/
def fldReg (d : Ctl) (f o : Nat) : Nat :=
  if o = 0x000 then fldStatus d f
  else if o = 0x004 then Tbl.getD d.pkg.avs f 750
  else if o = 0x008 then (BitVec.ofInt 16 (Tbl.getD d.pkg.temps f 0)).toNat
  else 0

/-- The blocks that stay readable in lantern state (R499). -/
def lanternReadable (off : Nat) : Bool := decide (off < 0x10000)

/-- The wide mailbox of a source: its port's, or the Reeve's own (R445). -/
def getWide (d : Ctl) : RegSource → WideMbx
  | .port p => (getPort d p).wide
  | .reeve => d.reeve.wide

/-- The PF mailbox a source sees: that of its port; the Reeve has none (R422). -/
def mailboxOf (d : Ctl) : RegSource → Option Mailbox
  | .port p => some (getPort d p).mbx
  | .reeve => none

/-- The live 32-bit word at a 4-byte aligned BAR2 offset. -/
def bar2Word (d : Ctl) (src : RegSource) (off : Nat) : W32 :=
  if d.pkg.life = .lantern ∧ !lanternReadable off then 0
  else match pairAt d (off - off % 8) with
    | some v => if off % 8 = 0 then v.extractLsb' 0 32 else v.extractLsb' 32 32
    | none =>
      BitVec.ofNat 32 <|
        if off < 0x1000 then hearthReg d src off
        else if off < 0x1800 then ((mailboxOf d src).map fun m => mbxReg d m (off - 0x1000)).getD 0
        else if 0x2000 ≤ off ∧ off < 0x2200 then wideReg (getWide d src) (off - 0x2000)
        else if 0x3000 ≤ off ∧ off < 0x3100 then ledgerReg d.ledger (off - 0x3000)
        else if 0x4000 ≤ off ∧ off < 0x4100 then timeReg d.time (off - 0x4000)
        else if 0x10000 ≤ off ∧ off < 0x20000 then hamReg d ((off - 0x10000) / 0x800) (off % 0x800)
        else if 0x20000 ≤ off ∧ off < 0x30000 then
          (if off % 0x400 = 0 then rdStatus d ((off - 0x20000) / 0x400) else 0)
        else if 0x30000 ≤ off ∧ off < 0x31000 then fldReg d ((off - 0x30000) / 0x400) (off % 0x400)
        else if 0x40000 ≤ off ∧ off < 0x80000 then (mirrorWord d off).toNat
        else 0

/-! ### Lane windows (R62, R500) -/

/-- Credits held on a slice: accepted submissions not yet bound (R272). -/
def creditsHeld (d : Ctl) (i : Nat) : Nat := (d.cmds.filter fun e => e.2.slice == i && e.2.credit).length

/-- SLICE_BUSY: the slice has no free credit (R64, R272). -/
def sliceBusy (d : Ctl) (i : Nat) : Bool := decide ((getSlice d i).credits ≤ creditsHeld d i)

/-- Free entries a fetch needs: 1, on lane 0 17 (R69, R117). -/
def cqFull (d : Ctl) (i l : Nat) : Bool :=
  decide (freeEntries d i l < (if l = 0 then 17 else 1))

/-- LN_STATUS (R62, R500). -/
def lnStatus (d : Ctl) (i l : Nat) : Nat :=
  let s := getSlice d i
  let ln := getLane d i l
  if ln.state = .disabled then 256 * s.gen.toNat
  else
    let taken := (List.range 3).foldl (fun a k => a + b2n (Tbl.getD ln.slots k {}).taken * 2 ^ k) 0
    laneCode ln.state + 4 * b2n (cqFull d i l) + 8 * b2n (sliceBusy d i) + 16 * taken +
      256 * s.gen.toNat + 65536 * ln.fetchIdx

/-- Offered features (R83). -/
def featuresOffered : W64 := 0xFFF

/-- A lane window answers: its slice is not FREE and the lane is below the limit (R61). -/
def windowLive (d : Ctl) (i l : Nat) : Bool :=
  (getSlice d i).state != .free && decide (l < (getSlice d i).laneLimit)

/-- The 64-bit pairs of a lane window. -/
def lanePair (d : Ctl) (i off : Nat) : Option W64 :=
  if off = 0x048 then some featuresOffered
  else if off = 0x050 then some (getSlice d i).features
  else if off = 0x060 then some (devNow d)
  else none

/-- The live 32-bit word of a lane window; 0 where it does not answer (R61, R62, R500). -/
def laneWord (d : Ctl) (i l off : Nat) : W32 :=
  if !windowLive d i l || d.pkg.life == .lantern then 0
  else
    let ln := getLane d i l
    let dis := decide (ln.state = .disabled)
    match lanePair d i (off - off % 8) with
    | some v => if off % 8 = 0 then v.extractLsb' 0 32 else v.extractLsb' 32 32
    | none =>
      if off = 0x008 then (if dis then 0 else BitVec.ofNat 32 ln.cqHead)
      else if off = 0x010 then BitVec.ofNat 32 (lnStatus d i l)
      else if off = 0x018 then (if dis then 0 else ln.err.setWidth 32)
      else if off = 0x020 then (if dis then 0 else ln.irqCtl)
      else if off = 0x028 then (if dis then 0 else ln.pcDrops)
      else if off = 0x040 then 0x102
      else 0

end Sys2Proof.Machine
end

