-- ==== Sys2Proof/Machine/Orders.lean ====
section
/-! DEFINITION. Orders: the command catalogue, the journal, arrival with its checks and precedence, waiting, and the
answer to every channel (14, 17). -/

namespace Sys2Proof.Machine
open Sys2Proof

/-! ### Catalogue (R518) -/

/-- A row of the command catalogue. -/
structure CatRow where
  opcode : Nat
  /-- D, or C/D when the arguments withdraw, free or clear. -/
  destructive : Bool
  async : Bool
  fm : Bool
  tc : Bool
  pf : Bool
  lantern : Bool
  deriving DecidableEq, Repr

def catReports : List CatRow :=
  [⟨0x0001, false, false, true, true, true, true⟩, ⟨0x0002, false, false, true, true, true, true⟩,
   ⟨0x0003, false, false, true, true, true, true⟩, ⟨0x0004, false, false, true, true, true, false⟩,
   ⟨0x0005, false, false, false, false, true, false⟩, ⟨0x0006, false, false, true, false, true, false⟩,
   ⟨0x0007, false, false, true, true, true, false⟩, ⟨0x0008, false, false, true, false, true, false⟩]

def catTenants : List CatRow :=
  [⟨0x0100, false, false, true, false, true, false⟩, ⟨0x0101, true, true, true, false, true, false⟩,
   ⟨0x0102, false, false, true, false, true, false⟩, ⟨0x0103, false, false, true, false, true, false⟩,
   ⟨0x0104, true, true, true, false, true, false⟩, ⟨0x0105, true, true, true, false, true, false⟩,
   ⟨0x0106, false, false, true, false, true, false⟩, ⟨0x0107, false, false, true, false, false, false⟩,
   ⟨0x0108, false, false, true, false, true, false⟩, ⟨0x0109, false, false, true, false, true, false⟩]

def catSlices : List CatRow :=
  [⟨0x0200, false, false, true, false, true, false⟩, ⟨0x0201, true, true, true, false, true, false⟩,
   ⟨0x0202, true, true, true, false, true, false⟩, ⟨0x0203, false, false, true, false, true, false⟩,
   ⟨0x0204, false, false, true, false, true, false⟩, ⟨0x0205, false, false, true, false, true, false⟩,
   ⟨0x0300, false, false, true, false, true, false⟩, ⟨0x0301, false, false, true, false, true, false⟩,
   ⟨0x0302, true, false, true, false, true, false⟩, ⟨0x0303, false, false, true, false, true, false⟩,
   ⟨0x0400, false, false, true, false, true, false⟩, ⟨0x0401, true, false, true, false, true, false⟩,
   ⟨0x0402, false, false, true, false, true, false⟩, ⟨0x0500, false, false, true, false, true, false⟩,
   ⟨0x0501, false, false, true, false, true, false⟩, ⟨0x0502, true, false, true, false, true, false⟩]

def catRecovery : List CatRow :=
  [⟨0x0600, false, false, true, false, true, false⟩, ⟨0x0601, false, false, true, false, true, false⟩,
   ⟨0x0602, true, true, true, true, true, false⟩, ⟨0x0603, false, true, true, false, true, false⟩,
   ⟨0x0604, false, false, true, false, false, false⟩, ⟨0x0605, true, false, true, false, false, false⟩,
   ⟨0x0606, true, false, true, false, false, false⟩, ⟨0x0700, false, true, true, false, true, false⟩,
   ⟨0x0701, false, true, true, false, true, false⟩, ⟨0x0702, false, true, true, false, true, false⟩,
   ⟨0x0703, false, false, true, false, true, false⟩, ⟨0x0800, false, false, true, true, true, true⟩,
   ⟨0x0801, false, true, true, true, true, true⟩, ⟨0x0802, false, true, true, false, true, false⟩,
   ⟨0x0803, false, false, true, false, true, false⟩, ⟨0x0804, true, true, true, true, true, true⟩,
   ⟨0x0805, false, false, true, false, true, false⟩]

/-- The command catalogue of R518. -/
def catalogue : List CatRow := catReports ++ catTenants ++ catSlices ++ catRecovery

def catRow (op : Nat) : Option CatRow := catalogue.find? fun r => r.opcode == op

/-- A C/D command's arguments withdraw, free or clear (R517). -/
def withdraws (op : Nat) (args : Bytes) : Bool :=
  (op == 0x0102 && fld args 3 1 != 0) || (op == 0x0107 && fld args 2 2 == 0) || (op == 0x0109 && fld args 2 1 == 1)

/-- The order is destructive (R434, R517). -/
def isDestructive (op : Nat) (args : Bytes) : Bool :=
  ((catRow op).map fun r => r.destructive).getD false || withdraws op args

/-- MB_SLICE_RESET, MB_SLICE_DESTROY, MB_HAMLET_RESET, MB_HAMLET_RELEASE, MB_TENANT_REMOVE, MB_PKG_RESET (R435). -/
def isFencing (op : Nat) : Bool := [0x0202, 0x0201, 0x0105, 0x0104, 0x0101, 0x0602].contains op

/-- The master is permitted to issue the command (R518): codes 1 and 2 F, 3 T, 4 and 5 P. -/
def permitted (r : CatRow) (master : Nat) : Bool :=
  if master = 1 ∨ master = 2 then r.fm else if master = 3 then r.tc
  else if master = 4 ∨ master = 5 then r.pf else false

/-- The primary object of an order (R421, R518). -/
def orderObj (op : Nat) (a : Bytes) : Obj :=
  if [0x0100, 0x0101, 0x0102, 0x0103, 0x0104, 0x0108, 0x0109].contains op then .tenant (fld a 0 2)
  else if [0x0105, 0x0106, 0x0300].contains op then .hamlet (fld a 0 1)
  else if [0x0008, 0x0200, 0x0201, 0x0202, 0x0203, 0x0204, 0x0205, 0x0700, 0x0701, 0x0702, 0x0703].contains op then
    .slice (fld a 0 1)
  else if [0x0301, 0x0302, 0x0303].contains op then .reservation (fld a 0 1)
  else if [0x0400, 0x0401].contains op then .road (fld a 0 1)
  else if [0x0604, 0x0605, 0x0606].contains op then .job (fld a 0 2)
  else if op = 0x0603 then (if fld a 0 1 = 0 then .hamlet (fld a 1 1) else .package)
  else .package

/-- The identity of the tenant a tenant's object belongs to. -/
def objTenant (d : Ctl) : Obj → Option Nat
  | .tenant t => some t
  | .hamlet h =>
    let x := getHam d h
    if x.assign = .unassigned then none else (Tbl.find? d.tenants x.tenant).map fun t => t.ident.toNat
  | .slice s =>
    let x := getSlice d s
    if x.state = .free then none else (Tbl.find? d.tenants x.tenant).map fun t => t.ident.toNat
  | .reservation n =>
    (Tbl.find? d.reservations n).bind fun r => (Tbl.find? d.tenants r.tenant).map fun t => t.ident.toNat
  | _ => none

/-- Object `a` is `b` or contains it (R421). -/
def contains (d : Ctl) (a b : Obj) : Bool :=
  a == b || (match a with
    | .package => true
    | .tenant t => objTenant d b == some t
    | _ => false)

/-- Two orders meet at one object (R421, R434). -/
def meets (d : Ctl) (a b : Obj) : Bool := contains d a b || contains d b a

/-! ### Journal (R420) -/

/-- The MCLK cycle, 750 MHz. -/
def mclk (d : Ctl) : Nat := now d * 3 / 2 ^ 34

/-- The sequence after `j`: it skips 0 on wrap. -/
def nextSeq (j : Nat) : Nat := if (j + 1) % 2 ^ 32 = 0 then 1 else (j + 1) % 2 ^ 32

/-- Drops the oldest DONE entry once more than 8,192 are held. -/
def pruneJournal (t : Tbl JEntry) : Tbl JEntry :=
  if t.length ≤ 8192 then t
  else match List.find? (fun e => e.2.state == .done) t with
    | some e => Tbl.erase t e.1
    | none => t

/-- A new journal entry under the next sequence. -/
def enter (d : Ctl) (e : JEntry) : Ctl :=
  modReeve d fun r => { r with
    journal := Tbl.set (pruneJournal r.journal) r.nextJseq e, nextJseq := nextSeq r.nextJseq }

def modEntry (d : Ctl) (j : Nat) (f : JEntry → JEntry) : Ctl :=
  modReeve d fun r => { r with journal := Tbl.update r.journal j f }

/-- The entry is DONE with a result (R420). -/
def closeEntry (d : Ctl) (j code : Nat) : Ctl :=
  modEntry d j fun e => { e with state := .done, result := code, doneAt := devNow d }

/-- A step the Reeve enters itself: master code 0, no response (R417), executed at once. -/
def internalStep (d : Ctl) (obj : Obj) (f : Ctl → Nat → Ctl) : Ctl :=
  let j := d.reeve.nextJseq
  let d := enter d { master := 0, source := .internal, opcode := 0, obj := obj, arrival := mclk d, state := .executing }
  closeEntry (stamp j d (f d j)) j 0

/-- The change from `old` to `d` is a later step of order `j` (R433), or where `j` is 0 a step the Reeve enters itself (R417,
R511); nothing is entered where no mirror word changed. -/
def mirrorStep (old : Ctl) (obj : Obj) (j : Nat) (d : Ctl) : Ctl :=
  if j ≠ 0 then stamp j old d
  else if (mirrorDiff old d).isEmpty then d
  else
    let j := d.reeve.nextJseq
    let e : JEntry := { master := 0, source := .internal, opcode := 0, obj := obj, arrival := mclk d, state := .executing }
    closeEntry (stamp j old (enter d e)) j 0

/-! ### Answers (R425, R426, R430, R431) -/

/-- The response reaches the PF mailbox that holds the order: RESPONDED, VALID (R419, R423). A function reset has emptied
the mailbox of an order that runs on (17). -/
def answerPf (d : Ctl) (p : Port) (code j : Nat) (rsp : Bytes) : Ctl :=
  let m := (getPort d p).mbx
  if m.state = .submitted ∧ m.jseq = j then
    let d := modPort d p fun x => { x with
      mbx := { x.mbx with
        state := .responded, result := BitVec.ofNat 8 code, rsp := rsp, jseq := j, rcookie := x.mbx.cookie } }
    pfIrq d p 0
  else d

/-- An async ring entry, or ASYNC_OVF where the ring is full (R426). -/
def asyncEntry (d : Ctl) (p : Port) (j op code : Nat) : Ctl :=
  let m := (getPort d p).mbx
  if (m.tail + 1) % 32 = m.head then modPort d p fun x => { x with mbx := { x.mbx with ovf := true } }
  else
    let e := leBytes 4 j ++ leBytes 2 op ++ leBytes 1 code ++ [0] ++ leBytes 8 (devNow d).toNat
    let d := modPort d p fun x => { x with
      mbx := { x.mbx with ring := Tbl.set x.mbx.ring m.tail e, tail := (m.tail + 1) % 32 } }
    pfIrq d p 1

/-- The nonce of an envelope tag: direction byte 1 request, 2 response (R429). -/
def envNonce (d : Ctl) (counter : W64) (dir : Nat) : Bytes :=
  leBytes 8 counter.toNat ++ leBytes 1 (pkgNum d) ++ [0, 0] ++ leBytes 1 dir

/-- A response envelope of R428, tagged but on the TC channel. -/
def responseEnvelope (d : Ctl) (ch : EnvChannel) (op code : Nat) (cookie : W32) (counter : W64) (j : Nat)
    (rsp : Bytes) : Bytes :=
  let body := leBytes 2 op ++ leBytes 1 code ++ [0] ++ leBytes 4 cookie.toNat ++ leBytes 8 counter.toNat ++
    leBytes 8 d.reeve.bootNonce.toNat ++ leBytes 4 j ++ leBytes 4 rsp.length ++ rsp
  match ch with
  | .tc => body
  | _ => body ++ (match d.pkg.mgmtKey with
      | some k => gcmTag k (envNonce d counter 2) body []
      | none => zeros 16)

/-- The unanswered order of an envelope channel. -/
def chanOrder (d : Ctl) : EnvChannel → Option Nat
  | .mgmt => d.reeve.fm
  | .fmRelay => d.reeve.fmRelay
  | .tc => d.reeve.tc

def setChan (d : Ctl) (ch : EnvChannel) (v : Option Nat) : Ctl :=
  modReeve d fun r => match ch with
    | .mgmt => { r with fm := v }
    | .fmRelay => { r with fmRelay := v }
    | .tc => { r with tc := v }

/-- A response envelope is ready on a channel, with its in-band interrupt on the I3C channels (R492). -/
def sendEnvelope (d : Ctl) (ch : EnvChannel) (bytes : Bytes) : Ctl :=
  let d := emit d (.envelope ch bytes)
  match ch with
  | .mgmt => d
  | .tc => raiseIbi d 1
  | .fmRelay => raiseIbi d 2

/-- The first answer to an order: mailbox response or response envelope (R425, R430). -/
def answer (d : Ctl) (src : JSource) (op code j : Nat) (rsp : Bytes) : Ctl :=
  match src with
  | .pf p => answerPf d p code j rsp
  | .env ch cookie counter =>
    setChan (sendEnvelope d ch (responseEnvelope d ch op code cookie counter j rsp)) ch none
  | _ => d

/-- The final result of an async order: ring entry or second envelope (R425, R430). -/
def asyncResult (d : Ctl) (src : JSource) (op code j : Nat) (rsp : Bytes) : Ctl :=
  match src with
  | .pf p => asyncEntry d p j op code
  | .env ch cookie counter => sendEnvelope d ch (responseEnvelope d ch op code cookie counter j rsp)
  | _ => d

/-- The async order of sequence `j` completes. -/
def completeOrder (d : Ctl) (j code : Nat) (rsp : Bytes) : Ctl :=
  match Tbl.find? d.reeve.journal j with
  | some e =>
    if e.state = .done then d else asyncResult (closeEntry d j code) e.source e.opcode code j rsp
  | none => d

/-! ### Running a body -/

/-- What the body of a command answers with. -/
inductive Answer where
  /-- A final result with its response bytes. -/
  | done (code : Nat) (rsp : Bytes)
  /-- PENDING: the procedure has begun and completes by later events (R516). -/
  | pending (rsp : Bytes)
  /-- PENDING with no final result ever (R516). -/
  | last
  deriving DecidableEq, Repr

/-- An order as its body sees it. -/
structure Order where
  jseq : Nat
  master : Nat
  args : Bytes
  image : DmaResult := .ok []
  deriving DecidableEq, Repr

/-- The meaning of a command: its own refusals and its effect. -/
abbrev Body := Ctl → Order → Answer × Ctl

/-- The order's journal entry is EXECUTING. -/
def beginOrder (d : Ctl) (j : Nat) : Ctl := modEntry d j fun x => { x with state := .executing }

/-- The order starts: its body runs in its journal step, and the channel gets the first answer. -/
def startOrder (d : Ctl) (j : Nat) (e : JEntry) (body : Body) : Ctl :=
  let d := beginOrder d j
  let r := body d { jseq := j, master := e.master, args := e.args, image := e.image }
  let d' := stamp j d r.2
  match r.1 with
  | .done code rsp => answer (closeEntry d' j code) e.source e.opcode code j rsp
  | .pending rsp => answer d' e.source e.opcode 1 j rsp
  | .last => answer d' e.source e.opcode 1 j []

/-- The not yet DONE entries earlier than `j` that meet object `o`. -/
def blockers (d : Ctl) (j : Nat) (o : Obj) : List (Nat × JEntry) :=
  d.reeve.journal.filter fun e => e.1 != j && e.2.state != .done && meets d e.2.obj o

/-- A running non-destructive order that a fencing order ends (R435): its result, and the work it held. -/
def endRunning (d : Ctl) (by_ : Nat) (e : Nat × JEntry) : Ctl :=
  let d := match e.2.obj with
    | .slice s => modSlice d s fun x => { x with
        proc := match x.proc with
          | some p => if p.jseq = e.1 then none else some p
          | none => none }
    | _ => d
  match e.2.source with
  | .guest _ => d
  | _ => completeOrder d e.1 3 (leBytes 4 by_)

/-- An order meets the orders before it on its object: it waits, or ends those a fencing order ends, and starts
(R433, R435). -/
def proceed (d : Ctl) (j : Nat) (e : JEntry) (body : Body) : Ctl :=
  let bl := blockers d j e.obj
  if bl.isEmpty then startOrder d j e body
  else
    let stops (x : Nat × JEntry) : Bool :=
      isDestructive x.2.opcode x.2.args || x.2.master == 0
    if isFencing e.opcode && !(bl.any stops) then
      let run := bl.filter fun x => x.2.state == .executing
      startOrder (run.foldl (fun d x => endRunning d j x) d) j e body
    else modEntry d j fun x => { x with state := .waiting }

/-- Rank of a master for precedence: lower wins (R418). -/
def rank (master : Nat) : Nat := if master = 2 then 1 else if master = 1 then 0 else master

/-- The order of the same MCLK cycle that wins row 3 of R434: same opcode, same object, higher precedence. -/
def winner (d : Ctl) (master op : Nat) (obj : Obj) : Option Nat :=
  (List.find? (fun (e : Nat × JEntry) => e.2.arrival == mclk d && e.2.opcode == op && e.2.obj == obj &&
    e.2.master != 0 && decide (rank e.2.master ≤ rank master) && e.2.result != 3) d.reeve.journal).map Prod.fst

/-- The journal entry of an order that arrives now. -/
def orderEntry (d : Ctl) (src : JSource) (master op : Nat) (args : Bytes) (image : DmaResult) : JEntry :=
  { master := master, source := src, opcode := op, obj := orderObj op args, arrival := mclk d, args := args, image := image }

/-- An order arrives at the journal (R432): checks 1 to 3 of R515, precedence, then waiting or start. -/
def arrive (d : Ctl) (src : JSource) (master op : Nat) (args : Bytes) (image : DmaResult) (malformed : Bool)
    (body : Body) : Ctl :=
  let obj := orderObj op args
  let e := orderEntry d src master op args image
  let j := d.reeve.nextJseq
  let refuse (d : Ctl) (code : Nat) (rsp : Bytes) : Ctl := answer (closeEntry (enter d e) j code) src op code j rsp
  match catRow op with
  | none => refuse d 0x11 []
  | some r =>
    if d.pkg.life = .lantern ∧ !r.lantern then refuse d 0x11 []
    else if !permitted r master then refuse d 0x12 []
    else if malformed then refuse d 0x10 []
    else match winner d master op obj with
      | some w => refuse d 3 (leBytes 4 w)
      | none => proceed (enter d e) j e body

/-- Master code of an envelope channel and of a PF port (R418). -/
def masterOf : EnvChannel → Nat
  | .mgmt => 1
  | .fmRelay => 2
  | .tc => 3

def pfMaster : Port → Nat
  | .ha => 4
  | .hb => 5

/-- The request envelope's bytes before its tag (R428). -/
def requestBytes (op : Nat) (e : Envelope) : Bytes :=
  leBytes 2 op ++ leBytes 2 e.args.length ++ leBytes 4 e.cookie.toNat ++ leBytes 8 e.counter.toNat ++
    leBytes 8 e.bootNonce.toNat ++ leBytes 8 e.reserved.toNat ++ e.args

/-- A fabric manager envelope passes the checks of R429. -/
def envelopeOk (d : Ctl) (op : Nat) (e : Envelope) : Bool :=
  match d.pkg.mgmtKey with
  | none => false
  | some k =>
    gcmTag k (envNonce d e.counter 1) (requestBytes op e) [] == e.tag && e.bootNonce == d.reeve.bootNonce &&
      (match d.reeve.fmCounter with | some c => decide (c < e.counter) | none => true)

/-- MB_IDENTIFY with an all-zero tag is answered without the checks (R429). -/
def openIdentify (op : Nat) (e : Envelope) : Bool := op == 1 && allZero e.tag

/-- The Reeve takes orders: in operation and in lantern state, not during a takeover (R372, R494). -/
def reeveUp (d : Ctl) : Bool :=
  (d.pkg.life == .operating || d.pkg.life == .lantern) && !d.reeve.takeover

/-- A valid envelope is taken: its counter is the fabric manager's last, and its channel holds the journal sequence its order
takes (R429, R430). -/
def takeEnvelope (d : Ctl) (op : Nat) (e : Envelope) : Ctl :=
  let d := if e.channel == .tc || (openIdentify op e && !envelopeOk d op e) then d
    else modReeve d fun r => { r with fmCounter := some e.counter }
  setChan d e.channel (some d.reeve.nextJseq)

/-- An envelope's order: BUSY, AUTH, or its arrival (R429, R430). With MGMT_IPV4 unset the management port carries no
envelope (R493). -/
def envelopeOrder (d : Ctl) (op : Nat) (e : Envelope) (image : DmaResult) (malformed : Ctl → Bytes → Bool)
    (body : Body) : Ctl :=
  let reject (d : Ctl) (code : Nat) : Ctl :=
    sendEnvelope d e.channel (responseEnvelope d e.channel op code e.cookie e.counter 0 [])
  if e.channel = .mgmt ∧ allZero d.pkg.mgmtIp then d
  else if (chanOrder d e.channel).isSome then
    modReeve (reject d 2) fun r => { r with msgDrops := addCount r.msgDrops 1 }
  else if e.channel != .tc && !openIdentify op e && !envelopeOk d op e then reject d 0x13
  else
    let d := takeEnvelope d op e
    arrive d (.env e.channel e.cookie e.counter) (masterOf e.channel) op
      e.args image (malformed d e.args || e.reserved != 0) body

/-- The order the PF mailbox of a port holds: the argument bytes of its length (R423). -/
def mbxArgs (m : Mailbox) : Bytes := (List.range m.argLen).map fun k => Tbl.getD m.arg k 0

/-- The mailbox notes the journal sequence its order takes. -/
def takeMailbox (d : Ctl) (p : Port) : Ctl := modPort d p fun x => { x with mbx := { x.mbx with jseq := d.reeve.nextJseq } }

/-- A PF order arrives (R425), where the mailbox holds one of this opcode that has not arrived. -/
def pfOrder (d : Ctl) (p : Port) (op : Nat) (image : DmaResult) (malformed : Ctl → Bytes → Bool) (body : Body) : Ctl :=
  let m := (getPort d p).mbx
  if m.state = .submitted ∧ m.opcode.toNat = op ∧ m.jseq = 0 then
    let args := mbxArgs m
    let d := takeMailbox d p
    arrive d (.pf p) (pfMaster p) op args image (decide (256 < m.argLen) || malformed d args) body
  else d

/-- An order from its source. -/
def order (d : Ctl) (src : OrderSource) (op : Nat) (image : DmaResult) (malformed : Ctl → Bytes → Bool)
    (body : Body) : Ctl :=
  if !reeveUp d then d
  else match src with
    | .pf p => pfOrder d p op image malformed body
    | .env e => envelopeOrder d op e image malformed body

/-- A final result. -/
def ok (rsp : Bytes) (d : Ctl) : Answer × Ctl := (.done 0 rsp, d)

def refuse (code : Nat) (d : Ctl) : Answer × Ctl := (.done code [], d)

/-- The length of the arguments, and bytes of them that must be 0. -/
def badArgs (args : Bytes) (len : Nat) (reserved : List Nat) : Bool :=
  args.length != len || reserved.any fun k => args.getD k 0 != 0

end Sys2Proof.Machine
end

