-- ==== Sys2Proof/Machine/Operands.lean ====
section
/-! DEFINITION. The operand forms of submissions: descriptors, postcards, their authentication and form checks
(checks 1 to 3 of R107), lane nonces, statuses and seal trailers (03, 10). -/

namespace Sys2Proof.Machine
open Sys2Proof

/-! ### Statuses (R105, R106) -/

namespace St
def ok : Status := ⟨0x00, 0x00⟩
def late : Status := ⟨0x01, 0x00⟩
def appMiss : Status := ⟨0x02, 0x01⟩
def appUnavailable : Status := ⟨0x02, 0x02⟩
def laneState : Status := ⟨0x10, 0x01⟩
def rateLimit : Status := ⟨0x10, 0x02⟩
def featureState : Status := ⟨0x10, 0x03⟩
def notResident : Status := ⟨0x10, 0x04⟩
def contextUnknown : Status := ⟨0x10, 0x05⟩
def notPermitted : Status := ⟨0x10, 0x06⟩
def resource : Status := ⟨0x10, 0x07⟩
def inUse : Status := ⟨0x10, 0x08⟩
def predictedMiss : Status := ⟨0x11, 0x01⟩
def deadlinePassed : Status := ⟨0x11, 0x02⟩
def apprenticeMiss : Status := ⟨0x11, 0x03⟩
def shedNewest : Status := ⟨0x12, 0x01⟩
def shedExpired : Status := ⟨0x12, 0x02⟩
def brownout : Status := ⟨0x12, 0x03⟩
def superseded : Status := ⟨0x13, 0x01⟩
def fenced : Status := ⟨0x20, 0x01⟩
def laneDeleted : Status := ⟨0x20, 0x02⟩
def laneReset : Status := ⟨0x20, 0x03⟩
def portLost : Status := ⟨0x20, 0x04⟩
def hamletReset : Status := ⟨0x20, 0x05⟩
def tornDown : Status := ⟨0x20, 0x06⟩
def dmaInput : Status := ⟨0x30, 0x01⟩
def dmaResult : Status := ⟨0x30, 0x02⟩
def compute : Status := ⟨0x30, 0x03⟩
def memory : Status := ⟨0x30, 0x04⟩
def fabric : Status := ⟨0x30, 0x05⟩
def program : Status := ⟨0x30, 0x06⟩
def fencedSignal : Status := ⟨0x31, 0x01⟩
def roadTimeout : Status := ⟨0x31, 0x02⟩
def jobDead : Status := ⟨0x31, 0x03⟩
def hang : Status := ⟨0x32, 0x01⟩
def reserved : Status := ⟨0x40, 0x01⟩
def badOpcode : Status := ⟨0x40, 0x02⟩
def badLength : Status := ⟨0x40, 0x03⟩
def badAlignment : Status := ⟨0x40, 0x04⟩
def feature : Status := ⟨0x40, 0x05⟩
def chainLength : Status := ⟨0x40, 0x06⟩
def resultTooSmall : Status := ⟨0x40, 0x07⟩
def noResultArea : Status := ⟨0x40, 0x08⟩
def notPostcardOpcode : Status := ⟨0x40, 0x09⟩
def tagMismatch : Status := ⟨0x41, 0x01⟩
def keyEpoch : Status := ⟨0x41, 0x02⟩
def noKey : Status := ⟨0x41, 0x03⟩
end St

/-- The status as a 16-bit value (R105). -/
def statusWord (s : Status) : Nat := 256 * s.cls.toNat + s.detail.toNat

/-- The status as delivered to the guest: details it may not see read 0x00 (R106). -/
def guestStatus (s : Status) : Nat :=
  let hidden := s.cls = 0x41 ∨ (s.cls = 0x20 ∧ (s.detail = 5 ∨ s.detail = 6)) ∨
    (s.cls = 0x30 ∧ (s.detail = 3 ∨ s.detail = 4 ∨ s.detail = 5))
  if hidden then 256 * s.cls.toNat else statusWord s

/-- OK, LATE and APPRENTICE: the classes with outputs (R105). -/
def succeeded (s : Status) : Bool := decide (s.cls.toNat ≤ 2)

/-! ### Device times (R454) -/

/-- Device time `a` is at or before `b`. -/
def timeLe (a b : W64) : Bool := !(b - a).msb

def noDeadline : W64 := 0xFFFFFFFFFFFFFFFF

/-! ### Layouts (R91, R94) -/

/-- A compute descriptor's fields. -/
def readCompute (c : Cmd) (b : Bytes) : Cmd :=
  { c with
    raw := b, opcode := b.getD 0 0, noDivert := bitOf (fld b 1 1) 0, timeout := fld b 2 2,
    model := BitVec.ofNat 32 (fld b 4 4), deadline := BitVec.ofNat 64 (fld b 8 8), inputAddr := BitVec.ofNat 64 (fld b 16 8),
    inputLen := fld b 24 4, resultCap := fld b 28 4, resultAddr := BitVec.ofNat 64 (fld b 32 8),
    context := fld b 40 4, aux := BitVec.ofNat 32 (fld b 44 4) }

/-- A descriptor's fields. On lane 0 bytes 16 to 47 are the opcode's operands: there is no input or context, and a
result buffer only for the opcodes that name one (R112). -/
def readDescriptor (c : Cmd) (b : Bytes) : Cmd :=
  let r := readCompute c b
  if c.lane ≠ 0 then r
  else { r with
    inputLen := 0, inputAddr := 0, context := 0, aux := 0, deadline := noDeadline,
    resultCap := if r.opcode = 0x80 ∨ r.opcode = 0x88 ∨ r.opcode = 0x89 then r.resultCap else 0 }

/-- The chain length a cell 0 declares. -/
def chainBits (b : Bytes) : Nat := bits (fld b 1 1) 2 0

/-- Cells of the chain a slot's bytes hold: 1 where the declared length is out of range (R96). -/
def chainCells (b : Bytes) : Nat := if 1 ≤ chainBits b ∧ chainBits b ≤ 4 then chainBits b else 1

/-- A postcard's fields; its result buffer is the one of its sequence, none on a lane without a result area (R97, R98). -/
def readPostcard (c : Cmd) (ln : Lane) (b : Bytes) : Cmd :=
  let stride := 2 ^ ln.strideLog
  { c with
    raw := b, opcode := b.getD 0 0, noDivert := bitOf (fld b 1 1) 3, timeout := 0,
    model := BitVec.ofNat 32 (fld b 4 4), deadline := BitVec.ofNat 64 (fld b 8 8), inputLen := fld b 2 1,
    resultCap := if ln.strideLog = 0 then 0 else stride, resultAddr := ln.resultBase + BitVec.ofNat 64 (c.seq.toNat % cqSize ln * stride) }

/-- The bytes a slot holds. -/
def slotBytes (s : Slot) (cells : Nat) : Bytes := (List.range (64 * cells)).map fun k => Tbl.getD s.bytes k 0

/-- Every byte of cells 0 to n - 1 has been written (R67). -/
def cellsFull (s : Slot) (n : Nat) : Bool := (List.range (64 * n)).all fun k => (Tbl.find? s.bytes k).isSome

/-- The chain is complete: its cells are full, or cell 0 declares no valid length (R67, R96). -/
def chainComplete (s : Slot) : Bool := cellsFull s 1 && cellsFull s (chainCells (slotBytes s 1))

/-! ### Authentication (R95, R313, R317) -/

/-- The lane nonce; kind 0 descriptor, 1 input, 2 postcard, 3 result (R317). -/
def laneNonce (c : Cmd) (kind : Nat) : Bytes :=
  leBytes 4 c.seq.toNat ++ leBytes 1 (c.lane + 64 * kind) ++ leBytes 1 c.gen.toNat ++ leBytes 2 c.incarnation ++
    leBytes 1 c.slice ++ leBytes 2 c.wraps ++ [0]

/-- A submission under one epoch's host-to-device key: its plaintext where the tag verifies. DESIGN CHOICE (log 50): where a
postcard's L exceeds what its cells hold, which check 3 refuses, the ciphertext opened is the 64n - 32 bytes there are. -/
def openUnder (c : Cmd) (k : EpochKeys) : Option Bytes :=
  if c.slot.isSome then
    let n := chainCells c.raw
    gcmOpen k.h2d (laneNonce c 2) (c.raw.take 16) (sub c.raw 16 (min c.inputLen (64 * n - 32))) (sub c.raw (64 * n - 16) 16)
  else gcmOpen k.h2d (laneNonce c 0) (c.raw.take 48) [] (sub c.raw 48 16)

/-- Check 2: the epoch that passes with the plaintext, or the AUTH_FAIL status. Both installed epochs are checked
(R313). -/
def tagCheck (s : Slice) (ln : Lane) (c : Cmd) : Except Status (EpochKeys × Bytes) :=
  let inst := s.keys.current.toList ++ s.keys.previous.toList
  if inst.isEmpty then .error St.noKey
  else match inst.findSome? fun k => (openUnder c k).map fun p => (k, p) with
    | some r => .ok r
    | none =>
      let recent := s.keys.emptied.filter fun e => decide (ln.stats.accepted < Tbl.getD e.accepted c.lane 0 + 2 ^ 32)
      if recent.any fun e => (openUnder c e.keys).isSome then .error St.keyEpoch else .error St.tagMismatch

/-- Check 7: the input's plaintext (R92). -/
def openInput (c : Cmd) (k : EpochKeys) (data : Bytes) : Option Bytes :=
  gcmOpen k.h2d (laneNonce c 1) [] (data.take c.inputLen) (sub data c.inputLen 16)

/-! ### Form (check 3: R91, R94, R98, R109 to R112) -/

def isContextOp (op : Byte) : Bool := op == 2 || op == 3 || op == 4

def isModelOp (op : Byte) : Bool := op == 1 || op == 2 || op == 3

/-- Feature bit `b` is enabled on the slice (R82). -/
def featureOn (s : Slice) (b : Nat) : Bool := s.features.getLsbD b

/-- Form of a postcard, in the order opcode, reserved fields, lengths, features, result area. DESIGN CHOICE (log 50): an opcode of
the admin range, or an unassigned one, completes NOT_POSTCARD_OPCODE by R111 and not BAD_OPCODE by R109. -/
def postcardForm (s : Slice) (ln : Lane) (c : Cmd) : Option Status :=
  let n := chainCells c.raw
  if c.opcode ≠ 1 ∧ c.opcode ≠ 5 then some St.notPostcardOpcode
  else if bits (fld c.raw 1 1) 7 4 ≠ 0 ∨ fld c.raw 3 1 ≠ 0 ∨ (c.opcode = 5 ∧ c.model ≠ 0) then some St.reserved
  else if 64 * n - 32 < c.inputLen then some St.badLength
  else if !featureOn s 0 || (1 < n && !featureOn s 1) then some St.feature
  else if ln.strideLog = 0 then some St.noResultArea
  else none

/-- Form of a compute descriptor. A context identifier has 16 bits (R110), so the upper half of its field is
reserved (DEDUCED, log 12). DESIGN CHOICE (log 50): a model, context or aux in an opcode that defines none is a reserved field
too. -/
def computeForm (s : Slice) (c : Cmd) : Option Status :=
  if c.opcode < 1 ∨ 5 < c.opcode then some St.badOpcode
  else if bits (fld c.raw 1 1) 7 1 ≠ 0 ∨ 0xFFFF < c.context ∨ (!isContextOp c.opcode ∧ c.context ≠ 0) ∨
      (c.opcode ≠ 3 ∧ c.aux ≠ 0) ∨ (!isModelOp c.opcode ∧ c.model ≠ 0) then some St.reserved
  else if 0x40000000 < c.inputLen ∨ c.resultCap < 32 ∨ 0x40000000 < c.resultCap ∨ c.resultCap % 16 ≠ 0 then
    some St.badLength
  else if c.inputAddr.toNat % 16 ≠ 0 ∨ c.resultAddr.toNat % 16 ≠ 0 then some St.badAlignment
  else if c.opcode = 3 ∧ !featureOn s 11 then some St.feature
  else none

/-- Operand bytes an admin opcode names, with the bits of each that are its own (R112). -/
def adminNamed (op : Byte) (k : Nat) : Nat :=
  let all (lo hi : Nat) : Bool := decide (lo ≤ k) && decide (k ≤ hi)
  let named :=
    if op = 0x80 then all 28 39
    else if op = 0x81 then all 16 23
    else if op = 0x82 then all 16 27 || all 32 47
    else if op = 0x83 ∨ op = 0x84 then all 24 24
    else if op = 0x85 then all 16 19 || all 24 25
    else if op = 0x86 then all 16 31
    else if op = 0x87 then false
    else if op = 0x88 then all 24 24 || all 28 39
    else all 16 23 || all 28 39
  if !named then 0 else if op = 0x85 ∧ k = 25 then 3 else 255

/-- A reserved bit of an admin descriptor is set. -/
def adminReserved (c : Cmd) : Bool :=
  bits (fld c.raw 1 1) 7 1 != 0 || (c.opcode != 0x87 && c.model != 0) ||
    ((List.range 32).any fun k => (fld c.raw (16 + k) 1) &&& (255 - adminNamed c.opcode (16 + k)) != 0) ||
    (c.opcode == 0x81 && fld c.raw 16 8 / 2 ^ 15 != 0) || (c.opcode == 0x86 && bits (fld c.raw 28 4) 31 15 != 0) ||
    (c.opcode == 0x89 && fld c.raw 16 4 != 0xFFFFFFFF && fld c.raw 20 4 != 0)

/-- The result buffer of an admin command: its size and alignment. Whether the result fits is check 9's. -/
def adminResult (c : Cmd) : Option Status :=
  if c.resultCap < 32 ∨ 0x40000000 < c.resultCap ∨ c.resultCap % 16 ≠ 0 then some St.badLength
  else if c.resultAddr.toNat % 16 ≠ 0 then some St.badAlignment
  else none

/-- Ring sizes, alignment and stride of GQI_ADM_CREATE_LANE (R59, R112); each postcard result buffer is aligned to its stride.
DESIGN CHOICE (log 50): a result area base without a stride is MALFORMED/BAD_LENGTH. -/
def createForm (c : Cmd) : Option Status :=
  let sq := fld c.raw 25 1
  let cq := fld c.raw 26 1
  let st := fld c.raw 27 1
  let area := fld c.raw 40 8
  if sq < 4 ∨ 16 < sq ∨ cq < 4 ∨ 16 < cq ∨ cq < sq ∨ (st ≠ 0 ∧ (st < 6 ∨ 16 < st)) ∨ (area ≠ 0 ∧ st = 0) then some St.badLength
  else if fld c.raw 16 8 % 4096 ≠ 0 ∨ fld c.raw 32 8 % 4096 ≠ 0 ∨ area % max 4096 (2 ^ st) ≠ 0 then
    some St.badAlignment
  else none

/-- Form of an admin descriptor: opcode, reserved fields, lengths, alignment, features (R112, R325, R271). -/
def adminForm (s : Slice) (c : Cmd) : Option Status :=
  if c.opcode < 0x80 ∨ 0x89 < c.opcode then some St.badOpcode
  else if adminReserved c then some St.reserved
  else if c.opcode = 0x80 then adminResult c
  else if c.opcode = 0x81 then
    (if BitVec.ofNat 64 (fld c.raw 16 8) &&& ~~~featuresOffered ≠ 0 then some St.feature else none)
  else if c.opcode = 0x82 then createForm c
  else if c.opcode = 0x85 then
    (if (fld c.raw 16 4 ≠ 0 ∨ bitOf (fld c.raw 25 1) 0) ∧ !featureOn s 4 then some St.feature
     else if bitOf (fld c.raw 25 1) 1 ∧ !featureOn s 5 then some St.feature else none)
  else if c.opcode = 0x86 then
    (if 12287 < bits (fld c.raw 28 4) 13 0 then some St.badLength
     else if fld c.raw 16 8 % 4096 ≠ 0 then some St.badAlignment else none)
  else if c.opcode = 0x88 then adminResult c
  else if c.opcode = 0x89 then adminResult c
  else none

/-- Check 3 by the kind of submission. -/
def formCheck (s : Slice) (ln : Lane) (c : Cmd) : Option Status :=
  if c.slot.isSome then postcardForm s ln c
  else if c.lane = 0 then adminForm s c
  else computeForm s c

/-! ### Seal trailers (R99 to R101) -/

/-- A seal trailer's bytes (R100). -/
def trailerBytes (c : Cmd) (status : Nat) (payload : Bool) (len : Nat) : Bytes :=
  leBytes 4 c.seq.toNat ++ leBytes 2 status ++ leBytes 1 c.gen.toNat ++ leBytes 1 (1 + 2 * b2n payload) ++
    leBytes 4 len ++ leBytes 4 (c.tCommit.toNat % 2 ^ 32)

/-- A trailer is written for the completion (R101). -/
def writesTrailer (c : Cmd) (st : Status) : Bool :=
  if c.slot.isSome then st != St.noResultArea && st != St.noKey && decide (32 ≤ c.resultCap)
  else st.cls != 0x40 && st.cls != 0x41 && decide (32 ≤ c.resultCap)

end Sys2Proof.Machine
end

