-- ==== Sys2Proof/Machine/Sheaves.lean ====
section
/-! DEFINITION. Carters and bulk crypto engines: sheaves in two stages, the key registers, arbitration by reservation and round
robin, strict frames, and the squash (R284, R301, R321, R322, R327, R333, R347). -/

namespace Sys2Proof.Machine
open Sys2Proof

/-! ### Keys (R305, R322) -/

/-- The tenant keys other than random ones: HKDF-SHA-384 of the root key under the tenant's salt. -/
def tenantKey (t : Tenant) (label : String) (ctx : Bytes) : Bytes :=
  hkdf (leBytes 2 t.ident.toNat ++ zeros 46) t.rootKey ((label.toList.map fun c => BitVec.ofNat 8 c.toNat) ++ ctx) 32

/-- The migration key of an armed slice. -/
def migrationKey (t : Tenant) (nonce : Bytes) : Bytes := tenantKey t "pyvan migrate" nonce

/-- The number of a slice's CURRENT epoch, 0 before its first. -/
def epochNow (s : Slice) : Nat := (s.keys.current.map EpochKeys.epoch).getD 0

/-- The key an engine loads for a sheaf: the unwrapped model key, the migration key, or the host-to-device key of its epoch. -/
def sheafKey (d : Ctl) (x : Sheaf) : Bytes :=
  let s := getSlice d x.slice
  match x.use with
  | .load id => ((Tbl.find? d.loads id).map Load.key).getD []
  | .migration => ((Tbl.find? d.tenants x.tenant).bind fun t => s.arm.map (migrationKey t)).getD []
  | .input _ _ =>
    (List.find? (fun (k : EpochKeys) => k.epoch == x.epoch) (s.keys.current.toList ++ s.keys.previous.toList)).elim [] EpochKeys.h2d

/-! ### Guarantee buckets (R284) -/

/-- A bucket pays for `n` bytes. -/
def payBytes (d : Ctl) (n : Nat) (b : Bucket) : Bucket :=
  if b.rate = 0 then b else let b := refill d b 10; { b with balance := b.balance - 10 * (n : Int) }

/-- `n` bytes of slice `i` are served on the bulk engines or on the carters: its reservation's bucket there pays. -/
def drawUnit (d : Ctl) (i n : Nat) (engine : Bool) : Ctl :=
  match resvOf d i with
  | none => d
  | some (k, v) =>
    { d with
      reservations := Tbl.set d.reservations k
        (if engine then { v with bulk := payBytes d n v.bulk } else { v with carter := payBytes d n v.carter }) }

/-! ### Which sheaf is served next (R284, R327, R333) -/

/-- The sheaf waits for an engine, or for a carter. -/
def waitsFor (x : Sheaf) (engine : Bool) : Bool :=
  !x.squashed && ((x.place == .queued && x.out == engine) || (x.place == .buffered && x.out != engine))

/-- The place of a sheaf among those served first: its reservation's number while that bucket holds 4 KiB; a save or restore, which
holds a guarantee of its own, behind those (DESIGN CHOICE, log 20); none for all others. A load is unreserved traffic (R327). -/
def servedFirst (d : Ctl) (x : Sheaf) (engine : Bool) : Option Nat :=
  match x.use with
  | .load _ => none
  | .migration => some 64
  | .input _ _ => match resvOf d x.slice with
    | none => none
    | some (n, v) =>
      let b := if engine then v.bulk else v.carter
      if b.rate ≠ 0 ∧ 10 * 4096 ≤ (refill d b 10).balance then some n else none

/-- At most four engines decrypt one load (R327). -/
def loadMayStart (d : Ctl) (x : Sheaf) : Bool :=
  match x.use with
  | .load _ => decide ((d.units.engines.filter fun e => (Tbl.find? d.sheaves e.2.sheaf).any fun y => y.use == x.use).length < 4)
  | _ => true

/-- Frames are in force: some tenant has strict timing or strict slots (R333). -/
def framed (d : Ctl) : Bool := d.tenants.any fun e => strictInEffect d e.1 || !e.2.strictSlots.isEmpty

/-- The slot of a unit that starts in this HCLK cycle, by its number in Tenant.strictSlots. -/
def slotStarts (d : Ctl) (engine : Bool) (n : Nat) : Option Nat :=
  let t := (nowNs d - d.units.frameStart) % 3300
  if engine then ((List.range 7).find? fun k => k * 3300 / 7 == t).map fun k => 7 * (n - 4) + k
  else ((List.range 6).find? fun k => k * 550 == t).map fun k => 84 + 6 * n + k

/-- Unit `n` may take a sheaf of tenant `t` now: in frames only as a slot starts, in its own slots if it is strict, and in slots no
tenant holds otherwise. -/
def slotAllows (d : Ctl) (engine : Bool) (n t : Nat) : Bool :=
  if !framed d then true
  else match slotStarts d engine n with
    | none => false
    | some k => match List.find? (fun (e : Nat × Tenant) => e.2.strictSlots.contains k) d.tenants with
      | some e => e.1 == t
      | none => !strictInEffect d t && ((Tbl.find? d.tenants t).map fun x => x.strictSlots.isEmpty).getD true

/-- Of waiting sheaves, oldest first, the next one: reserved ones by number, then round robin by tenant behind the one served
last. -/
def pickSheaf (d : Ctl) (engine : Bool) (turn : Nat) (l : List (Nat × Sheaf)) : Option (Nat × Sheaf) :=
  let first := l.filterMap fun e => (servedFirst d e.2 engine).map fun n => (n, e)
  match first.foldl (fun a x => match a with | some y => if x.1 < y.1 then some x else some y | none => some x) none with
  | some x => some x.2
  | none =>
    let rank (e : Nat × Sheaf) : Nat := (e.2.tenant + 31 - turn) % 32
    l.foldl (fun a x => match a with | some y => if rank x < rank y then some x else some y | none => some x) none

/-- A unit takes a sheaf: it stands there, the engine loads its key, its reservation pays, and a carter issues the read of an input
(R284, R321, R322). -/
def takeSheaf (d : Ctl) (engine : Bool) (n : Nat) (k : Nat) (x : Sheaf) : Ctl :=
  let d := match x.use with | .input _ _ => drawUnit d x.slice x.len engine | _ => d
  let d := { d with
    sheaves := Tbl.set d.sheaves k { x with place := if engine then .engine n else .carter n }
    units := if engine then
        { d.units with engines := Tbl.set d.units.engines n ⟨k, sheafKey d x⟩, engineTurn := x.tenant }
      else { d.units with carters := Tbl.set d.units.carters n k, carterTurn := x.tenant } }
  match x.use, engine with
  | .input _ a, false => sliceRead d x.slice a x.len
  | _, _ => d

/-- A free unit takes the next sheaf that waits for one. -/
def serveUnit (engine : Bool) (d : Ctl) (n : Nat) : Ctl :=
  let busy := if engine then (Tbl.find? d.units.engines n).isSome else (Tbl.find? d.units.carters n).isSome
  if busy then d
  else
    let l := d.sheaves.filter fun e => waitsFor e.2 engine && slotAllows d engine n e.2.tenant && (!engine || loadMayStart d e.2)
    match pickSheaf d engine (if engine then d.units.engineTurn else d.units.carterTurn) l with
    | some (k, x) => takeSheaf d engine n k x
    | none => d

/-- Every free carter and every free engine of 4 to 15 takes what waits for it. -/
def serveSheaves (d : Ctl) : Ctl :=
  if d.sheaves.all fun e => !waitsFor e.2 true && !waitsFor e.2 false then d
  else ((List.range 12).map (· + 4)).foldl (serveUnit true) ((List.range 32).foldl (serveUnit false) d)

/-! ### Queueing, squashing, dropping (R347) -/

/-- The bytes of a transfer wait as sheaves of at most 4 KiB. -/
def queueTransfer (d : Ctl) (i len : Nat) (out : Bool) (use : Nat → SheafUse) : Ctl :=
  let s := getSlice d i
  (List.range (ceilDiv len 4096)).foldl (fun d k => { d with
    sheaves := Tbl.set d.sheaves d.nextSheaf {
      tenant := s.tenant, slice := i, gen := s.gen, len := min 4096 (len - 4096 * k), use := use k, index := k
      epoch := epochNow s, out := out }
    nextSheaf := d.nextSheaf + 1 }) d

/-- A sheaf stands in a unit. -/
def inUnit (x : Sheaf) : Bool := x.place != .queued && x.place != .buffered

/-- The unit a sheaf stands in lets it go: an engine clears its key registers (R322). -/
def leaveUnit (d : Ctl) (x : Sheaf) : Ctl :=
  match x.place with
  | .carter n => { d with units := { d.units with carters := Tbl.erase d.units.carters n } }
  | .engine n => { d with units := { d.units with engines := Tbl.erase d.units.engines n } }
  | _ => d

/-- Sheaves are squashed (R347): those in a carter or engine run to their boundary and are discarded there, all others are gone at
once, those in a Hearth buffer among them (DEDUCED, log 20). -/
def squashWhere (d : Ctl) (p : Sheaf → Bool) : Ctl :=
  { d with
    sheaves := Tbl.mapVal (d.sheaves.filter fun (e : Nat × Sheaf) => !p e.2 || inUnit e.2) fun _ (x : Sheaf) =>
      if p x then { x with squashed := true } else x }

/-- Sheaves are gone with the units' hold on them: their engines' key registers are clear (R302). -/
def dropSheaves (d : Ctl) (p : Sheaf → Bool) : Ctl :=
  (d.sheaves.filter fun e => p e.2).foldl (fun d e => { leaveUnit d e.2 with sheaves := Tbl.erase d.sheaves e.1 }) d

/-- A sheaf belongs to a command's input. -/
def isInputOf (id : Nat) (x : Sheaf) : Bool := match x.use with | .input k _ => k == id | _ => false

/-- A sheaf belongs to a command. -/
def isOfCmd (id : Nat) (x : Sheaf) : Bool := match x.use with | .input k _ | .load k => k == id | .migration => false

/-- The input of a command has come: its sheaves are finished and free their units. -/
def endInput (d : Ctl) (id : Nat) : Ctl := serveSheaves (dropSheaves d fun x => isInputOf id x && !x.squashed)

end Sys2Proof.Machine
end

