-- ==== Sys2Proof/Machine/RoadSend.lean ====
section
/-! DEFINITION. Sending on roads: the HEAD layout, the road a domain uses, credits and arbitration, nonces and the
message key (R208 to R226). -/

namespace Sys2Proof.Machine
open Sys2Proof

/-! ### Opcodes and the HEAD (R217 to R219) -/

/-- Traffic class of an opcode as a package sends it: 0 REQ, 1 RSP, 2 SYNC, 3 CTRL (R219). -/
def opClass (op : Nat) : Nat :=
  if op < 0x10 then 0 else if op < 0x20 then 1 else if op < 0x30 then 2 else 3

/-- Data flits of a message (R218). -/
def dcount (m : RoadMsg) : Nat := ceilDiv m.data.length 64

/-- HEAD bytes 0 to 47 with RELAYED, REPLAYED and hseq as zero: the associated data of the tag (R218). -/
def headAad (op : Nat) (m : RoadMsg) : Bytes :=
  leBytes 1 m.cls.toNat ++ leBytes 1 op ++ leBytes 1 (dcount m) ++ leBytes 1 m.epoch.toNat ++
    leBytes 2 m.tenant.toNat ++ leBytes 2 m.src.toNat ++ leBytes 2 m.dst.toNat ++ leBytes 1 m.hgen.toNat ++
    leBytes 1 m.jgen.toNat ++ leBytes 2 m.job.toNat ++ leBytes 2 m.ttag.toNat ++ leBytes 8 m.addr.toNat ++
    leBytes 4 m.len.toNat ++ zeros 4 ++ leBytes 8 m.operand.toNat ++ leBytes 6 m.nctr.toNat ++
    leBytes 1 m.oroad.toNat ++ [0]

/-- The HEAD flit of a message (R217). -/
def headFlit (op : Nat) (m : RoadMsg) : Bytes :=
  let b := headAad op m
  overlay (overlay b 0 (leBytes 1 (m.cls.toNat + 4 * b2n m.relayed + 8 * b2n m.replayed))) 28
    (leBytes 4 m.hseq.toNat) ++ padTo 16 m.tag

/-- The flits of a message (R218). -/
def msgFlits (op : Nat) (m : RoadMsg) : List Bytes :=
  headFlit op m :: (List.range (dcount m)).map fun k => padTo 64 (sub m.data (64 * k) 64)

/-- The nonce of a road message (R319). -/
def roadNonce (m : RoadMsg) : Bytes :=
  leBytes 6 m.nctr.toNat ++ leBytes 1 (m.oroad.toNat % 64) ++ leBytes 1 (endPkg m.src.toNat) ++ zeros 4

/-- The epoch that carries road key generation `g` (R315). -/
def epochOf (g : Nat) : Nat := (g + 254) % 255 + 1

/-- The key of a message: CTRL under the rack management key with tenant 0, every other under the tenant's road key
of its epoch, CURRENT or PREVIOUS (R226, R227). -/
def messageKey (d : Ctl) (m : RoadMsg) : Option Bytes :=
  if m.tenant = 0 then d.pkg.mgmtKey
  else (tenantById d m.tenant.toNat).bind fun e =>
    (List.find? (fun k => epochOf k.gen == m.epoch.toNat) (e.2.roadCur.toList ++ e.2.roadPrev.toList)).map RoadKey.key

/-! ### Roads of a domain (R211, R232, R233) -/

def roadUp (d : Ctl) (r : Nat) : Bool := (getRoad d r).state == .up

/-- The reserve road in use: road 62, or 63 while 62 is not UP (R233). -/
def reserveRoad (d : Ctl) : Option Nat :=
  if roadUp d 62 then some 62 else if roadUp d 63 then some 63 else none

/-- Road `x` still has messages from `src` to `dst` that wait there, or whose blocks the far end has not acknowledged. -/
def domainOn (x : Road) (src dst : Nat) : Bool :=
  let mine (m : RoadMsg) : Bool := m.src.toNat == src && m.dst.toNat == dst
  (x.waiting.any fun e => mine e.msg) || x.replay.any fun e => e.1 != x.txAck && !(e.1 - x.txAck).msb && match e.2 with
    | some c => mine c.2
    | none => false

/-- The mesh road toward package `q` that a domain uses (R211). Back from the other copy it stays there until what it sent there has
arrived, so that it keeps its order (R210; DESIGN CHOICE, log 48: R211 names no mechanism). -/
def meshFor (d : Ctl) (q src dst : Nat) : Option Nat :=
  let p := pkgNum d
  let c := (bits src 9 0 + bits dst 9 0) % 2
  let home := meshRoad p q c
  let other := meshRoad p q (1 - c)
  if roadUp d home && !(roadUp d other && domainOn (getRoad d other) src dst) then some home
  else if roadUp d other then some other
  else none

/-- The road a message takes by the peer's RD_ROUTE entry, and whether it is RELAYED (R211, R232, R235). -/
def roadFor (d : Ctl) (src dst : Nat) : Option (Nat × Bool) :=
  let q := endPkg dst
  match (getPeer d q).route with
  | .direct => (meshFor d q src dst).map fun r => (r, false)
  | .reserveDirect => (reserveRoad d).map fun r => (r, false)
  | .relaySrc => (reserveRoad d).map fun r => (r, true)
  | .relayDst => (meshFor d (neighbour q) src dst).map fun r => (r, true)
  | .unreachable => none

/-- The destination hamlet of a message is another tenant's by the owner map (R225). -/
def wrongOwner (d : Ctl) (tenant dst : Nat) : Bool :=
  !endIsHearth dst && (Tbl.getD d.owners (bits dst 9 0) 0).toNat != tenant

/-- What a road controller answers before it sends (R225): 0 it sends, 1 the destination hamlet is another tenant's,
2 the package is UNREACHABLE. -/
def sendCheck (d : Ctl) (tenant dst : Nat) : Nat :=
  if wrongOwner d tenant dst then 1 else if (getPeer d (endPkg dst)).route = .unreachable then 2 else 0

/-! ### Credits and arbitration (R220, R221) -/

/-- Receive buffers of a class, in flits. -/
def classFlits (cls : Nat) : Nat := if cls = 2 then 128 else if cls = 3 then 32 else 768

/-- Transmit credits of a class on a road. -/
def creditsOf (x : Road) (cls : Nat) : Nat := Tbl.getD x.credits cls (classFlits cls)

/-- Flits of a message. -/
def flitsOf (m : RoadMsg) : Nat := 1 + dcount m

/-- The messages of a class that may leave: the oldest of each tenant and source endpoint, where credits cover it. -/
def heads (x : Road) (cls : Nat) : List Waiting :=
  let l := x.waiting.filter fun e => e.msg.cls.toNat == cls
  l.filter fun e => (l.find? fun f => f.msg.tenant == e.msg.tenant && f.msg.src == e.msg.src) == some e &&
    decide (flitsOf e.msg ≤ creditsOf x cls)

/-- The next of a list of numbers after `n` in ascending order, round to the lowest. -/
def roundAfter (l : List Nat) (n : Nat) : Nat :=
  match l.filter (n < ·), l with
  | a :: r, _ => r.foldl min a
  | [], a :: r => r.foldl min a
  | [], [] => n

/-- Deficit round robin: the turn stays with the tenant whose deficit covers its message, else passes to the next tenant, which
gains its weight in flits; `fuel` bounds the turns. Answers the tenant and the deficits. -/
def takeTurn (size weight : Nat → Nat) (l : List Nat) : Nat → Nat → Tbl Nat → Nat × Tbl Nat
  | 0, t, w => (t, w)
  | fuel + 1, t, w =>
    if l.contains t && decide (size t ≤ Tbl.getD w t 0) then (t, w)
    else
      let n := roundAfter l t
      takeTurn size weight l fuel n (Tbl.modify w n 0 (· + weight n))

/-- Road weight of tenant identity `t` toward peer `q` (R221). -/
def weightToward (d : Ctl) (q t : Nat) : Nat :=
  match tenantById d t with
  | some e => max 1 (roadWeight d q e.1)
  | none => 16

/-- The road after message `e` leaves its queue: its tenant's deficit falls, and ends with its last message of the class. -/
def servedRoad (x : Road) (e : Waiting) : Road :=
  let k := 65536 * e.msg.cls.toNat + e.msg.tenant.toNat
  let rest := x.waiting.erase e
  let more := rest.any fun f => f.msg.cls == e.msg.cls && f.msg.tenant == e.msg.tenant
  { x with
    waiting := rest, lastSrc := Tbl.set x.lastSrc k e.msg.src.toNat
    deficit := if more then Tbl.set x.deficit k (Tbl.getD x.deficit k 0 - flitsOf e.msg) else Tbl.erase x.deficit k }

/-- The message a class sends next and the road after it: tenants by deficit round robin, a tenant's source hamlets round
robin (R221). -/
def classNext (d : Ctl) (q : Nat) (x : Road) (cls : Nat) : Option (Waiting × Road) :=
  let l := heads x cls
  let ts := (l.map fun e => e.msg.tenant.toNat).eraseDups
  let pick (t : Nat) : Option Waiting :=
    let own := l.filter fun e => e.msg.tenant.toNat == t
    let s := roundAfter (own.map fun e => e.msg.src.toNat) (Tbl.getD x.lastSrc (65536 * cls + t) 65535)
    own.find? fun e => e.msg.src.toNat == s
  let held := x.deficit.filterMap fun e => if e.1 / 65536 = cls then some (e.1 % 65536, e.2) else none
  let r := takeTurn (fun t => ((pick t).map fun e => flitsOf e.msg).getD 0) (weightToward d q) ts (18 * ts.length)
    (Tbl.getD x.turn cls 65535) held
  (pick r.1).map fun e => (e, servedRoad { x with
    turn := Tbl.set x.turn cls r.1, deficit := r.2.foldl (fun t e => Tbl.set t (65536 * cls + e.1) e.2) x.deficit } e)

/-- The message that leaves next: a REQ message that has waited 2 µs, else by class CTRL, SYNC, RSP, REQ (R221). -/
def nextMsg (d : Ctl) (q : Nat) (x : Road) : Option (Waiting × Road) :=
  match (heads x 0).find? fun e => decide (e.since + us 2 ≤ now d) with
  | some e => some (e, servedRoad x e)
  | none => (((classNext d q x 3).or (classNext d q x 2)).or (classNext d q x 1)).or (classNext d q x 0)

/-! ### Blocks as they leave (R212 to R216, R236) -/

/-- Link word A of a block of road `x`: sequence, ack, NAK, FENCED, TRAINING, and the credits that are due. -/
def linkWordA (x : Road) (seq : W32) (training : Bool) : Bytes :=
  let w := leBytes 4 seq.toNat ++ leBytes 4 x.rxAck.toNat ++
    leBytes 1 (b2n x.nakTx + 2 * b2n x.fencedTx + 4 * b2n training) ++ zeros 7 ++
    ((List.range 4).flatMap fun c => leBytes 2 (Tbl.getD x.creditDue c 0)) ++ zeros 36
  w ++ leBytes 4 (crc32c w).toNat

/-- Link word B: the mask of `n` flits from position 0 on, and the package's identity on road `r`; its second credit update is
empty. `before` is units 0 to 25, which its CRC covers too. -/
def linkWordB (d : Ctl) (r n : Nat) (before : Bytes) : Bytes :=
  let w := leBytes 4 (2 ^ n - 1) ++ leBytes 1 (pkgNum d) ++ leBytes 1 r ++ leBytes 1 d.pkg.gen.toNat ++ zeros 53
  w ++ leBytes 4 (crc32c (before ++ w)).toNat

/-- Unit 27: byte j is parity of codeword j mod 8, whose data are the bytes i of units 0 to 26 with i mod 8 = j mod 8. -/
def parityUnit (units : Bytes) : Bytes :=
  let word (k : Nat) : Bytes := (units.zipIdx.filter fun e => e.2 % 8 == k).map Prod.fst
  (List.range 64).map fun j => Config.rsParity (word (j % 8)) ⟨j / 8 % 8, Nat.mod_lt _ (by decide)⟩

/-- The 28 units of a block that leaves road `r`: flits from position 0 on, the other positions zeros. -/
def blockBytes (d : Ctl) (r : Nat) (seq : W32) (training : Bool) (flits : List Bytes) : Bytes :=
  let front := linkWordA (getRoad d r) seq training ++ padTo 1600 flits.flatten
  let units := front ++ linkWordB d r flits.length front
  units ++ parityUnit units

/-- A block goes on the line, with the message it carries. -/
def emitBlock (d : Ctl) (r : Nat) (seq : W32) (c : Option (Nat × RoadMsg)) : Ctl :=
  let bytes := blockBytes d r seq false ((c.map fun e => msgFlits e.1 e.2).getD [])
  emit (match c with | some e => emit d (.road r e.1 e.2) | none => d) (.block r bytes)

/-- A new block leaves on road `r`, which keeps it for replay; what its link words tell is due no more (R214, R220). -/
def sendBlock (d : Ctl) (r : Nat) (c : Option (Nat × RoadMsg)) : Ctl :=
  let seq := (getRoad d r).txSeq + 1
  modRoad (emitBlock d r seq c) r fun y => { y with
    txSeq := seq, replay := (y.replay ++ [(seq, c)]).drop (y.replay.length - 63), creditDue := [], linkDue := false }

/-- The tag of a message without data. -/
def retag (d : Ctl) (op : Nat) (m : RoadMsg) : RoadMsg :=
  { m with tag := ((messageKey d m).map fun k => gcmTag k (roadNonce m) (headAad op m) []).getD m.tag }

/-- What leaves for a waiting message: a TIME_PROBE and a TIME_REPLY take their t1 and t3 as they leave (R239); t3 stands in `len` as
its distance from t2 (log 14). -/
def leaving (d : Ctl) (op : Nat) (m : RoadMsg) : RoadMsg :=
  if m.replayed then m
  else if op = 0x3A then retag d op { m with addr := devNow d }
  else if op = 0x3B then retag d op { m with len := (devNow d - m.operand).setWidth 32 }
  else m

/-- The follower's probe has left with time t1. -/
def probeLeft (d : Ctl) (op : Nat) (m : RoadMsg) : Ctl :=
  if op = 0x3A then modTime d fun t => { t with probe := t.probe.map fun p => (m.addr, p.2) } else d

/-- The waiting messages of road `r` leave as far as credits reach; `fuel` bounds their number. A replayed message keeps its hop
sequence (R231). -/
def drainRoad (r : Nat) : Nat → Ctl → Ctl
  | 0, d => d
  | fuel + 1, d =>
    let x := getRoad d r
    if x.state != .up || x.fencedTx then d
    else match nextMsg d (roadPeer (pkgNum d) r) x with
      | none => d
      | some (e, y) =>
        let c := e.msg.cls.toNat
        let m := leaving d e.op (if e.msg.replayed then e.msg else { e.msg with hseq := x.hseqTx })
        let d := modRoad (probeLeft d e.op m) r fun _ => { y with
          hseqTx := if e.msg.replayed then y.hseqTx else y.hseqTx + 1
          credits := Tbl.set y.credits c (creditsOf y c - flitsOf e.msg) }
        drainRoad r fuel (sendBlock d r (some (e.op, m)))

def drain (d : Ctl) (r : Nat) : Ctl := drainRoad r (getRoad d r).waiting.length d

/-- Link words that are due leave in a block without flits: UP and FENCED roads carry them (R207, R214, R220). -/
def sendLinks (d : Ctl) : Ctl :=
  forEach ((d.roads.filter fun (e : Nat × Road) => e.2.linkDue && (e.2.state == .up || e.2.state == .fenced)).map Prod.fst) d
    fun d r => sendBlock d r none

/-- The message joins road `r`'s queue and leaves when its turn comes. -/
def queueMsg (d : Ctl) (r op : Nat) (m : RoadMsg) : Ctl :=
  drain (modRoad d r fun x => { x with waiting := x.waiting ++ [⟨op, m, now d⟩] }) r

/-- Takes the next nonce counter of (origin road, tenant) (R226). -/
def takeNctr (d : Ctl) (r tenant : Nat) : Nat × Ctl :=
  let k := 65536 * r + tenant
  let n := Tbl.getD d.nonces k 0
  (n, { d with nonces := Tbl.set d.nonces k (n + 1) })

/-- The epoch a message of a tenant is sent with: its CURRENT generation's. -/
def sendEpoch (d : Ctl) (tenant : Nat) : Nat :=
  match tenantById d tenant with
  | some e => (e.2.roadCur.map fun k => epochOf k.gen).getD 0
  | none => 0

/-- The mesh road whose turn the domain is while both copies are UP, from this package (R211). -/
def homeRoad (d : Ctl) (src dst : Nat) : Nat :=
  meshRoad (pkgNum d) (endPkg dst) ((bits src 9 0 + bits dst 9 0) % 2)

/-- The failed road of the pair whose replay a message must follow: its domain was on that road (R230). -/
def replayBefore (d : Ctl) (op : Nat) (m : RoadMsg) : Option Nat :=
  let home := homeRoad d m.src.toNat m.dst.toNat
  let mine (e : Nat × RoadMsg) : Bool := e.2.src == m.src && e.2.dst == m.dst
  if op = 0x38 ∨ op = 0x39 ∨ op = 0x3A ∨ op = 0x3B then none
  else [home, partnerRoad home].find? fun k =>
    let x := getRoad d k
    x.replayPending && (k == home || x.failed.any mine || x.behind.any mine)

/-- A sealed message enters road `r`'s queue; behind a replay in progress it waits with the failed road's messages
(R230), and before the MARKs of its domain are seen it is held (R235). -/
def placeMsg (d : Ctl) (r op : Nat) (m : RoadMsg) : Ctl :=
  let q := endPkg m.dst.toNat
  match replayBefore d op m with
  | some k => modRoad d k fun x => { x with behind := x.behind ++ [(op, m)] }
  | none =>
    if !m.relayed && op ≠ 0x0F && (getPeer d q).marks.any fun k => k.1 == m.src.toNat && k.2.1 == m.dst.toNat then
      modPeer d q fun x => { x with held := x.held ++ [(op, m)] }
    else queueMsg d r op m

/-- Sends a message of this package on road `r` in class `cls`: epoch, nonce, encryption of the data and the tag
(R218, R226). -/
def sendOn (d : Ctl) (r : Nat) (rel : Bool) (cls op : Nat) (m : RoadMsg) : Ctl :=
  let nn := takeNctr d r m.tenant.toNat
  let m := { m with
    epoch := BitVec.ofNat 8 (sendEpoch d m.tenant.toNat), nctr := BitVec.ofNat 48 nn.1, oroad := BitVec.ofNat 8 r
    relayed := rel, cls := BitVec.ofNat 2 cls }
  match messageKey d m with
  | none => d
  | some key =>
    let sealed := gcmSeal key (roadNonce m) (headAad op m) (padTo (64 * dcount m) m.data)
    placeMsg nn.2 r op { m with data := sealed.1, tag := sealed.2 }

/-- The messages a package keeps until they are answered, to send them again on another route (R219). -/
def keptUntilAnswered (op : Nat) : Bool := op == 0x22 || op == 0x23 || op == 0x24 || op == 0x27

/-- REQ and SYNC messages from an endpoint that await an answer: requests, and what is sent again until answered, COMMIT among it
(R219, R224). -/
def awaiting (d : Ctl) (e : Nat) : Nat :=
  (d.requests.filter fun q => 32 * pkgNum d + q.hamlet == e && !q.deferred && q.opcode != 0x23).length +
    d.peers.foldl (fun n p => n + (p.2.unacked.filter fun k => k.2.src.toNat == e).length) 0

/-- Hamlet `h` may have `n` more messages awaiting an answer within the limit of R224. -/
def roomForRequest (d : Ctl) (h n : Nat) : Bool := decide (awaiting d (32 * pkgNum d + h) + n ≤ 512)

/-- The tenant's messages may pass: it has joined, or the message is of the management domain (R315, R316). -/
def mayPass (d : Ctl) (tenant : W16) : Bool :=
  tenant == 0 || (((tenantById d tenant.toNat).map fun e => e.2.joined).getD false)

/-- A message that may leave goes on road `r`. -/
def sendNow (d : Ctl) (keep : Bool) (r : Nat) (rel : Bool) (op : Nat) (m : RoadMsg) : Ctl :=
  let k := (m.src.toNat, m.dst.toNat, m.tenant.toNat)
  let d := modPeer d (endPkg m.dst.toNat) fun p => { p with
    relayed := if rel && opClass op != 3 && !p.relayed.contains k then p.relayed ++ [k] else p.relayed
    unacked := if keep then p.unacked ++ [(op, m)] else p.unacked }
  sendOn d r rel (opClass op) op m

/-- Sends a message on the road of its domain, not to another tenant's hamlet (R225). Without a road, or without room within R224, it
is not sent; one that is kept until it is answered (`keep`) goes later. -/
def sendAs (keep : Bool) (d : Ctl) (op : Nat) (m : RoadMsg) : Ctl :=
  let late := if keep then modPeer d (endPkg m.dst.toNat) fun p => { p with unsent := p.unsent ++ [(op, m)] } else d
  if opClass op != 3 && wrongOwner d m.tenant.toNat m.dst.toNat then d
  else if !mayPass d m.tenant || (keep && !endIsHearth m.src.toNat && decide (512 ≤ awaiting d m.src.toNat)) then late
  else match roadFor d m.src.toNat m.dst.toNat with
    | none => late
    | some (r, rel) => sendNow d keep r rel op m

/-- Sends a message. -/
def sendMsg (d : Ctl) (op : Nat) (m : RoadMsg) : Ctl := sendAs (keptUntilAnswered op) d op m

/-- The messages that waited for a road or for room are tried again, in order. -/
def flushUnsent (d : Ctl) : Ctl :=
  let qs := (d.peers.filter fun (e : Nat × Peer) => !e.2.unsent.isEmpty).map Prod.fst
  forEach qs d fun d q =>
    (getPeer d q).unsent.foldl (fun d e => sendAs true d e.1 e.2) (modPeer d q fun p => { p with unsent := [] })

/-- A CTRL message to the Reeve of package `q` (R209, R226). -/
def sendCtrl (d : Ctl) (op q : Nat) (addr operand : W64) (len : W32) : Ctl :=
  sendMsg d op {
    cls := 3, epoch := 0, tenant := 0, src := BitVec.ofNat 16 (endpointHearth (pkgNum d)),
    dst := BitVec.ofNat 16 (endpointHearth q), addr := addr, operand := operand, len := len }

/-- The live peers: route not UNREACHABLE and not declared lost (R228). -/
def livePeers (d : Ctl) : List Nat :=
  (List.range 32).filter fun q => q != pkgNum d && (getPeer d q).route != .unreachable && !(getPeer d q).lost

/-! ### Requests (R224, R384) -/

/-- A transaction tag of hamlet `h` that is neither in use nor retired. -/
def freeTtag (d : Ctl) (h : Nat) : Nat :=
  let x := getHam d h
  let used (t : Nat) : Bool :=
    (d.requests.any fun q => q.hamlet == h && q.ttag == t) ||
      (d.peers.any fun p => (p.2.unacked ++ p.2.unsent).any fun e => e.2.src.toNat == 32 * pkgNum d + h && e.2.ttag.toNat == t) ||
      (match Tbl.find? x.retiredTtags t with | some s => decide (now d < s + us 40) | none => false)
  ((List.range 1024).find? fun k => !used ((x.nextTtag + k) % 65536)).elim x.nextTtag fun k => (x.nextTtag + k) % 65536

/-- Takes a transaction tag of hamlet `h`. -/
def takeTtag (d : Ctl) (h : Nat) : Nat × Ctl :=
  let t := freeTtag d h
  (t, modHam d h fun x => { x with nextTtag := (t + 1) % 65536 })

/-- The fields of a message that command `c` sends from hamlet `h` (R217, R383, R386). -/
def cmdMsg (d : Ctl) (c : Cmd) (h dst ttag : Nat) : RoadMsg :=
  { cls := 0, epoch := 0,
    tenant := BitVec.ofNat 16 (((Tbl.find? d.tenants (getSlice d c.slice).tenant).map fun t => t.ident.toNat).getD 0),
    src := BitVec.ofNat 16 (rackHamlet d h), dst := BitVec.ofNat 16 dst, hgen := (getHam d h).gen,
    jgen := BitVec.ofNat 8 c.jgen, job := BitVec.ofNat 16 c.job, ttag := BitVec.ofNat 16 ttag }

end Sys2Proof.Machine
end

