-- ==== Sys2Proof/Machine/Sched.lean ====
section
/-! DEFINITION. Scheduling (08): dispatch order, eligibility, the almanac, weighted shares, the watchman's prediction
and the choice of a preemption. Times of predictions are rational ns from the moment of decision. -/

namespace Sys2Proof.Machine
open Sys2Proof

/-! ### Models and costs -/

/-- The handle of the model a command runs or will run. -/
def runsModel (c : Cmd) : W32 := if c.ranModel = 0 then c.model else c.ranModel

/-- The model a command runs or will run. -/
def cmdModel (d : Ctl) (c : Cmd) : Option Model := Tbl.find? d.models (runsModel c).toNat

/-- The entry point of a model by kind (R142). -/
def entryOf (m : Model) (kind : Nat) : Option Entry := m.entries.find? fun e => e.kind == kind

/-- The entry point a command runs: its own opcode's, GQI_OP_RUN's when diverted (R257). -/
def cmdEntry (d : Ctl) (c : Cmd) : Option Entry :=
  (cmdModel d c).bind fun m => entryOf m (if c.diverted.isSome then 1 else c.opcode.toNat)

/-- The package hamlets an entry point uses (R142). -/
def entryHamlets (m : Model) (e : Entry) : List Nat := (m.records.take e.hamletCount).map Placement.hamlet

/-- A reservation's road share (R293); 0 without a road guarantee. -/
def roadShare (d : Ctl) (r : Reservation) : Nat :=
  let roads := (List.range 32).map (· + 8)
  let held := roads.filter fun k => Tbl.getD r.guarantees k 0 != 0
  if held.isEmpty then 0
  else (held.filter d.brownout.contains).foldl
    (fun a k => min a (ratFloor (1000 * Tbl.getD r.grants k 0 / (Tbl.getD r.guarantees k 1 : Nat)))) 1000

/-- Compiled cost in CCLK cycles as the watchman uses it in hamlet `h`: 4/3 on three channels (R192), scaled by the
road share of the slice (R293). -/
def scaledCost (d : Ctl) (i h : Nat) (e : Entry) : Nat :=
  let c := if threeChannel (getHam d h) then ceilDiv (4 * e.cost) 3 else e.cost
  if e.roadOps then match resvOf d i with
    | some r => let s := roadShare d r.2; if 1 ≤ s ∧ s < 1000 then ceilDiv (1000 * c) s else c
    | none => c
  else c

/-- Cycles in ns: 2/3 ns each. -/
def cycNs (c : Nat) : Rat := (2 * c : Nat) / 3

/-- The envelope of R125, with the cost of R192. -/
def inEnvelope (d : Ctl) (m : Model) (e : Entry) : Bool :=
  e.hamletCount == 1 && !e.roadOps && decide (e.inputBytes ≤ 224) && decide (e.outputBytes ≤ 256) &&
    decide ((if (entryHamlets m e).any fun h => threeChannel (getHam d h) then ceilDiv (4 * e.cost) 3 else e.cost) ≤ 525)

/-- Local and remote partitions of the granary, in bytes (R163). -/
def localBytes (x : Hamlet) : Nat := x.split * 524288

def remoteBytes (x : Hamlet) : Nat := (16 - x.split) * 524288

/-- The hang timer of a command runs (R393): some part reserving or bound, or an answer of a receiving hamlet awaited. -/
def hangRuns (c : Cmd) : Bool :=
  c.parts.any (fun p => p.2.state == .reserving || p.2.state == .bound) ||
    ((c.parts.all fun p => p.2.state == .staged) && c.grants.any fun g => decide (0 < g.acks))

/-- Granary bytes the commands of hamlet `h` hold locally. -/
def localUsed (d : Ctl) (h : Nat) : Nat := (partsIn d h).foldl (fun a e => a + e.2.2.granary) 0

/-! ### Slots (R248 to R250) -/

/-- What may bind now: everything eligible by weight, one slice, or nothing. -/
inductive SlotKind where
  | idle | exclusive (slice : Nat) | pool
  deriving DecidableEq, Repr

/-- The kind of an almanac entry; an EXCLUSIVE slot of a slice that is not ACTIVE acts as POOL. -/
def entryKind (d : Ctl) (e : AlmanacEntry) : SlotKind :=
  if e.kind = 0 then .idle
  else if e.kind = 1 ∧ (getSlice d e.slice).state = .active then .exclusive e.slice
  else .pool

/-- The slot in force of hamlet `h`. -/
def slotNow (d : Ctl) (h : Nat) : SlotKind :=
  let x := getHam d h
  match x.almanac.entries[x.entryInForce]? with
  | some e => entryKind d e
  | none => .pool

/-- The reservation that holds hamlet `h` in reserved mode names the slice (R243). -/
def resvNames (d : Ctl) (h i : Nat) : Bool :=
  match (getHam d h).reservation.bind (Tbl.find? d.reservations) with
  | some r => r.slices.contains i
  | none => false

/-- Slice `i` may dispatch in hamlet `h` now (R243, R250). -/
def mayDispatch (d : Ctl) (h i : Nat) : Bool :=
  if (getHam d h).reservedMode then resvNames d h i
  else match slotNow d h with
    | .idle => false
    | .exclusive s => s == i
    | .pool => decide (0 < (getSlice d i).weight)

/-! ### Dispatch order (R244 to R246) -/

/-- BULK band: a prefill chunk that is not diverted (R244). -/
def isBulk (c : Cmd) : Bool := c.opcode == 3 && c.diverted.isNone

/-- A slice's virtual time in hamlet `h`. -/
def vtimeOf (d : Ctl) (h i : Nat) : Rat := Tbl.getD (getSlice d i).vtime h 0

/-- Earlier by t_accept, then slice, lane and sequence (R110, R140, R245). -/
def acceptedBefore (a b : Cmd) : Bool :=
  if a.tAccept ≠ b.tAccept then timeLe a.tAccept b.tAccept
  else if a.slice ≠ b.slice then decide (a.slice < b.slice)
  else if a.lane ≠ b.lane then decide (a.lane < b.lane)
  else decide (a.seq < b.seq)

/-- `a` stands before `b` in the dispatch order of hamlet `h` (R245). -/
def dispatchBefore (d : Ctl) (h : Nat) (a b : Cmd) : Bool :=
  if isBulk a ≠ isBulk b then isBulk b
  else if !(getHam d h).reservedMode && slotNow d h == .pool && vtimeOf d h a.slice != vtimeOf d h b.slice then
    decide (vtimeOf d h a.slice < vtimeOf d h b.slice)
  else acceptedBefore a b

/-- Insertion into a list ordered by `lt`. -/
def insertBy {α : Type} (lt : α → α → Bool) (x : α) : List α → List α
  | [] => [x]
  | y :: t => if lt x y then x :: y :: t else y :: insertBy lt x t

def sortBy {α : Type} (lt : α → α → Bool) (l : List α) : List α := l.foldr (insertBy lt) []

/-- The commands waiting in hamlet `h`, in dispatch order. -/
def dispatchList (d : Ctl) (h : Nat) : List (Nat × Cmd × Part) :=
  sortBy (fun a b => dispatchBefore d h a.2.1 b.2.1) (inStates d h [.queued, .reserving, .parked])

/-- A command without a token and not resolved. -/
def unsettled (c : Cmd) : Bool := !c.token && c.status.isNone && c.phase != .withdrawn

/-- A command without a token and without a status, withdrawn or not. -/
def undecided (c : Cmd) : Bool := !c.token && c.status.isNone

/-- Every earlier command on its context has its token or is resolved (R110, R246). -/
def contextClear (d : Ctl) (id : Nat) (c : Cmd) : Bool :=
  !isContextOp c.opcode || !(d.cmds.any fun e => e.1 != id && e.2.slice == c.slice && e.2.context == c.context &&
    isContextOp e.2.opcode && undecided e.2 && acceptedBefore e.2 c)

/-- The place of a submission in its lane's order: its sequence with the wraps before it (R60). -/
def lanePos (c : Cmd) : Nat := c.wraps * 2 ^ 32 + c.seq.toNat

/-- Every earlier submission on its lane has its token or is resolved, and none is still to be fetched (R70, R72, R165). -/
def laneClear (d : Ctl) (id : Nat) (c : Cmd) : Bool :=
  !(d.cmds.any fun e => e.1 != id && e.2.slice == c.slice && e.2.lane == c.lane && e.2.gen == c.gen &&
    e.2.incarnation == c.incarnation && undecided e.2 && decide (lanePos e.2 < lanePos c)) &&
  !(onLane d c.slice c.lane c && (getLane d c.slice c.lane).reserved.any fun r => decide (r.2 * 2 ^ 32 + r.1.toNat < lanePos c))

/-- Core demand of a command. -/
def demandOf (d : Ctl) (c : Cmd) : Nat := ((cmdEntry d c).map Entry.coreDemand).getD 0

/-- Cores the slice's BULK commands hold in hamlet `h`. -/
def bulkCores (d : Ctl) (h i : Nat) : Nat :=
  (inStates d h [.bound]).foldl (fun a e => if e.2.1.slice = i ∧ isBulk e.2.1 then a + e.2.2.cores.length else a) 0

/-- The slice's prefill core cap in hamlet `h`, in cores (R261). -/
def capOf (d : Ctl) (i h : Nat) : Nat := 72 * Tbl.getD (getSlice d i).caps h 12

/-- A command is eligible (R246). -/
def eligible (d : Ctl) (h : Nat) (e : Nat × Cmd × Part) : Bool :=
  e.2.2.reserved && e.2.1.grants.all Grant.held && mayDispatch d h e.2.1.slice &&
    (getSlice d e.2.1.slice).state == .active && contextClear d e.1 e.2.1 &&
    (!isBulk e.2.1 || decide (bulkCores d h e.2.1.slice + demandOf d e.2.1 ≤ capOf d e.2.1.slice h))

/-! ### Bind prediction (R255) -/

/-- Interval units in ns. -/
def nsOf (t : Nat) : Rat := (t : Rat) / (2 ^ 32 : Nat)

/-- Park or restore time for a live state (R265, R267). -/
def moveNs (live : Nat) : Rat := 60000 + (6875 * live : Nat) / (2097152 : Nat)

/-- Compiled cycles of its schedule that a bound part has run (R265). -/
def elapsedCycles (d : Ctl) (p : Part) : Nat :=
  let t := nsOf (now d - p.bindAt) - (if p.resumed then moveNs p.live else 0)
  p.before + (if t ≤ 0 then 0 else ratFloor (t * 3 / 2))

/-- Time from now until a bound part frees its cores. -/
def releaseIn (d : Ctl) (h : Nat) (c : Cmd) (p : Part) : Rat :=
  match cmdEntry d c with
  | none => 0
  | some e =>
    let cost := scaledCost d c.slice h e
    let run := if p.resumed then moveNs p.live + cycNs (cost - p.before) else cycNs cost
    max 0 (run - nsOf (now d - p.bindAt))

/-- Cost of a waiting command in the simulation; a parked one adds its park and resume. -/
def waitingNs (d : Ctl) (h : Nat) (c : Cmd) (p : Part) : Rat :=
  match cmdEntry d c with
  | none => 0
  | some e => cycNs (scaledCost d c.slice h e) + (if p.state = .parked then 2 * moveNs p.live else 0)

/-- Free times of cores: groups (time, cores), ascending. -/
abbrev FreeAt := List (Rat × Nat)

/-- The earliest time at or after `t` at which `n` cores are free. -/
def earliest : FreeAt → Rat → Nat → Option Rat
  | _, t, 0 => some t
  | [], _, _ + 1 => none
  | (a, k) :: l, t, n + 1 => earliest l (max t a) (n + 1 - k)

/-- The groups left after the `n` earliest free cores are taken. -/
def takeCores : FreeAt → Nat → FreeAt
  | l, 0 => l
  | [], _ => []
  | (a, k) :: l, n + 1 => if n + 1 < k then (a, k - (n + 1)) :: l else takeCores l (n + 1 - k)

/-- A command of `n` cores and duration `dur` is placed at the earliest time from `t` on. -/
def place (l : FreeAt) (t : Rat) (n : Nat) (dur : Rat) : FreeAt :=
  match earliest l t n with
  | some b => insertBy (fun a c => decide (a.1 < c.1)) (b + dur, n) (takeCores l n)
  | none => l

/-- Time until a croft remap pause of hamlet `h` ends, 0 without one (R369: at most 5 ms). -/
def pauseLeft (d : Ctl) (h : Nat) : Rat :=
  match (getHam d h).retirement with
  | some r => max 0 (5000000 - nsOf (now d - r.start))
  | none => 0

/-- The free times of hamlet `h`'s cores in service. -/
def freeTimes (d : Ctl) (h : Nat) : FreeAt :=
  let bound := inStates d h [.bound]
  let used := bound.foldl (fun a e => a + e.2.2.cores.length) 0
  sortBy (fun a b => decide (a.1 < b.1))
    ((0, coreCount (getHam d h) - used) :: bound.map fun e => (releaseIn d h e.2.1 e.2.2, e.2.2.cores.length))

/-- The free times of hamlet `h` from `t` on after the commands `ahead` (at most 64) are placed. -/
def simulate (d : Ctl) (h : Nat) (ahead : List (Nat × Cmd × Part)) (t : Rat) : FreeAt :=
  (ahead.take 64).foldl (fun l e => place l t (demandOf d e.2.1) (waitingNs d h e.2.1 e.2.2)) (freeTimes d h)

/-- Predicted bind time from `t` on, behind the commands `ahead`. -/
def bindTime (d : Ctl) (h : Nat) (ahead : List (Nat × Cmd × Part)) (t : Rat) (n : Nat) : Option Rat :=
  earliest (simulate d h ahead (max t (pauseLeft d h))) (max t (pauseLeft d h)) n

/-- Cores the simulation holds idle at `t` (R264). -/
def idleAt (l : FreeAt) (t : Rat) : Nat := l.foldl (fun n e => if e.1 ≤ t then n + e.2 else n) 0

/-! ### Preemption (R263 to R266) -/

/-- The first stile at or after `e` cycles. -/
def nextStile (en : Entry) (e : Nat) : Option Stile := en.stiles.find? fun s => decide (e ≤ s.cycle)

/-- A park area of the model is free in hamlet `h` (R265). -/
def parkFree (d : Ctl) (h : Nat) (c : Cmd) : Bool :=
  match cmdModel d c with
  | none => false
  | some m => (m.records.any fun r => r.hamlet == h && decide (0 < r.parkPages)) &&
      !((inStates d h [.parked]).any fun e => runsModel e.2.1 == runsModel c) &&
      !((inStates d h [.bound]).any fun e => e.2.2.restoring && runsModel e.2.1 == runsModel c)

/-- A way to preempt: by kill or at a stile, when cores free, core time lost per core. -/
structure Way where
  kill : Bool
  free : Rat
  lost : Rat

/-- The ways open for victim `v` (R265), before the preempt mode. -/
def waysFor (d : Ctl) (h : Nat) (v : Nat × Cmd × Part) (granary : Nat) : List Way :=
  let e := elapsedCycles d v.2.2
  let stile := match (cmdEntry d v.2.1).bind fun en => nextStile en e with
    | some s =>
      if parkFree d h v.2.1 && decide (localUsed d h + granary ≤ localBytes (getHam d h)) then
        [⟨false, cycNs (s.cycle - e) + moveNs s.live, 2 * moveNs s.live⟩]
      else []
    | none => []
  let kill := if v.2.1.kills < 3 then [⟨true, 1000, cycNs e⟩] else []
  match (getSlice d v.2.1.slice).preempt with
  | .auto => stile ++ kill
  | .stileOnly => stile
  | .killOnly => kill

/-- Of two ways the one that loses less core time; ties go to the stile (listed first). -/
def lessLost (l : List Way) : Option Way :=
  l.foldl (fun a w => match a with | none => some w | some b => if w.lost < b.lost then some w else some b) none

def freesFirst (l : List Way) : Option Way :=
  l.foldl (fun a w => match a with | none => some w | some b => if w.free < b.free then some w else some b) none

/-- The way chosen: among those that free cores before `bind`, those that meet the deadline by core time lost, else the
one that frees cores earlier (R266). -/
def chooseWay (l : List Way) (bind : Option Rat) (meets : Rat → Bool) : Option Way :=
  let sooner := l.filter fun w => match bind with | some b => decide (w.free < b) | none => true
  let good := sooner.filter fun w => meets w.free
  if good.isEmpty then freesFirst sooner else lessLost good

/-- A postcard that has failed no condition of R133, on the port it was accepted on. -/
def onFastPath (c : Cmd) : Bool := c.slot.isSome && c.offPath.isNone && !c.moved

/-- The younger by t_accept comes first, then the later in dispatch order (R264). -/
def younger (d : Ctl) (h : Nat) (a b : Cmd) : Bool :=
  if a.tAccept ≠ b.tAccept then timeLe b.tAccept a.tAccept else dispatchBefore d h b a

/-- The victim for a preemptor: the youngest candidate whose cores with the `idle` ones cover its demand; never a fast-path
command (R263, R264). -/
def victimFor (d : Ctl) (h : Nat) (stepTrigger : Bool) (slice demand idle : Nat) : Option (Nat × Cmd × Part) :=
  let cands := (inStates d h [.bound]).filter fun e =>
    (if stepTrigger then isBulk e.2.1 else e.2.1.slice != slice) && !onFastPath e.2.1 &&
      decide (demand ≤ idle + e.2.2.cores.length)
  (sortBy (fun a b => younger d h a.2.1 b.2.1) cands).head?

/-- ns from now to a deadline, none without one. -/
def slackNs (d : Ctl) (deadline : W64) : Option Rat :=
  if deadline = noDeadline then none else some ((deadline - devNow d).toInt : Rat)

/-- The preemption command `c` would cause (R262, R266): victim and way. `bind` is its bind without one, and `commit` its
predicted commit by the time the cores are free, both counted from the trigger on. -/
def preemptFor (d : Ctl) (h : Nat) (c : Cmd) (stepTrigger : Bool) (demand idle : Nat) (bind : Option Rat)
    (commit : Rat → Option Rat) (granary : Nat) : Option ((Nat × Cmd × Part) × Way) :=
  if 64 ≤ queuedCount d h ∨ (getHam d h).preempting.isSome then none
  else (victimFor d h stepTrigger c.slice demand idle).bind fun v =>
    let ok (free : Rat) : Bool := match slackNs d c.deadline with
      | some s => (commit free).any fun t => decide (t ≤ s)
      | none => true
    (chooseWay (waysFor d h v granary) bind ok).map fun w => (v, w)

/-! ### Prediction (R253, R255, R256) -/

/-- Remote receive bytes free in hamlet `h`. -/
def remoteFree (x : Hamlet) : Nat := remoteBytes x - x.remoteUsed

/-- The compiled time that remains of a part of a command (R253). -/
def remainingIn (d : Ctl) (h : Nat) (c : Cmd) (p : Part) : Rat :=
  let cost := ((cmdEntry d c).map (scaledCost d c.slice h)).getD 0
  match p.state with
  | .bound => cycNs (cost - elapsedCycles d p)
  | .parked => cycNs (cost - p.before)
  | .queued | .reserving => cycNs cost
  | _ => 0

/-- The wait for remote grants (R253). -/
def grantWait (d : Ctl) (t : Nat) (e : Entry) : Rat :=
  e.dests.foldl (fun a x =>
    if x.1 / 32 ≠ pkgNum d then a + 450
    else
      let h := x.1 % 32
      let y := getHam d h
      let blocked := y.tenant == t && y.assign == .granted && (decide (remoteFree y < x.2) || !y.deferred.isEmpty)
      let holders := d.cmds.filter fun k => k.2.grants.any fun g => g.dest == x.1 && g.held
      let rest := holders.foldl (fun m k =>
        k.2.parts.foldl (fun m p => max m (remainingIn d p.1 k.2 p.2)) m) (0 : Rat)
      a + 40 + (if blocked then rest else 0)) 0

/-- The slice's core rate in a slot of the given kind (R256). -/
def slotRate (d : Ctl) (h i : Nat) (k : SlotKind) : Rat :=
  let n : Rat := (coreCount (getHam d h) : Nat)
  match k with
  | .idle => 0
  | .exclusive s => if s = i then n else 0
  | .pool =>
    let t := (getSlice d i).tenant
    let w := (slicesWhere d fun s => s.tenant == t).foldl (fun a j => a + (getSlice d j).weight) 0
    if w = 0 then 0 else n * ((getSlice d i).weight : Nat) / (w : Nat)

/-- A walk along the slots from now on: core-cycles still to be delivered, time reached, boundaries into slots of rate 0 met, and
that all are delivered. -/
structure Walk where
  left : Rat
  time : Rat := 0
  zeros : Nat := 0
  done : Bool := false

/-- A slot of rate `r` for `len` ns, cut off at the time `stop`. -/
def walkSlot (stop : Option Rat) (w : Walk) (r len : Rat) : Walk :=
  let len := match stop with | some e => min len (e - w.time) | none => len
  if w.done || decide (len ≤ 0) then w
  else if 0 < r ∧ w.left ≤ r * len * 3 / 2 then { w with left := 0, time := w.time + w.left / (r * 3 / 2), done := true }
  else { w with left := w.left - r * len * 3 / 2, time := w.time + len }

/-- The next slot begins, if it begins before `stop`. -/
def enterSlot (stop : Option Rat) (w : Walk) (s : Rat × Rat) : Walk :=
  if w.done || stop.any fun e => decide (e ≤ w.time) then w
  else walkSlot stop { w with zeros := w.zeros + b2n (s.1 == 0) } s.1 s.2

/-- The slots `cyc` over and over: as many whole cycles as bring neither the end nor `stop`, then one more. -/
def walkCycles (stop : Option Rat) (cyc : List (Rat × Rat)) (w : Walk) : Walk :=
  let period := cyc.foldl (fun a s => a + s.2) 0
  let gain := cyc.foldl (fun a s => a + s.1 * s.2 * 3 / 2) 0
  let enough := if gain = 0 then none else some (ratCeil (w.left / gain) - 1)
  let whole := stop.map fun e => ratFloor ((e - w.time) / period)
  match (match enough, whole with | some a, some b => some (min a b) | some a, none => some a | none, b => b) with
  | none => w
  | some k =>
    if w.done then w
    else cyc.foldl (enterSlot stop) { w with
      left := w.left - gain * (k : Nat), time := w.time + period * (k : Nat)
      zeros := w.zeros + k * (cyc.filter fun s => s.1 == 0).length }

/-- One slot without an end. -/
def walkForever (stop : Option Rat) (r : Rat) (w : Walk) : Walk :=
  match stop with
  | some e => walkSlot stop w r (e - w.time)
  | none => if w.done ∨ r = 0 then w else { w with left := 0, time := w.time + w.left / (r * 3 / 2), done := true }

/-- T and the count of boundaries into rate-0 slots before it, from the slot position now; a pending almanac takes over at its
t_act (R249, R256). -/
def progressTime (d : Ctl) (h i : Nat) (q : Rat) : Option (Rat × Nat) :=
  let x := getHam d h
  let pool := slotRate d h i .pool
  let slots (a : Almanac) : List (Rat × Rat) :=
    a.entries.map fun e => (slotRate d h i (entryKind d e), ((1000 * e.length : Nat) : Rat))
  let all := slots x.almanac
  let stop : Option Rat := x.pendingAlmanac.map fun a => max 0 ((a.tAct - devNow d).toInt : Rat)
  let w : Walk := { left := q, done := q == 0 }
  let w :=
    if all.isEmpty then walkForever stop pool w
    else
      let cur := all.getD x.entryInForce (0, 0)
      walkCycles stop (all.drop (x.entryInForce + 1) ++ all.take (x.entryInForce + 1))
        (walkSlot stop w cur.1 (max 0 (cur.2 - ((devNow d - x.entryStart).toInt : Rat))))
  let w := match x.pendingAlmanac with
    | some a => if a.entries.isEmpty then walkForever none pool w else walkCycles none (slots a) w
    | none => w
  if w.done then some (w.time, w.zeros) else none

/-- Slot penalty per boundary for a largest live state (R256). -/
def slotPenalty (live : Nat) : Rat := 120000 + (6875 * live : Nat) / (1048576 : Nat)

/-- The bound of a slice's progress on a commit in shared mode, T + 75 ns + Wp (R256); none where its share never reaches Q. -/
def shareBound (d : Ctl) (h i : Nat) (e : Entry) (ahead : List (Nat × Cmd × Part)) : Option Rat :=
  let mine := ahead.filter fun q => q.2.1.slice == i
  let bound := (inStates d h [.bound]).filter fun q => q.2.1.slice == i
  let q : Nat := e.coreDemand * scaledCost d i h e +
    mine.foldl (fun a q => a + demandOf d q.2.1 * ((cmdEntry d q.2.1).map (scaledCost d i h)).getD 0) 0 +
    bound.foldl (fun a q => a + q.2.2.cores.length *
      (((cmdEntry d q.2.1).map (scaledCost d i h)).getD 0 - elapsedCycles d q.2.2)) 0
  let live := (mine ++ bound).foldl (fun a q => max a (((cmdEntry d q.2.1).map Entry.maxLive).getD 0)) e.maxLive
  (progressTime d h i (q : Nat)).map fun r => r.1 + 75 + slotPenalty live * (r.2 : Nat)

/-- The predicted commit of a command that binds `bind` ns from now and then runs `run` ns (R253, R256); none where its slice never
reaches its share by a deadline it has. -/
def commitAt (d : Ctl) (h : Nat) (c : Cmd) (e : Entry) (ahead : List (Nat × Cmd × Part)) (run bind : Rat) : Option Rat :=
  if (getHam d h).reservedMode then some (bind + run)
  else match shareBound d h c.slice e ahead with
    | some t => some (max (bind + run) t)
    | none => if c.deadline = noDeadline then some (bind + run) else none

/-- The predicted commit in one hamlet, ns after now; none where the command is a predicted miss: it is predicted never to bind
(R243, R261), or its slice never reaches its share by a deadline it has (R252 to R256). -/
def predictIn (d : Ctl) (h : Nat) (c : Cmd) (e : Entry) (b0 : Rat) : Option Rat :=
  let x := getHam d h
  let i := c.slice
  if x.reservedMode && !resvNames d h i then none
  else if isBulk c && decide (capOf d i h < e.coreDemand) then none
  else
    let cNs := cycNs (scaledCost d i h e)
    let t := b0 + grantWait d (getSlice d i).tenant e
    let ahead := (dispatchList d h).filter fun q => dispatchBefore d h q.2.1 c
    (bindTime d h ahead t e.coreDemand).bind fun tb =>
      let pre := if !isBulk c && decide (((1000 * x.stepWait : Nat) : Rat) < tb - t) then
          preemptFor d h c true e.coreDemand (idleAt (simulate d h ahead t) t) (some (tb - t))
            (fun free => commitAt d h c e ahead cNs (t + free)) e.granaryLocal
        else none
      commitAt d h c e ahead cNs (match pre with | some p => min tb (t + p.2.free) | none => tb)

/-- B0 relative to now (R253). -/
def baseNs (d : Ctl) (c : Cmd) : Rat :=
  if c.slot.isSome then ((c.tAccept - devNow d).toInt : Rat) + 180 else 75

/-- The predicted commit of an entry point in every hamlet it uses. -/
def predict (d : Ctl) (c : Cmd) (m : Model) (e : Entry) : Option Rat :=
  (entryHamlets m e).foldl (fun a h => match a, predictIn d h c e (baseNs d c) with
    | some p, some q => some (max p q)
    | _, _ => none) (some (baseNs d c))

/-- A predicted commit meets the deadline (R252, R454). -/
def meetsDeadline (d : Ctl) (c : Cmd) (p : Option Rat) : Bool :=
  if c.deadline = noDeadline then p.isSome
  else match p, slackNs d c.deadline with
    | some p, some s => decide (p ≤ s)
    | _, _ => false

/-! ### The head (R246, R247, R262, R266) -/

/-- The head of a hamlet: the first eligible command in dispatch order (R246). -/
def headOf (d : Ctl) (h : Nat) : Option (Nat × Cmd × Part) := (dispatchList d h).find? (eligible d h)

/-- The commands ahead of a waiting one. -/
def aheadOf (d : Ctl) (h : Nat) (e : Nat × Cmd × Part) : List (Nat × Cmd × Part) :=
  (dispatchList d h).takeWhile fun q => q.1 != e.1

/-- The head cannot bind: its demand exceeds the idle cores. -/
def headStuck (d : Ctl) (h : Nat) (e : Nat × Cmd × Part) : Bool := decide ((idleCores d h).length < demandOf d e.2.1)

/-- The head's predicted bind without preemption, ns from now. -/
def headBind (d : Ctl) (h : Nat) (e : Nat × Cmd × Part) : Option Rat := bindTime d h (aheadOf d h e) 0 (demandOf d e.2.1)

/-- The preemption the head causes (R262, R263): for the slot trigger the victims are other slices' commands. A parked head's
commit lies its park and resume later (R255). -/
def headPreempts (d : Ctl) (h : Nat) (e : Nat × Cmd × Part) (step : Bool) : Option ((Nat × Cmd × Part) × Way) :=
  (cmdEntry d e.2.1).bind fun en =>
    preemptFor d h e.2.1 step en.coreDemand (idleCores d h).length (headBind d h e)
      (commitAt d h e.2.1 en (aheadOf d h e) (waitingNs d h e.2.1 e.2.2)) 0

/-- The STEP trigger (R262): a STEP head that cannot bind within the step wait, with the preemption it causes. -/
def stepTrigger (d : Ctl) (h : Nat) : Option (Nat × (Nat × Cmd × Part) × Way) :=
  (headOf d h).bind fun e =>
    let late := match headBind d h e with
      | some b => decide (((1000 * (getHam d h).stepWait : Nat) : Rat) < b)
      | none => true
    if !isBulk e.2.1 && headStuck d h e && late then (headPreempts d h e true).map fun r => (e.1, r) else none

/-- Time until the park of a part that stops at stile `s` has freed its cores (R265, R267). -/
def parkEnd (d : Ctl) (p : Part) (s : Stile) : Rat :=
  max 0 (cycNs (s.cycle - p.before) + (if p.resumed then moveNs p.live else 0) + moveNs s.live - nsOf (now d - p.bindAt))

/-- When a preemption frees cores for the head: the one that runs for it, or the one a STEP head would cause (R255). -/
def preemptFree (d : Ctl) (h : Nat) (e : Nat × Cmd × Part) : Option Rat :=
  match (getHam d h).preempting with
  | some (v, by_) =>
    if by_ = e.1 then
      ((Tbl.find? d.cmds v).bind fun k => Tbl.find? k.parts h).bind fun p => p.parkAt.map (parkEnd d p)
    else none
  | none => (stepTrigger d h).bind fun r => if r.1 = e.1 then some r.2.2.free else none

/-- The head's predicted bind under R255: without a preemption, or with one that frees cores sooner. -/
def headLimit (d : Ctl) (h : Nat) (e : Nat × Cmd × Part) : Option Rat :=
  match headBind d h e, preemptFree d h e with
  | some a, some b => some (min a b)
  | some a, none => some a
  | none, b => b

/-- The ready command of hamlet `h` (R247): the head, or the first later eligible command where it ends before the head's
predicted bind. -/
def readyCmd (d : Ctl) (h : Nat) : Option (Nat × Cmd × Part) :=
  (headOf d h).bind fun hd =>
    if !headStuck d h hd then some hd
    else if !(getHam d h).backfill then none
    else ((((dispatchList d h).dropWhile fun e => e.1 != hd.1).drop 1).find? (eligible d h)).filter fun e =>
      !headStuck d h e &&
        (headLimit d h hd).all fun b => decide (waitingNs d h e.2.1 { e.2.2 with state := .reserving } ≤ b)

/-! ### Virtual time (R251) -/

/-- The part of a command in hamlet `h` changed. -/
def modPart (d : Ctl) (id h : Nat) (f : Part → Part) : Ctl :=
  modCmd d id fun c => { c with parts := Tbl.update c.parts h f }

/-- CCLK cycles since interval time `t`: 1.5 per ns. -/
def cyclesSince (d : Ctl) (t : Nat) : Nat := (now d - t) * 3 / 2 ^ 33

/-- Hamlet `h` is in a POOL slot. -/
def inPool (d : Ctl) (h : Nat) : Bool := !(getHam d h).reservedMode && slotNow d h == .pool

/-- The POOL slot in force ends for a part that holds cores. -/
def bankPool (d : Ctl) (p : Part) : Part :=
  match p.poolSince with
  | some t => { p with poolCycles := p.poolCycles + cyclesSince d t, poolSince := none }
  | none => p

/-- Where a hamlet left or entered a POOL slot between two states, its bound commands' POOL time ends or begins. -/
def turnPool (old d : Ctl) : Ctl :=
  d.hamlets.foldl (fun d e =>
    if inPool old e.1 = inPool d e.1 then d
    else (inStates d e.1 [.bound]).foldl (fun d q => modPart d q.1 e.1 fun p =>
      if inPool d e.1 then { p with poolSince := some (now d) } else bankPool d p) d) d

/-- The slices with an eligible command in hamlet `h`. -/
def eligibleSlices (d : Ctl) (h : Nat) : List Nat :=
  (((dispatchList d h).filter (eligible d h)).map fun e => e.2.1.slice).eraseDups

/-- Slices that gained an eligible command in a hamlet between two states: the virtual time of each rises to the lowest among the
slices that had one before. -/
def raiseShares (old d : Ctl) : Ctl :=
  d.hamlets.foldl (fun d e =>
    match eligibleSlices old e.1 with
    | [] => d
    | was@(a :: l) =>
      let low := l.foldl (fun v i => min v (vtimeOf old e.1 i)) (vtimeOf old e.1 a)
      ((eligibleSlices d e.1).filter fun i => !was.contains i).foldl (fun d i =>
        if vtimeOf d e.1 i < low then modSlice d i fun s => { s with vtime := Tbl.set s.vtime e.1 low } else d) d) d

/-- What a change from `old` to `d` does to POOL time and to virtual times (R251). -/
def shareUp (old d : Ctl) : Ctl := raiseShares old (turnPool old d)

end Sys2Proof.Machine
end

