-- ==== Sys2Proof/Machine/Tally.lean ====
section
/-! DEFINITION. Tallies (R173 to R182): names, access, claims, waits and the operations at the tally's own package. -/

namespace Sys2Proof.Machine
open Sys2Proof

/-! ### Names (R174) -/

def tallyIsHearth (n : Nat) : Bool := bitOf n 31
def tallyPkg (n : Nat) : Nat := bits n 28 24
def tallyHamlet (n : Nat) : Nat := 8 * bits n 23 22 + bits n 21 19
def tallyIndex (n : Nat) : Nat := bits n 8 0

/-- The name names a tally. -/
def tallyNamed (n : Nat) : Bool :=
  bits n 30 29 == 0 && bits n 18 9 == 0 &&
    (if tallyIsHearth n then bits n 23 19 == 0 else decide (tallyIndex n < 256))

/-- The tally's endpoint (R208). -/
def tallyEndpoint (n : Nat) : Nat :=
  if tallyIsHearth n then endpointHearth (tallyPkg n) else 32 * tallyPkg n + tallyHamlet n

/-- The tenant's access to a tally of this package: its own hamlet's, or a Hearth tally of its blocks (R173, R175). -/
def tallyOpen (d : Ctl) (t n : Nat) : Bool :=
  if tallyIsHearth n then Tbl.find? d.tallyBlocks (tallyIndex n / 16) == some t
  else
    let x := getHam d (tallyHamlet n)
    x.tenant == t && (x.assign == .granted)

/-! ### Claims and waiters (R176 to R179) -/

/-- An owner with the fields that only tell command instances apart set to 0 where a context owns. -/
def normOwner (o : Owner) : Owner := if o.context = 0x10000 then o else { o with cmd := 0, inst := 0 }

/-- The command instance that claims as `o`. -/
def makerOf (o : Owner) : Nat × Nat × Nat := (o.pkg, o.cmd, o.inst)

/-- A waiter on tally `n` may be released or granted: while the tally's hamlet resets, only one of that hamlet (R181, R397). -/
def wakes (d : Ctl) (n : Nat) (w : Waiter) : Bool :=
  tallyIsHearth n || (getHam d (tallyHamlet n)).reset.isNone || w.tile.any fun t => t.hamlet.val == tallyHamlet n

/-- The tally claimed by `o`, and whether it replaces a lost owner. -/
def takeClaim (y : Tally) (o : Owner) (prior : Bool) : Tally :=
  { y with claim := .claimed, owner := some (normOwner o), maker := some (makerOf o), prior := prior }

/-- The first claimant that waits and may wake receives `r`: its owner, and the waiters then. -/
def grantFirst (ok : Waiter → Bool) (r : TallyResult) : List Waiter → Option (Owner × List Waiter)
  | [] => none
  | w :: l =>
    match w.due, w.kind, ok w with
    | none, .claim o, true => some (o, { w with due := some r } :: l)
    | _, _, _ => (grantFirst ok r l).map fun e => (e.1, w :: e.2)

/-- The tally as it ceases to be CLAIMED, to FREE or to ORPHANED: the first waiting claimant is granted in the same apply
(R177). -/
def passClaim (ok : Waiter → Bool) (y : Tally) (orphaned : Bool) : Tally :=
  match grantFirst ok (if orphaned then .priorLost else .granted) y.waiters with
  | some e => takeClaim { y with waiters := e.2 } e.1 orphaned
  | none => { y with claim := if orphaned then .orphaned else .free, owner := none, maker := none, prior := false }

/-- A COUNT wait is satisfied by a value (R175). -/
def satisfied (k : WaitKind) (v : W32) : Bool :=
  match k with
  | .ge w => !(v - w).msb
  | .eq w => v == w
  | .claim _ => false

/-- The waits of a tally evaluated after an apply (R176). -/
def evalWaits (ok : Waiter → Bool) (y : Tally) : Tally :=
  { y with
    waiters := y.waiters.map fun w =>
      if w.due.isNone && ok w && satisfied w.kind y.value then { w with due := some (.value y.value) } else w }

/-- A COUNT tally takes a value. -/
def setCount (d : Ctl) (n : Nat) (v : W32) : Ctl := modTally d n fun y => evalWaits (wakes d n) { y with value := v }

/-- The waits on a hamlet's tallies evaluated again once its reset is over (R181, R397). -/
def wakeTallies (d : Ctl) (h : Nat) : Ctl :=
  { d with
    tallies := Tbl.mapVal d.tallies fun n y =>
      if tallyIsHearth n || tallyHamlet n != h then y
      else if y.claimMode then
        (if y.claim = .claimed ∨ (grantFirst (wakes d n) .granted y.waiters).isNone then y
         else passClaim (wakes d n) y (y.claim == .orphaned))
      else evalWaits (wakes d n) y }

/-- A CLAIMED tally of this package whose owner satisfies `p` becomes ORPHANED (R179). -/
def orphanWhere (d : Ctl) (p : Owner → Bool) : Ctl :=
  { d with
    tallies := d.tallies.map fun e =>
      match e.2.owner with
      | some o => if e.2.claim == .claimed && p o then (e.1, passClaim (wakes d e.1) e.2 true) else e
      | none => e }

/-- The claim that the instance `k` made, or waits for, ends: the tally returns to FREE or to ORPHANED (R177, R178). -/
def endClaim (d : Ctl) (n : Nat) (k : Nat × Nat × Nat) (orphaned : Tally → Bool) : Ctl :=
  modTally d n fun y =>
    let mine (w : Waiter) : Bool := match w.kind with
      | .claim o => makerOf o == k
      | _ => false
    let y := { y with waiters := y.waiters.filter fun w => !mine w }
    if y.claim = .claimed ∧ y.maker = some k then passClaim (wakes d n) y (orphaned y) else y

/-- TLY_CLAIM on a tally of this package (R177). -/
def claimNow (d : Ctl) (n : Nat) (o : Owner) : TallyResult × Ctl :=
  let y := getTally d n
  match y.claim with
  | .claimed => (.held, d)
  | .free => (.granted, modTally d n fun y => takeClaim y o false)
  | .orphaned => (.priorLost, modTally d n fun y => takeClaim y o true)

/-- `o` may release a claim owned by `w`: the same context of the same slice and generation, or the same command
instance (R177). -/
def ownsClaim (w o : Owner) : Bool :=
  w.pkg == o.pkg && w.slice == o.slice && w.gen == o.gen && w.context == o.context &&
    (w.context != 0x10000 || (w.cmd == o.cmd && w.inst == o.inst))

/-- The tally is CLAIMED by an owner for which `o` may release. -/
def isOwner (y : Tally) (o : Owner) : Bool :=
  y.claim == .claimed && (match y.owner with | some w => ownsClaim w o | none => false)

/-- Codes of tally operations on roads (the model's own, log 14). -/
inductive TallyOp where
  | read | waitGe | waitEq | add | set | claim | claimWait | release | endFree | endOrphaned | undo
  deriving DecidableEq, Repr

def tallyOpCode : TallyOp → Nat
  | .read => 0 | .waitGe => 1 | .waitEq => 2 | .add => 3 | .set => 4 | .claim => 5 | .claimWait => 6 | .release => 7
  | .endFree => 8 | .endOrphaned => 9 | .undo => 10

def tallyOpOf (n : Nat) : Option TallyOp :=
  [TallyOp.read, .waitGe, .waitEq, .add, .set, .claim, .claimWait, .release, .endFree, .endOrphaned, .undo][n]?

/-- The operation's mode matches the tally's (R175). -/
def modeOk (y : Tally) : TallyOp → Bool
  | .read => true
  | .waitGe | .waitEq | .add | .set => !y.claimMode
  | _ => y.claimMode

/-- Codes of results on roads (log 14). -/
def resultCode : TallyResult → Nat
  | .value _ => 0 | .granted => 1 | .priorLost => 2 | .held => 3 | .owner => 4 | .notOwner => 5 | .badMode => 6
  | .denied => 7

def resultValue : TallyResult → Nat
  | .value v => v.toNat
  | _ => 0

def resultOf (code value : Nat) : TallyResult :=
  match code with
  | 0 => .value (BitVec.ofNat 32 value)
  | 1 => .granted | 2 => .priorLost | 3 => .held | 4 => .owner | 5 => .notOwner | 6 => .badMode | _ => .denied

/-- The value TLY_READ returns (R175). -/
def readTally (y : Tally) : W32 :=
  if y.claimMode then (match y.claim with | .free => 0 | .claimed => 1 | .orphaned => 2) else y.value

/-- A waiter joins the tally: released at once where its condition holds already (R176). -/
def addWaiter (d : Ctl) (n : Nat) (w : Waiter) : Ctl :=
  modTally d n fun y => evalWaits (wakes d n) { y with waiters := y.waiters ++ [w] }

/-- An immediate operation at a tally of this package, of the waiter that `w` makes: what it returns at once, none where it
blocks, and the state. Staged operations are only checked here. -/
def tallyAt (d : Ctl) (n : Nat) (op : TallyOp) (v : W32) (o : Owner) (w : WaitKind → Waiter) : Option TallyResult × Ctl :=
  let y := getTally d n
  if !modeOk y op then (some .badMode, d)
  else match op with
    | .read => (some (.value (readTally y)), d)
    | .waitGe => (none, addWaiter d n (w (.ge v)))
    | .waitEq => (none, addWaiter d n (w (.eq v)))
    | .add | .set => (none, d)
    | .claim => let r := claimNow d n o; (some r.1, r.2)
    | .claimWait =>
      let r := claimNow d n o
      if r.1 = .held ∨ !wakes d n (w (.claim o)) then (none, modTally d n fun y => { y with waiters := y.waiters ++ [w (.claim o)] })
      else (some r.1, r.2)
    | .release => (some (if isOwner y o then .owner else .notOwner), d)
    | .endFree => (some .owner, endClaim d n (makerOf o) fun _ => false)
    | .endOrphaned => (some .owner, endClaim d n (makerOf o) fun _ => true)
    | .undo => (some .owner, endClaim d n (makerOf o) Tally.prior)

/-- A staged operation applied at commit (R166, R175, R177). -/
def applyTally (d : Ctl) (n : Nat) (e : TallyEffect) (o : Owner) : Ctl :=
  let y := getTally d n
  match e with
  | .add x => setCount d n (y.value + x)
  | .set v => setCount d n v
  | .release => if isOwner y o then modTally d n fun y => passClaim (wakes d n) y false else d

/-- Who claims for a command: its context or the command instance owns (R173, R177), and the instance makes the claim (R178). -/
def ownerOf (d : Ctl) (id : Nat) (c : Cmd) : Owner :=
  { pkg := pkgNum d, slice := c.slice, gen := c.gen, cmd := id, inst := c.instance_,
    context := if isContextOp c.opcode then c.context else 0x10000 }

/-- Operands of a TALLY_OP or WAIT_REGISTER message (log 14): name, slice, generation and context; value, operation, whether the
claim is command-scoped, and the command; the ttag of the grant a staged operation uses, and the instance. -/
def tallyAddr (n : Nat) (o : Owner) : W64 :=
  BitVec.ofNat 64 (n + o.slice * 2 ^ 32 + o.gen.toNat * 2 ^ 40 + o.context % 65536 * 2 ^ 48)

def tallyOperand (op : TallyOp) (v : W32) (o : Owner) : W64 :=
  BitVec.ofNat 64 (v.toNat + 2 ^ 32 * tallyOpCode op + 2 ^ 40 * (o.context / 65536) + 2 ^ 41 * (o.cmd % 2 ^ 20))

def tallyLen (ttag : Nat) (o : Owner) : W32 := BitVec.ofNat 32 (ttag % 65536 + 65536 * (o.inst % 65536))

/-- The operation a TALLY_OP or WAIT_REGISTER operand names. -/
def operandOp (v : W64) : Option TallyOp := tallyOpOf (bits v.toNat 39 32)

end Sys2Proof.Machine
end

