-- ==== Sys2Proof/Machine/Pipe.lean ====
section
/-! DEFINITION. The life of a command, shared by every family: resolving, discarding, granary and remote reservations,
releasing cores, contexts and accounting (R72, R103, R110, R141, R163 to R169, R251, R260, R270). -/

namespace Sys2Proof.Machine
open Sys2Proof

/-! ### Accounting (R270, R271) -/

/-- A counter update on the lane and on the slice of a command. -/
def bump (d : Ctl) (i l : Nat) (f : Stats → Stats) : Ctl :=
  modLane (modSlice d i fun s => { s with stats := f s.stats }) i l fun ln => { ln with stats := f ln.stats }

/-- The counter of a completion's class (R271). -/
def countStatus (st : Status) (s : Stats) : Stats :=
  if st.cls = 0 then { s with ok := satAdd 64 s.ok 1 }
  else if st.cls = 1 then { s with late := satAdd 64 s.late 1 }
  else if st.cls = 2 then { s with apprentice := satAdd 64 s.apprentice 1 }
  else if st.cls = 0x11 then { s with infeasible := satAdd 64 s.infeasible 1 }
  else if st.cls = 0x10 then { s with refused := satAdd 64 s.refused 1 }
  else if st = St.shedNewest then { s with shedNewest := satAdd 64 s.shedNewest 1 }
  else if st = St.shedExpired then { s with shedExpired := satAdd 64 s.shedExpired 1 }
  else if st = St.brownout then { s with shedBrownout := satAdd 64 s.shedBrownout 1 }
  else if st.cls = 0x20 then { s with aborted := satAdd 64 s.aborted 1 }
  else if st.cls = 0x30 ∨ st.cls = 0x31 ∨ st.cls = 0x32 then { s with failed := satAdd 64 s.failed 1 }
  else s

/-- A detail record for a completion that is not OK, LATE or APPRENTICE (R520, R521). -/
def detailRecord (d : Ctl) (c : Cmd) (st : Status) : Ctl :=
  if succeeded st then d
  else modReeve d fun r =>
    let e : DetailRecord := {
      seq := r.nextDetail, time := c.tCommit, status := st, slice := c.slice, lane := c.lane, subSeq := c.seq,
      handle := handleOf d (getSlice d c.slice).tenant, gen := c.gen, opcode := c.opcode, model := c.ranModel }
    let full := decide (4096 ≤ r.detailLog.length)
    { r with
      detailLog := (if full then r.detailLog.drop 1 else r.detailLog) ++ [e], nextDetail := (r.nextDetail + 1) % 2 ^ 32,
      detailLost := if full then addCount r.detailLost 1 else r.detailLost }

/-! ### Cores (R159, R251) -/

/-- Rising numbers as ranges. -/
def keyRuns : List Nat → List Range
  | [] => []
  | a :: l => match keyRuns l with
    | r :: t => if a + 1 = r.off then ⟨a, r.len + 1⟩ :: t else ⟨a, 1⟩ :: r :: t
    | [] => [⟨a, 1⟩]

/-- Scratchpad ranges of hamlet `h` hold no defined working contents from now on (R156, R204). -/
def openSpad (d : Ctl) (h : Nat) (l : List Range) : Ctl :=
  if l.isEmpty then d else modHam d h fun x => { x with spadOpen := x.spadOpen ++ l.filter fun r => !x.spadOpen.contains r }

/-- A hamlet's whole working scratchpad holds nothing defined (R204). -/
def openAll (d : Ctl) (h : Nat) : Ctl := modHam d h fun x => { x with spadOpen := [⟨0, 48 * 2 ^ 20⟩] }

/-- The cores of a bound part are released: core time is accounted (R271), and with it POOL time (R251); its working scratchpad
holds nothing defined any more (R156). -/
def releaseCores (d : Ctl) (id h : Nat) : Ctl :=
  match Tbl.find? d.cmds id with
  | none => d
  | some c => match Tbl.find? c.parts h with
    | none => d
    | some p =>
      if p.state ≠ .bound then d
      else
        let n := cyclesSince d p.bindAt
        let d := bump d c.slice c.lane fun s => { s with
          engineCoreCycles := satAdd 64 s.engineCoreCycles (p.cores.length * n) }
        let d := openSpad d h (keyRuns (Tbl.keys p.working))
        modPart d id h fun p => { bankPool d p with cores := [], lastCores := p.cores, working := [] }

/-- Core-cycles divided by the slice's weight: what they add to its virtual time. For weight 0 the spec states no quotient: a free
value (log 52). -/
def shareOfCycles (s : Slice) (n : Int) : Rat := if s.weight = 0 then Config.weightless n else (n : Rat) / (s.weight : Nat)

/-- Virtual time of slice `i` in hamlet `h` moves by `n` core-cycles. -/
def moveShare (d : Ctl) (i h : Nat) (n : Int) : Ctl :=
  modSlice d i fun s => { s with vtime := Tbl.set s.vtime h (Tbl.getD s.vtime h 0 + shareOfCycles s n) }

/-- The correction of the slice's virtual time at an instance's final release: the POOL cycles it held against those it was charged,
none where it was never charged (R251). -/
def settleShare (d : Ctl) (id h : Nat) : Ctl :=
  match Tbl.find? d.cmds id with
  | none => d
  | some c => match Tbl.find? c.parts h with
    | none => d
    | some p =>
      if p.charged.isNone ∧ p.poolCycles = 0 then d
      else
        modPart (moveShare d c.slice h ((demandOf d c : Int) * ((p.poolCycles : Int) - (p.charged.getD 0 : Int)))) id h fun p =>
          { p with charged := none, poolCycles := 0 }

/-! ### Requests and staged sets -/

/-- The requests of a command are withdrawn and their tags retired (R384). -/
def retireRequests (d : Ctl) (id : Nat) : Ctl :=
  let mine := d.requests.filter fun q => q.cmd == id
  let d := mine.foldl (fun d q => modHam d q.hamlet fun x =>
    { x with retiredTtags := Tbl.set x.retiredTtags q.ttag (now d) }) d
  { d with requests := d.requests.filter fun q => q.cmd != id }

/-- The command instance `k` leaves every waiting list of this package's tallies, and a claim it was granted there ends (R178). -/
def dropWaits (d : Ctl) (id : Nat) (k : Nat × Nat × Nat) (orphan : Bool) : Ctl :=
  { d with
    tallies := Tbl.mapVal d.tallies fun n y =>
      let y := if y.waiters.any fun w => w.cmd == some id then { y with waiters := y.waiters.filter fun w => w.cmd != some id } else y
      if y.claim = .claimed ∧ y.maker = some k then passClaim (wakes d n) y (orphan || y.prior) else y }

/-- The home hamlet of a command: the first its entry point uses. It asks for grants and sends its messages. -/
def homeHamlet (d : Ctl) (c : Cmd) : Nat :=
  match cmdModel d c, cmdEntry d c with
  | some m, some e => (entryHamlets m e).headD 0
  | _, _ => (Tbl.keys c.parts).headD 0

/-- The set of (source, ttag) staged in hamlet `h` is dropped with its reservation (R167, R169). -/
def dropSet (d : Ctl) (h src ttag : Nat) : Ctl :=
  modHam d h fun x =>
    let mine (s : StagedSet) : Bool := s.src == src && s.ttag == ttag
    { x with
      sets := x.sets.filter fun s => !mine s, deferred := x.deferred.filter fun q => !(q.src == src && q.ttag == ttag),
      remoteUsed := x.remoteUsed - (x.sets.filter mine).foldl (fun a s => a + s.granted) 0 }

/-- A grant given up: dropped in a hamlet of this package, DISCARD or UNRESERVE to another (R169, R219). -/
def releaseGrant (d : Ctl) (c : Cmd) (h : Nat) (g : Grant) : Ctl :=
  if !g.asked then d
  else if g.dest / 32 = pkgNum d then dropSet d (g.dest % 32) (rackHamlet d h) g.ttag
  else if g.used = 0 ∧ endIsHearth g.dest then d
  else sendMsg d (if g.used = 0 then 0x22 else 0x24) (cmdMsg d c h g.dest g.ttag)

/-- A message to the package of tally `n` that ends a claim of the command there; it is kept until it is answered. -/
def tellTally (d : Ctl) (c : Cmd) (n : Nat) (o : Owner) (op : TallyOp) : Ctl :=
  let h := homeHamlet d c
  let t := takeTtag d h
  sendAs true t.2 0x25 { cmdMsg t.2 c h (tallyEndpoint n) t.1 with
    addr := tallyAddr n o, operand := tallyOperand op 0 o, len := tallyLen 0 o }

/-- A claim a discarded instance made is undone (R178): here, or by a message to the tally's package. -/
def undoClaim (d : Ctl) (id : Nat) (c : Cmd) (k : ClaimMade) (orphan : Bool) : Ctl :=
  let n := k.name.toNat
  let o := ownerOf d id c
  if tallyPkg n = pkgNum d then endClaim d n (makerOf o) fun _ => k.wasOrphaned || orphan
  else tellTally d c n o (if k.wasOrphaned || orphan then .endOrphaned else .endFree)

/-- A claim that a discarded instance asked another package for, its answer still outstanding, is undone there (R178). -/
def undoAsked (d : Ctl) (id : Nat) (c : Cmd) (q : Request) (orphan : Bool) : Ctl :=
  if (q.opcode = 0x25 ∨ q.opcode = 0x26) ∧ (operandOp q.operand = some .claim ∨ operandOp q.operand = some .claimWait) then
    tellTally d c (q.addr.toNat % 2 ^ 32) (ownerOf d id c) (if orphan then .endOrphaned else .undo)
  else d

/-! ### Resolving (R103, R107) -/

/-- The chunk record after an admitted chunk completed without committing: the admitted index returns (R260). -/
def rollbackChunk (d : Ctl) (c : Cmd) : Ctl :=
  if c.opcode = 3 then
    let k := 65536 * c.slice + c.context
    { d with
      contexts := Tbl.update d.contexts k fun x => { x with
        chunks := x.chunks.map fun r => { r with admitted := r.committed } } }
  else d

/-- The Hearth resolves a command's status: it has no token, holds nothing, and its completion is due at `t` (R103). -/
def resolveAt (d : Ctl) (id : Nat) (st : Status) (t : W64) : Ctl :=
  match Tbl.find? d.cmds id with
  | none => d
  | some c =>
    if c.status.isSome ∨ c.token then d
    else
      let d := if c.phase = .admitted ∨ c.phase = .running then rollbackChunk d c else d
      modCmd d id fun c => { c with
        status := some st, tCommit := t, credit := false, parts := [], waits := [],
        iCommit := if t = devNow d then now d else c.iAccept + ns (t - c.tAccept).toNat,
        phase := if writesTrailer { c with tCommit := t } st then .resolved else .delivered,
        ranModel := if c.firstBind.isSome then c.ranModel else 0 }

def resolve (d : Ctl) (id : Nat) (st : Status) : Ctl := resolveAt d id st (devNow d)

/-- The sheaves of a command's input are squashed; a model load that it runs is given up with its sheaves and LOADING pages
(R328). -/
def dropLoad (d : Ctl) (id : Nat) : Ctl :=
  squashWhere { d with loads := d.loads.filter fun e => e.2.cmd != id } (isOfCmd id)

/-- An instance becomes DISCARDED (R169): cores, granary, staged sets, grants, waits and tags go; its claims are undone,
or orphaned where its context is torn down (R178). The command itself stays. -/
def discardInstance (d : Ctl) (id : Nat) (orphan : Bool) : Ctl :=
  match Tbl.find? d.cmds id with
  | none => d
  | some c =>
    let h := homeHamlet d c
    let d := c.parts.foldl (fun d e => settleShare (releaseCores d id e.1) id e.1) d
    let d := c.grants.foldl (fun d g => releaseGrant d c h g) d
    let d := c.claims.foldl (fun d k => undoClaim d id c k orphan) d
    let d := (d.requests.filter fun q => q.cmd == id).foldl (fun d q => undoAsked d id c q orphan) d
    let d := dropWaits (retireRequests d id) id (makerOf (ownerOf d id c)) orphan
    let d := c.parts.foldl (fun d e => modHam d e.1 fun x => { x with
      preempting := x.preempting.filter fun p => p.1 != id }) d
    modCmd d id fun c => { c with
      parts := [], grants := [], writes := [], output := [], tallyOps := [], claims := [], waits := [], seen := [], cycles := 0,
      instance_ := c.instance_ + 1 }

/-- A command without a token is DISCARDED and completes with a status (R169), or with the one its first failed check set before
(R107). -/
def discard (d : Ctl) (id : Nat) (st : Status) : Ctl :=
  match Tbl.find? d.cmds id with
  | none => d
  | some c =>
    if c.status.isSome ∨ c.token then d
    else resolve (dropLoad (discardInstance d id (st == St.tornDown)) id) id (c.early.getD st)

/-- Every command without a token that satisfies `p` is discarded with a status. -/
def discardWhere (d : Ctl) (p : Nat → Cmd → Bool) (st : Status) : Ctl :=
  (d.cmds.filter fun e => unsettled e.2 && p e.1 e.2).foldl (fun d e => discard d e.1 st) d

/-! ### Contexts (R110, R179, R399) -/

def ctxKey (i ctx : Nat) : Nat := 65536 * i + ctx

/-- The operand of an ORPHAN_NOTICE (log 14): slice, generation, context, and whether every context of the slice. -/
def orphanOperand (i : Nat) (gen : Byte) (ctx : Nat) (all : Bool) : W64 :=
  BitVec.ofNat 64 (i + 256 * gen.toNat + 65536 * ctx + 2 ^ 33 * b2n all)

/-- The other packages learn that claims of a context, or of a slice, are ORPHANED (R179). -/
def sendOrphan (d : Ctl) (i : Nat) (gen : Byte) (ctx : Nat) (all : Bool) : Ctl :=
  forEach (livePeers d) d fun d q => sendCtrl d 0x34 q 0 (orphanOperand i gen ctx all) 0

/-- A context is torn down: its commands are discarded, its claims ORPHANED, its state emptied (R399). -/
def tearDown (d : Ctl) (i ctx : Nat) : Ctl :=
  let d := discardWhere d (fun _ c => c.slice == i && isContextOp c.opcode && c.context == ctx) St.tornDown
  let d := orphanWhere d fun o => o.pkg == pkgNum d && o.slice == i && o.context == ctx
  let d := sendOrphan d i (getSlice d i).gen ctx false
  { d with contexts := Tbl.erase d.contexts (ctxKey i ctx) }

/-- Every context of a slice. -/
def sliceContexts (d : Ctl) (i : Nat) : List Nat :=
  (d.contexts.filter fun e => e.1 / 65536 == i).map fun e => e.1 % 65536

/-- A context holds state in hamlet `h`: its model has a context region there. -/
def contextIn (d : Ctl) (k h : Nat) : Bool :=
  match (Tbl.find? d.contexts k).bind fun x => Tbl.find? d.models x.model.toNat with
  | some m => m.records.any fun r => r.hamlet == h
  | none => false

/-! ### Reservations of receive space (R164) -/

/-- The grant at position `k` of a command changed. -/
def modGrant (d : Ctl) (id k : Nat) (f : Grant → Grant) : Ctl :=
  modCmd d id fun c => { c with grants := c.grants.modify k f }

/-- Hamlet `h` holds a reservation of (source, ttag): an empty staged set. -/
def holdSpace (d : Ctl) (h src ttag tenant bytes : Nat) : Ctl :=
  modHam d h fun x => { x with
    remoteUsed := x.remoteUsed + bytes,
    sets := x.sets ++ [{ src := src, ttag := ttag, dest := h, tenant := tenant, granted := bytes }] }

/-- A hamlet can grant a request now: space is free, none is deferred before it, and it is not resetting (R164, R397). -/
def canGrant (x : Hamlet) (bytes : Nat) : Bool :=
  x.deferred.isEmpty && x.reset.isNone && decide (x.remoteUsed + bytes ≤ remoteBytes x)

/-- The job generation a command carries is declared dead: its first road operation ends it (R414). -/
def jobDead (d : Ctl) (c : Cmd) : Bool := c.job != 0 && d.jobs.any fun j => j.2.ident == c.job && j.2.dead.contains c.jgen

/-- The command asks for its next grant, from its home hamlet (R164). -/
def askGrant (d : Ctl) (id : Nat) (c : Cmd) (k : Nat) (g : Grant) : Ctl :=
  let h := homeHamlet d c
  let t := takeTtag d h
  let d := modGrant t.2 id k fun g => { g with asked := true, ttag := t.1 }
  let tenant := (getSlice d c.slice).tenant
  if g.dest / 32 = pkgNum d then
    let q := g.dest % 32
    let x := getHam d q
    if x.tenant ≠ tenant ∨ x.assign ≠ .granted then discard d id St.memory
    else if remoteBytes x < g.bytes then discard d id St.program
    else if canGrant x g.bytes then
      modGrant (holdSpace d q (rackHamlet d h) t.1 tenant g.bytes) id k fun g => { g with held := true }
    else modHam d q fun x => { x with
        deferred := x.deferred ++ [{ src := rackHamlet d h, ttag := t.1, tenant := tenant, bytes := g.bytes }] }
  else if jobDead d c then discard d id St.jobDead
  else
    let m := { cmdMsg d c h g.dest t.1 with len := BitVec.ofNat 32 g.bytes }
    match sendCheck d m.tenant.toNat g.dest with
    | 0 =>
      let q : Request := {
        hamlet := h, ttag := t.1, cmd := id, inst := c.instance_, peer := endPkg g.dest, opcode := 0x21, time := now d }
      { sendMsg d 0x21 m with requests := d.requests ++ [q] }
    | 1 => discard d id St.memory
    | _ => discard d id St.roadTimeout

/-- Index of the first grant not held, with the grant. -/
def nextGrant (l : List Grant) : Option (Nat × Grant) :=
  ((List.range l.length).zip l).find? fun e => !e.2.held

/-- The commands that must ask for a next grant: every earlier one held, this one not asked, locally reserved; a RESERVE to another
package waits for room within R224. -/
def asking (d : Ctl) : Option (Nat × Cmd × Nat × Grant) :=
  d.cmds.findSome? fun e =>
    if e.2.phase == .running && unsettled e.2 && e.2.parts.all fun p => p.2.reserved then
      match nextGrant e.2.grants with
      | some (k, g) =>
        if g.asked || (g.dest / 32 != pkgNum d && !roomForRequest d (homeHamlet d e.2) 1) then none else some (e.1, e.2, k, g)
      | none => none
    else none

/-- The first deferred request of a hamlet of this package that fits now (R164). -/
def grantable (d : Ctl) : Option (Nat × Deferred) :=
  d.hamlets.findSome? fun e => match e.2.deferred with
    | q :: _ => if canGrant { e.2 with deferred := [] } q.bytes then some (e.1, q) else none
    | [] => none

/-- A deferred request is granted: to a command here, or by GRANT to its source. -/
def giveDeferred (d : Ctl) (h : Nat) (q : Deferred) : Ctl :=
  let d := modHam d h fun x => { x with deferred := x.deferred.drop 1 }
  let d := holdSpace d h q.src q.ttag q.tenant q.bytes
  if q.src / 32 = pkgNum d then
    { d with
      cmds := Tbl.mapVal d.cmds fun _ c => { c with
        grants := c.grants.map fun g =>
          if g.asked && g.ttag == q.ttag && g.dest == rackHamlet d h && homeHamlet d c == q.src % 32 then { g with held := true } else g } }
  else
    sendMsg d 0x14 {
      cls := 1, epoch := 0, src := BitVec.ofNat 16 (rackHamlet d h), dst := BitVec.ofNat 16 q.src,
      ttag := BitVec.ofNat 16 q.ttag, tenant := ((Tbl.find? d.tenants q.tenant).map Tenant.ident).getD 0 }

/-- Deferred requests that fit are granted, and commands ask for their next grants, until nothing moves. -/
def settle : Nat → Ctl → Ctl
  | 0, d => d
  | fuel + 1, d =>
    match grantable d with
    | some (h, q) => settle fuel (giveDeferred d h q)
    | none => match asking d with
      | some (id, c, k, g) => settle fuel (askGrant d id c k g)
      | none => d

/-- Enough rounds for every deferred request and every grant still to ask for. -/
def settled (d : Ctl) : Ctl :=
  settle (d.hamlets.foldl (fun a e => a + e.2.deferred.length) 1 + d.cmds.foldl (fun a e => a + e.2.grants.length) 0 +
    d.cmds.length) d

/-! ### Lanes (R66, R69, R72) -/

/-- A DMA request of a slice fails: a record of detector 0x16 (R86, R367, R378). -/
def dmaFault (d : Ctl) (i : Nat) : Ctl := faultRecord d 0x16 1 2 0xFFFF 0xFF (handleOf d (getSlice d i).tenant) i 0

/-- The entry of a command leaves the table: its completion entry is written, or its lane is gone. -/
def dropCmd (d : Ctl) (id : Nat) : Ctl := { d with cmds := Tbl.erase d.cmds id }

/-- The oldest outstanding submission of a lane; none while a doorbelled entry before it is still to be fetched (R70, R72). -/
def oldest (d : Ctl) (i l : Nat) : Option (Nat × Cmd) :=
  ((outstanding d i l).foldl (fun a e => match a with
    | none => some e
    | some b => if lanePos e.2 < lanePos b.2 then some e else some b) none).filter fun e =>
      !((getLane d i l).reserved.any fun r => decide (r.2 * 2 ^ 32 + r.1.toNat < lanePos e.2))

/-- The lane enters ERROR and fetches no more (R57). -/
def laneError (d : Ctl) (i l : Nat) : Ctl := modLane d i l fun ln => { ln with state := .error, reserved := [] }

end Sys2Proof.Machine
end

