-- ==== Sys2Proof/Machine/Regs.lean ====
section
/-! DEFINITION. Register reads and writes (R14, R63, R422 to R426, R437 to R451, R495 to R510): BAR2, BAR4 and
the registers of the lane windows. -/

namespace Sys2Proof.Machine
open Sys2Proof

/-! ### Reads and shadows (R442 to R444, R498) -/

/-- HRT_REG_ERR bits: 0 SHADOW_MISS, 1 BAD_ACCESS. -/
def setRegErr (d : Ctl) (b : Nat) : Ctl := modReeve d fun r => { r with regErr := r.regErr ||| BitVec.ofNat 2 (2 ^ b) }

/-- BAR0 and BAR4 answer in operation only; BAR2 also in lantern state (R24, R494). -/
def barUp (d : Ctl) : RegAddr → Bool
  | .bar2 _ => d.pkg.life == .operating || d.pkg.life == .lantern
  | _ => d.pkg.life == .operating

/-- The shadow a source has for an address: one per BAR2 source, one per port and lane window (R443). -/
def getShadow (d : Ctl) (src : RegSource) : RegAddr → Option (Nat × W32)
  | .bar0 s l _ => match src with
    | .port p => Tbl.find? (getPort d p).laneShadow (64 * s.val + l.val)
    | .reeve => none
  | _ => match src with
    | .port p => (getPort d p).shadow
    | .reeve => d.reeve.shadow

def setShadow (d : Ctl) (src : RegSource) (a : RegAddr) (v : Nat × W32) : Ctl :=
  match a with
  | .bar0 s l _ => match src with
    | .port p => modPort d p fun x => { x with laneShadow := Tbl.set x.laneShadow (64 * s.val + l.val) v }
    | .reeve => d
  | _ => match src with
    | .port p => modPort d p fun x => { x with shadow := some v }
    | .reeve => modReeve d fun r => { r with shadow := some v }

/-- A slice's window answers on the ports it is bound to. -/
def windowOn (d : Ctl) (src : RegSource) (s : Nat) : Bool :=
  match src with
  | .port p => boundOn (getSlice d s) p && (getSlice d s).state != .portLost
  | .reeve => true

/-- An MSI-X table word (R501): address low, high, data, vector control. -/
def msixWord (x : PortState) (off : Nat) : W32 :=
  if off < 0x8000 then
    let e := Tbl.getD x.msix (off / 16) {}
    if off % 16 = 0 then e.addr.extractLsb' 0 32
    else if off % 16 = 4 then e.addr.extractLsb' 32 32
    else if off % 16 = 8 then e.data
    else BitVec.ofNat 32 (b2n e.masked)
  else if off < 0x8100 then
    let w := (off - 0x8000) / 4
    BitVec.ofNat 32 (ofBitList ((List.range 32).filter fun k => x.pba.contains (32 * w + k)))
  else 0

/-- The offset within the space of an address, and its live words. -/
def addrOff : RegAddr → Nat
  | .bar0 _ _ off => off.toNat
  | .bar2 off => off.toNat
  | .bar4 off => off.toNat

def liveWord (d : Ctl) (src : RegSource) (a : RegAddr) (off : Nat) : W32 :=
  match a with
  | .bar0 s l _ => if windowOn d src s.val then laneWord d s.val l.val off else 0
  | .bar2 _ => bar2Word d src off
  | .bar4 _ => match src with
    | .port p => msixWord (getPort d p) off
    | .reeve => 0

/-- The 64-bit pair whose _LO lies at an offset, where the address's space has one there (R442). -/
def livePair (d : Ctl) (src : RegSource) (a : RegAddr) (off : Nat) : Option W64 :=
  match a with
  | .bar0 s l _ => if windowOn d src s.val && windowLive d s.val l.val then lanePair d s.val off else none
  | .bar2 _ => if d.pkg.life = .lantern ∧ !lanternReadable off then none else pairAt d off
  | .bar4 _ => none

/-- An access of the space's widths and alignment (R63, R498). -/
def goodAccess (off width : Nat) : Bool := (width == 4 || width == 8) && off % width == 0

/-- BAD_ACCESS is BAR2's; the other spaces ignore the access. -/
def badAccess (d : Ctl) : RegAddr → Ctl
  | .bar2 _ => setRegErr d 1
  | _ => d

/-- A register read: a 64-bit read takes both halves and no shadow; a 32-bit read of _LO latches the high word; a
32-bit read of _HI returns the shadow, or the live word with SHADOW_MISS (R442, R444); a read of another width or alignment returns
0 (R63, R498). -/
def regRead (d : Ctl) (src : RegSource) (a : RegAddr) (width : Nat) : Ctl :=
  let off := addrOff a
  if !barUp d a then d
  else if !goodAccess off width then emit (badAccess d a) (.readValue src 0)
  else if width = 8 then
    emit d (.readValue src (liveWord d src a (off + 4) ++ liveWord d src a off))
  else if off % 8 = 0 then
    match livePair d src a off with
    | some v => setShadow (emit d (.readValue src (v &&& 0xFFFFFFFF))) src a (off, v.extractLsb' 32 32)
    | none => emit d (.readValue src ((liveWord d src a off).setWidth 64))
  else
    match livePair d src a (off - 4) with
    | some v =>
      match getShadow d src a with
      | some (o, hi) =>
        if o = off - 4 then emit d (.readValue src (hi.setWidth 64))
        else setRegErr (emit d (.readValue src (v >>> 32))) 0
      | none => setRegErr (emit d (.readValue src (v >>> 32))) 0
    | none => emit d (.readValue src ((liveWord d src a off).setWidth 64))

/-! ### Counters (R440, R496) -/

/-- The writable counters of BAR2, by the offset of their _LO register. -/
def counterAt (d : Ctl) (off : Nat) : Option W64 :=
  if off = 0x048 ∨ off = 0x050 ∨ off = 0x060 ∨ off = 0x068 ∨ off = 0x4020 then pairAt d off
  else if 0x10000 ≤ off ∧ off < 0x20000 ∧ 0x040 ≤ off % 0x800 ∧ off % 0x800 ≤ 0x060 then pairAt d off
  else if 0x20000 ≤ off ∧ off < 0x30000 then pairAt d off
  else if 0x30000 ≤ off ∧ off < 0x31000 then pairAt d off
  else none

/-- The counter at an offset takes a value. -/
def setCounter (d : Ctl) (off : Nat) (v : W64) : Ctl :=
  if off = 0x048 then modReeve d fun r => { r with tmrCorr := v }
  else if off = 0x050 then modReeve d fun r => { r with faultLost := v }
  else if off = 0x060 then modReeve d fun r => { r with msgDrops := v }
  else if off = 0x068 then modReeve d fun r => { r with detailLost := v }
  else if off = 0x4020 then modTime d fun t => { t with ppsGlitch := v }
  else if off < 0x20000 then
    let o := off % 0x800
    modHam d ((off - 0x10000) / 0x800) fun x =>
      if o = 0x040 then { x with eccCe := v }
      else if o = 0x048 then { x with eccUe := v }
      else if o = 0x050 then { x with eccLink := v }
      else if o = 0x058 then { x with commitDiscards := v }
      else { x with staleRsp := v }
  else if off < 0x30000 then
    modRoad d ((off - 0x20000) / 0x400) fun r => { r with counters := Tbl.set r.counters (off % 0x400 / 8 - 1) v }
  else modPkg d fun k => { k with bridgeRetry := Tbl.set k.bridgeRetry ((off - 0x30000) / 0x400) v }

/-- What a software write loads into a counter: a 64-bit write the whole value, a 32-bit write to _LO the low word
with the high word 0, a 32-bit write to _HI nothing (R496). -/
def counterLoad (hi : Bool) (width : Nat) (v : W64) : Option Nat :=
  if hi then none else if width = 8 then some v.toNat else some (v.toNat % 2 ^ 32)

/-! ### Ledger registers (R448, R451, R505) -/

/-- The most recent journal sequence. -/
def lastSeq (d : Ctl) : Nat := ((d.reeve.journal.getLast?).map Prod.fst).getD 0

/-- A write of a range register: an offset outside the mirror keeps the value and sets BAD_ACCESS (R505); a change
sets LDG_CFG_SEQ (R449). -/
def rangeWrite (d : Ctl) (n : Nat) (limit : Bool) (v : W32) : Ctl :=
  let o := v &&& 0xFFFFC#32
  if o.toNat < 0x40000 ∨ 0x7FFFF < o.toNat then setRegErr d 1
  else
    let old := if limit then ldgLimit d.ledger n else ldgBase d.ledger n
    if old = o then d
    else
      let l := d.ledger
      let d := { d with
        ledger := if limit then { l with limit := Tbl.set l.limit n o } else { l with base := Tbl.set l.base n o } }
      setCfgSeq d (lastSeq d)

/-- LDG_COMMIT.COMMIT (R451). -/
def ledgerCommit (d : Ctl) : Ctl :=
  let l := d.ledger
  if l.commitSeq.toNat = l.cfgSeq then { d with ledger := { l with reference := l.ref, state := 1 } }
  else { d with ledger := { l with stale := true } }

/-- LDG_COMMIT.CAPTURE (R451). -/
def ledgerCapture (d : Ctl) : Ctl := { d with ledger := { d.ledger with capturing := true } }

/-- A write of LDG_COMMIT; both fields at once act as COMMIT (R451). -/
def ledgerCommitWrite (d : Ctl) (v : W32) : Ctl :=
  if v.getLsbD 0 then ledgerCommit d else if v.getLsbD 1 then ledgerCapture d else d

/-- A write to the ledger block. -/
def ledgerWrite (d : Ctl) (o : Nat) (v : W32) (hw : HwUpdate) : Ctl :=
  let l := d.ledger
  if o = 0x000 then
    let m := collide .w1c 32 (4 * b2n l.mismatch + 8 * b2n l.stale) (some v.toNat) hw
    { d with ledger := { l with mismatch := bitOf m 2, stale := bitOf m 3 } }
  else if o = 0x008 then
    { d with ledger := { l with ref := BitVec.ofNat 32 (collide .hwStatus 32 l.ref.toNat (some v.toNat) hw) } }
  else if o = 0x010 then { d with ledger := { l with commitSeq := v } }
  else if o = 0x014 then ledgerCommitWrite d v
  else if 0x040 ≤ o ∧ o < 0x0C0 then rangeWrite d ((o - 0x40) / 8) (o % 8 != 0) v
  else d

/-! ### The PF mailbox (R422 to R424) -/

/-- HRT_MBX_STATUS.BUSY. -/
def mbxBusy (d : Ctl) (p : Port) : Bool := (getPort d p).mbx.state != .idle || d.reeve.takeover

/-- A write dropped while BUSY sets CMD_DROPPED (R424). -/
def mbxDrop (d : Ctl) (p : Port) : Ctl := modPort d p fun x => { x with mbx := { x.mbx with dropped := true } }

/-- GO: the order held in the block is submitted; one of an unassigned opcode is answered UNKNOWN_CMD (R425,
R515). -/
def mbxGo (d : Ctl) (p : Port) : Ctl :=
  if mbxBusy d p then mbxDrop d p
  else
    let d := modPort d p fun x => { x with mbx := { x.mbx with state := .submitted, jseq := 0 } }
    let op := (getPort d p).mbx.opcode.toNat
    if (catRow op).isNone then pfOrder d p op (.ok []) (fun _ _ => false) fun d _ => refuse 0x11 d else d

/-- ACK returns a RESPONDED mailbox to IDLE; at any other time it is ignored (R422, R424). -/
def mbxAck (d : Ctl) (p : Port) : Ctl :=
  if (getPort d p).mbx.state = .responded then
    modPort d p fun x => { x with mbx := { x.mbx with state := .idle } }
  else d

/-- A write to the PF mailbox block. -/
def mbxWrite (d : Ctl) (p : Port) (o : Nat) (v : W32) (hw : HwUpdate) : Ctl :=
  let held (f : Mailbox → Mailbox) : Ctl :=
    if mbxBusy d p then mbxDrop d p else modPort d p fun x => { x with mbx := f x.mbx }
  if o = 0x000 then
    let d := if v.getLsbD 0 then mbxGo d p else d
    if v.getLsbD 1 then mbxAck d p else d
  else if o = 0x004 then
    modPort d p fun x =>
      let m := collide .w1c 32 (4 * b2n x.mbx.dropped + 8 * b2n x.mbx.ovf) (some v.toNat) hw
      { x with mbx := { x.mbx with dropped := bitOf m 2, ovf := bitOf m 3 } }
  else if o = 0x008 then
    held fun m => { m with opcode := v.extractLsb' 0 16, argLen := bits v.toNat 24 16 }
  else if o = 0x00C then held fun m => { m with cookie := v }
  else if o = 0x024 then modPort d p fun x => { x with mbx := { x.mbx with head := bits v.toNat 4 0 } }
  else if 0x100 ≤ o ∧ o < 0x200 then
    held fun m => { m with
      arg := (List.range 4).foldl (fun t k => Tbl.set t (o - 0x100 + k) (v.extractLsb' (8 * k) 8)) m.arg }
  else d

/-! ### The wide mailbox (R445, R446, R510) -/

/-- A fault record in its 32 bytes (R376). -/
def faultBytes (r : FaultRecord) : Bytes :=
  leBytes 4 r.rseq ++ leBytes 8 r.time.toNat ++ leBytes 1 r.detector ++ leBytes 1 r.action ++ leBytes 1 r.severity ++
    leBytes 1 r.policy ++ leBytes 2 r.unit ++ leBytes 1 r.sub ++ [0] ++ leBytes 4 r.count ++ leBytes 2 r.handle ++
    leBytes 2 r.slice ++ leBytes 4 r.jseq

/-- 64-bit values as words, low word first (R510). -/
def words64 (l : List Nat) : List W32 :=
  l.flatMap fun v => [BitVec.ofNat 32 v, BitVec.ofNat 32 (v / 2 ^ 32)]

/-- The snapshot words of a selector and index, none out of range (R446, R510). -/
def snapshot (d : Ctl) (sel : Byte) (index : Nat) : Option (List W32) :=
  if sel = 1 then
    if index < 32 then
      let x := getHam d index
      some (words64 [x.eccCe.toNat, x.eccUe.toNat, x.eccLink.toNat, x.commitDiscards.toNat, x.staleRsp.toNat,
        min 15 (hamResetCount d index)])
    else none
  else if sel = 2 then
    if index < 64 then
      some (words64 ((List.range 10).map fun k => (Tbl.getD (getRoad d index).counters k 0).toNat))
    else none
  else if index ≠ 0 then none
  else if sel = 3 then
    some (words64 [(devNow d).toNat, d.time.ppsIn.toNat, d.time.ppsOutTime.toNat, (BitVec.ofInt 64 d.time.offset).toNat])
  else if sel = 4 then
    let b := (d.reeve.faultLog.getLast?.map faultBytes).getD (zeros 32)
    some ((List.range 8).map fun k => BitVec.ofNat 32 (fld b (4 * k) 4))
  else if sel = 5 then
    some (words64 [(alertStatus d).toNat, d.reeve.faultLost.toNat, d.reeve.tmrCorr.toNat, min 15 (pkgResetCount d)])
  else if sel = 6 then
    let l := d.ledger
    some ([l.current, l.ref, BitVec.ofNat 32 l.cfgSeq, BitVec.ofNat 32 (ldgStatus l)] ++ words64 [l.lastEnd.toNat])
  else none

/-- The wide mailbox of a source changes. -/
def modWide (d : Ctl) (src : RegSource) (f : WideMbx → WideMbx) : Ctl :=
  match src with
  | .port p => modPort d p fun x => { x with wide := f x.wide }
  | .reeve => modReeve d fun r => { r with wide := f r.wide }

/-- The pending request is served: a snapshot with VALID, or BAD_SEL (R446). -/
def wideServe (d : Ctl) (src : RegSource) : Ctl :=
  let w := getWide d src
  if w.req && !w.valid then
    match snapshot d w.selector w.index.toNat with
    | some ws => modWide d src fun w => { w with req := false, valid := true, words := ws }
    | none => modWide d src fun w => { w with req := false, badSel := true }
  else d

/-- REQ with a selector and index: the snapshot is taken now, or after ACK while VALID is 1 (R446). -/
def wideRequest (d : Ctl) (src : RegSource) (sel : Byte) (index : W16) : Ctl :=
  wideServe (modWide d src fun w => { w with req := true, selector := sel, index := index }) src

/-- ACK releases the snapshot; a REQ left set is then served (R446). -/
def wideRelease (d : Ctl) (src : RegSource) : Ctl :=
  wideServe (modWide d src fun w => { w with valid := false, words := [] }) src

/-- A write to the wide mailbox block. -/
def wideWrite (d : Ctl) (src : RegSource) (o : Nat) (v : W32) (hw : HwUpdate) : Ctl :=
  if o = 0x000 then
    let d := modWide d src fun w => { w with selector := v.extractLsb' 8 8, index := v.extractLsb' 16 16 }
    let d := if v.getLsbD 1 then wideRelease d src else d
    if v.getLsbD 0 then wideRequest d src (v.extractLsb' 8 8) (v.extractLsb' 16 16) else d
  else if o = 0x004 then
    modWide d src fun w => { w with badSel := bitOf (collide .w1c 32 (2 * b2n w.badSel) (some v.toNat) hw) 1 }
  else d

/-! ### BAR2 writes (R437 to R440, R498) -/

/-- The bits of HRT_ALERT_STATUS that exist: [10:1] and [19:16]; the others read 0 (R16). -/
def alertBits : W32 := 0x000F07FE

/-- HRT_ALERT_STATUS after a W1C write that meets hardware sets. -/
def alertWrite (d : Ctl) (v : W32) (hw : HwUpdate) : Ctl :=
  let new := BitVec.ofNat 32 (collide .w1c 32 d.reeve.alert.toNat (some v.toNat) hw) &&& alertBits
  let rose := new &&& ~~~d.reeve.alert
  let d := modReeve d fun r => { r with alert := new }
  if rose = 0 then d else pfIrq (pfIrq d .ha 2) .hb 2

/-- A 32-bit write to a register that is no counter. -/
def bar2Write (d : Ctl) (src : RegSource) (off : Nat) (v : W32) (hw : HwUpdate) : Ctl :=
  if off = 0x030 then alertWrite d v hw
  else if off = 0x034 then modReeve d fun r => { r with pfIrqEn := v.extractLsb' 0 3 }
  else if off = 0x038 then
    modReeve d fun r => { r with regErr := BitVec.ofNat 2 (collide .w1c 2 r.regErr.toNat (some v.toNat) hw) }
  else if 0x3000 ≤ off ∧ off < 0x3100 then ledgerWrite d (off - 0x3000) v hw
  else if 0x2000 ≤ off ∧ off < 0x2200 then wideWrite d src (off - 0x2000) v hw
  else match src with
    | .reeve => d
    | .port p => if 0x1000 ≤ off ∧ off < 0x1800 then mbxWrite d p (off - 0x1000) v hw else d

/-- A BAR2 write of 4 or 8 bytes, the hardware update meeting the register at the lower offset. -/
def bar2Access (d : Ctl) (src : RegSource) (off width : Nat) (v : W64) (hw : HwUpdate) : Ctl :=
  if !goodAccess off width then setRegErr d 1
  else if d.pkg.life = .lantern ∧ !lanternReadable off then d
  else match counterAt d (off - off % 8) with
    | some c =>
      setCounter d (off - off % 8)
        (BitVec.ofNat 64 (collide .counter 64 c.toNat (counterLoad (off % 8 != 0) width v) hw))
    | none =>
      let d := bar2Write d src off (v.extractLsb' 0 32) hw
      if width = 8 then bar2Write d src (off + 4) (v.extractLsb' 32 32) .none else d

/-! ### BAR4 writes (R75, R501) -/

/-- An MSI-X table entry with one word written. -/
def msixSet (e : MsixEntry) (o : Nat) (v : W32) : MsixEntry :=
  if o = 0 then { e with addr := e.addr.extractLsb' 32 32 ++ v }
  else if o = 4 then { e with addr := v ++ e.addr.extractLsb' 0 32 }
  else if o = 8 then { e with data := v }
  else { e with masked := v.getLsbD 0 }

/-- A word of the MSI-X table; an entry unmasked with its pending bit set is raised (PCI Express, R501). -/
def msixWrite (d : Ctl) (p : Port) (off : Nat) (v : W32) : Ctl :=
  if off < 0x8000 then
    let k := off / 16
    let d := modPort d p fun x => { x with msix := Tbl.modify x.msix k {} fun e => msixSet e (off % 16) v }
    let x := getPort d p
    if (Tbl.getD x.msix k {}).masked || !x.pba.contains k then d
    else raiseVector (modPort d p fun x => { x with pba := x.pba.filter fun n => n != k }) p k
  else d

/-- A BAR4 write of 4 or 8 bytes. -/
def bar4Access (d : Ctl) (src : RegSource) (off width : Nat) (v : W64) : Ctl :=
  match src with
  | .reeve => d
  | .port p =>
    if !goodAccess off width then d
    else
      let d := msixWrite d p off (v.extractLsb' 0 32)
      if width = 8 then msixWrite d p (off + 4) (v.extractLsb' 32 32) else d

/-! ### Lane registers (R58, R66, R74) -/

/-- LN_ERR bits: 0 DB_ERR, 1 HEAD_ERR, 2 PC_SLOT_BUSY, 3 CQ_OVF, 4 FETCH_FAULT. -/
def setLnErr (d : Ctl) (i l b : Nat) : Ctl :=
  modLane d i l fun ln => { ln with err := ln.err ||| BitVec.ofNat 5 (2 ^ b) }

/-- The Hearth may fetch the lane's next descriptor: the lane ENABLED, an entry new, a completion entry free and a
credit free (R66, R69, R117, R272). -/
def fetchable (d : Ctl) (i l : Nat) : Bool :=
  let ln := getLane d i l
  (getSlice d i).state == .active && ln.state == .enabled && ln.fetchIdx != ln.sqTail && !cqFull d i l &&
    !sliceBusy d i

/-- The submission ring entry the lane fetches next, on its slice's current port. -/
def fetchPlace (d : Ctl) (i l : Nat) : W64 :=
  sqBase (getLane d i l) (getSlice d i).cur + BitVec.ofNat 64 (64 * (getLane d i l).fetchIdx)

/-- The Hearth asks for the next descriptor through the current port, its page's translation first (R66, R78, R85). -/
def fetchNext (d : Ctl) (i l : Nat) : Ctl :=
  if fetchable d i l then
    let a := fetchPlace d i l
    sliceRead (askPages d (getSlice d i).cur i (pagesAt a 64)) i a 64
  else d

/-- The lane's next sequence is taken: it and its wraps, and the lane after it (R60, R318). -/
def takeSeq (ln : Lane) : (W32 × Nat) × Lane :=
  ((ln.seq, ln.wraps), { ln with seq := ln.seq + 1, wraps := if ln.seq = 0xFFFFFFFF then ln.wraps + 1 else ln.wraps })

/-- Sequences are taken for doorbelled entries, `n` of them. -/
def reserveN : Nat → Lane → Lane
  | 0, ln => ln
  | n + 1, ln =>
    let r := takeSeq ln
    reserveN n { r.2 with reserved := r.2.reserved ++ [r.1] }

/-- A doorbell takes its place in arrival order: every entry not yet fetched has its sequence before a later postcard's
(R66, R70). DEDUCED (log 51). -/
def reserveSeqs (ln : Lane) : Lane :=
  let n := (ln.sqTail + sqSize ln - ln.fetchIdx) % sqSize ln
  reserveN (n - ln.reserved.length) { ln with reserved := ln.reserved.take n }

/-- A write to LN_SQ_TAIL (R53, R58, R66, R70). -/
def sqTailWrite (d : Ctl) (p : Port) (i l : Nat) (v : W32) : Ctl :=
  let ln := getLane d i l
  if !windowLive d i l || !windowOn d (.port p) i then d
  else match ln.state with
    | .disabled => d
    | .fenced => d
    | .error => setLnErr d i l 0
    | .enabled =>
      if (getSlice d i).state ≠ .active then d
      else if sqSize ln ≤ v.toNat then setLnErr d i l 0
      else if v.toNat = ln.sqTail then d
      else fetchNext (modLane d i l fun ln => reserveSeqs { ln with sqTail := v.toNat }) i l

/-- A write to LN_CQ_HEAD consumes entries, or sets HEAD_ERR beyond the last completion written (R73, R74). -/
def cqHeadWrite (d : Ctl) (p : Port) (i l : Nat) (v : W32) : Ctl :=
  let ln := getLane d i l
  if !windowLive d i l || !windowOn d (.port p) i || ln.state == .disabled then d
  else
    let h := v.toNat % 65536
    let n := (h + cqSize ln - ln.cqHead) % cqSize ln
    if cqSize ln ≤ h ∨ ln.unconsumed < n then setLnErr d i l 1
    else
      let d := modLane d i l fun ln => { ln with
        cqHead := h, unconsumed := ln.unconsumed - n, delivered := ln.delivered.drop n }
      fetchNext d i l

/-- A 32-bit write to a lane register other than a doorbell or head. -/
def laneRegWrite (d : Ctl) (i l off : Nat) (v : W32) (hw : HwUpdate) : Ctl :=
  if (getLane d i l).state = .disabled then d
  else if off = 0x018 then
    modLane d i l fun ln => { ln with err := BitVec.ofNat 5 (collide .w1c 5 ln.err.toNat (some v.toNat) hw) }
  else if off = 0x020 then
    checkIrq (modLane d i l fun ln => { ln with irqCtl := v &&& 0xFFFFFF01#32 }) i l
  else d

/-- A write to offsets 0x000 to 0x0FF of a lane window (R61, R63). -/
def laneAccess (d : Ctl) (src : RegSource) (i l off width : Nat) (v : W64) (hw : HwUpdate) : Ctl :=
  match src with
  | .reeve => d
  | .port p =>
    if !goodAccess off width || !windowLive d i l || !windowOn d src i then d
    else if off = 0x000 then sqTailWrite d p i l (v.extractLsb' 0 32)
    else if off = 0x008 then cqHeadWrite d p i l (v.extractLsb' 0 32)
    else laneRegWrite d i l off (v.extractLsb' 0 32) hw

/-! ### Ledger passes (R449, R450, R451) -/

/-- A pass starts: it notes LDG_CFG_SEQ and the CRC of the words it will read. -/
def passStart (d : Ctl) : Ctl := { d with ledger := { d.ledger with pass := some (d.ledger.cfgSeq, ledgerCrc d) } }

/-- The detector 0x17 record and the ledger alert of a mismatch (R450). -/
def ledgerMismatch (d : Ctl) : Ctl :=
  let d := { d with ledger := { d.ledger with mismatch := true } }
  faultRecord (setAlert d 0x10000) 0x17 8 1 0xFFFF 0xFF 0 0xFFFF 0

/-- A pass ends: discarded where LDG_CFG_SEQ changed; else its CRC is current, ends a capture, or is compared while
CLEAN (R449 to R451). -/
def passEnd (d : Ctl) : Ctl :=
  let l := d.ledger
  match l.pass with
  | none => d
  | some (seq, crc) =>
    if seq ≠ l.cfgSeq then { d with ledger := { l with pass := none } }
    else if l.capturing then
      { d with
        ledger := { l with
          pass := none, current := crc, lastEnd := devNow d, ref := crc, reference := crc, capturing := false, state := 1 } }
    else
      let d := { d with ledger := { l with pass := none, current := crc, lastEnd := devNow d } }
      if l.state = 1 ∧ crc ≠ l.reference then ledgerMismatch d else d

end Sys2Proof.Machine
end

