-- ==== Sys2Proof/Machine/Events.lean ====
section
/-! DEFINITION. Fencing of a slice, and slice events on lane 0's completion ring with the failure of their writes
(R57, R86, R116, R117). -/

namespace Sys2Proof.Machine
open Sys2Proof

/-- The slice and its ENABLED lanes are FENCED, and procedure `p` runs on it; its EXCLUSIVE slots act as POOL (R250). DESIGN CHOICE
(log 50): a lane in ERROR keeps that state, and LN_STATUS reports ERROR, where R57's FENCED and ERROR both fit. -/
def fenceSlice (d : Ctl) (i : Nat) (p : Option SliceProc) : Ctl :=
  shareUp d (modSlice d i fun s => { s with
    state := .fenced, proc := p
    lanes := Tbl.mapVal s.lanes fun _ (ln : Lane) =>
      if ln.state = .enabled then { ln with state := .fenced, reserved := [] } else ln })

/-- A write to lane 0's own completion ring fails: the lane is in ERROR, the slice FENCED with its submissions, and the PF driver
is notified (R86). -/
def laneZeroFailed (d : Ctl) (i : Nat) : Ctl :=
  let d := laneError (dmaFault d i) i 0
  let d := mirrorStep d (.slice i) 0 (fenceSlice d i (getSlice d i).proc)
  emit (discardWhere d (fun _ c => c.slice == i) St.fenced) (.alertManager (.slice i))

/-- A slice event (R116, R117). Where ATS is enabled and the ring page's translation is not held, it is requested first; whether
that succeeds is free (R86). -/
def sliceEvent (d : Ctl) (i code resultLen model : Nat) : Ctl :=
  let s := getSlice d i
  let page := (ringPlace s (getLane d i 0)).toNat / 4096
  let x := getPort d s.cur
  if eventless s || freeEntries d i 0 == 0 || !x.ats || atcHolds x (pasidOn s s.cur) page then writeEvent d i code resultLen model
  else
    let e := drawn (askPage d s.cur i page)
    if Config.translated d.fresh then writeEvent (holdPage e s.cur i page) i code resultLen model else laneZeroFailed e i

end Sys2Proof.Machine
end

