-- ==== Sys2Proof/Machine/Submit.lean ====
section
/-! DEFINITION. Submission: doorbells, postcard slots, descriptor fetch, checks 1 to 9 of R107 and the admission of
compute commands (02, 03, 04, 08, 09). -/

namespace Sys2Proof.Machine
open Sys2Proof

/-! ### Acceptance (R60, R66, R67, R272, R318) -/

/-- The sequence of a submission being accepted, and the lane after it: the one its doorbell took, or the next (R60, R70). -/
def acceptSeq (ln : Lane) (fetched : Bool) : (W32 × Nat) × Lane :=
  match fetched, ln.reserved with
  | true, r :: l => (r, { ln with reserved := l })
  | _, _ => takeSeq ln

/-- A submission is accepted on a lane: it takes its sequence, a completion entry and, where one is free, a credit. -/
def acceptCmd (d : Ctl) (i l : Nat) (p : Port) (slot : Option Nat) (read : Cmd → Cmd) : Nat × Ctl :=
  let s := getSlice d i
  let ln := getLane d i l
  let q := acceptSeq ln slot.isNone
  let c := read {
    slice := i, lane := l, seq := q.1.1, gen := s.gen, incarnation := ln.incarnation, wraps := q.1.2, port := p,
    slot := slot, policy := if ln.divert then ln.apprentice else 0, tAccept := devNow d, iAccept := now d
    credit := !sliceBusy d i }
  let id := d.nextCmd
  let d := { d with cmds := Tbl.set d.cmds id c, nextCmd := id + 1 }
  let last := q.1.1 == 0xFFFFFFFF && decide (65535 ≤ q.1.2)
  let d := modLane d i l fun _ => { q.2 with state := if last then .error else q.2.state }
  (id, bump d i l fun s => { s with accepted := satAdd 64 s.accepted 1 })

/-- A condition of R133 failed; the first in table order is kept. -/
def offPath (d : Ctl) (id k : Nat) (failed : Bool) : Ctl :=
  if failed then modCmd d id fun c => { c with offPath := some (min k (c.offPath.getD 99)) } else d

/-- Operations of engines 0 to 3 in the window (t - 1 µs, t], of one slice and of the package (R133, R274). -/
def fastCount (d : Ctl) (i : Nat) : Nat := (within d (us 1) (getSlice d i).fastTimes).length

def fastTotal (d : Ctl) : Nat := (slicesWhere d fun _ => true).foldl (fun a i => a + fastCount d i) 0

/-- An operation is counted in a slice's FAST window. -/
def countFast (d : Ctl) (i : Nat) : Ctl :=
  modSlice d i fun s => { s with fastTimes := within d (us 1) s.fastTimes ++ [now d] }

/-! ### Postcards (R58, R61, R67 to R69, R96, R276) -/

/-- A slot changed. -/
def modSlot (d : Ctl) (i l k : Nat) (f : Slot → Slot) : Ctl :=
  modLane d i l fun ln => { ln with slots := Tbl.modify ln.slots k {} f }

/-- A postcard is dropped: counted, with error bits. -/
def dropCount (d : Ctl) (i l : Nat) : Ctl :=
  modLane d i l fun ln => { ln with pcDrops := BitVec.ofNat 32 (satAdd 32 ln.pcDrops.toNat 1) }

/-- The postcard chain a slot holds is accepted and counted in the FAST window: its number, the command as read, the chain
bytes, the state. -/
def acceptChain (d : Ctl) (p : Port) (i l k : Nat) : Nat × Cmd × Bytes × Ctl :=
  let ln := getLane d i l
  let slot := Tbl.getD ln.slots k {}
  let raw := slotBytes slot (chainCells (slotBytes slot 1))
  let a := acceptCmd d i l p (some k) fun c => readPostcard c ln raw
  let d := countFast (modSlot a.2 i l k fun x => { x with taken := true }) i
  (a.1, Tbl.getD d.cmds a.1 { slice := i, lane := l, seq := 0, gen := 0 }, raw, d)

/-! ### Lane state and descriptor caches (R28, R134, R330) -/

/-- The ways of the lane state cache granted to a tenant. -/
def laneWays (d : Ctl) (t : Nat) : List Nat := ((Tbl.find? d.tenants t).map fun x => bitList 32 x.wayLane.toNat).getD []

/-- The lanes whose state way `w` of the lane state cache holds: slice, lane, pinned. -/
def wayLanes (d : Ctl) (w : Nat) : List (Nat × Nat × Bool) :=
  d.slices.flatMap fun e => (e.2.lanes.filter fun l => l.2.way == some w).map fun l => (e.1, l.1, l.2.pinned)

/-- A way of a tenant with one of its 64 entries free. -/
def roomyWay (d : Ctl) (t : Nat) : Option Nat := (laneWays d t).find? fun w => decide ((wayLanes d w).length < 64)

/-- The lanes that a fill may evict from a tenant's ways: those not pinned. -/
def evictable (d : Ctl) (t : Nat) : List (Nat × Nat × Bool) := ((laneWays d t).flatMap (wayLanes d)).filter fun e => !e.2.2

/-- A lane's state is filled in its tenant's ways: in a free entry, pinned where it has a postcard result area; else in place of an
unpinned lane, which one is free. At its creation it is pinned there too (R134, R330). -/
def fillLane (d : Ctl) (i l : Nat) (created : Bool) : Ctl :=
  let t := (getSlice d i).tenant
  let area := (getLane d i l).strideLog != 0
  match roomyWay d t with
  | some w => modLane d i l fun ln => { ln with way := some w, pinned := area }
  | none =>
    let l0 := evictable d t
    match l0[Config.cachePick d.fresh % l0.length]? with
    | none => d
    | some v =>
      let w := (getLane d v.1 v.2.1).way
      modLane (modLane (drawn d) v.1 v.2.1 fun ln => { ln with way := none }) i l fun ln => { ln with way := w, pinned := area && created }

/-- A lane whose state was evicted is refilled (R134). -/
def refillLane (d : Ctl) (i l : Nat) : Ctl := if (getLane d i l).way.isNone then fillLane d i l false else d

/-- A fetched descriptor lies in one of its tenant's ways of the descriptor cache; which one is free (R28, R330). -/
def fillDescriptor (d : Ctl) (i id : Nat) : Ctl :=
  let ways := ((Tbl.find? d.tenants (getSlice d i).tenant).map fun x => bitList 32 x.wayDesc.toNat).getD []
  if ways.isEmpty then d
  else modCmd (drawn d) id fun c => { c with descWay := ways[Config.cachePick d.fresh % ways.length]? }

/-! ### Strict postcard slots (R138, R334) -/

/-- The postcard slot rate of a tenant: the sum of its slices' FAST limits. -/
def postRate (d : Ctl) (t : Nat) : Nat := (slicesWhere d fun s => s.tenant == t).foldl (fun a i => a + (getSlice d i).fastLimit) 0

/-- Operations of engines 0 to 3 in the last µs by a tenant's slices. -/
def tenantFast (d : Ctl) (t : Nat) : Nat := (slicesWhere d fun s => s.tenant == t).foldl (fun a i => a + fastCount d i) 0

/-- The operations of each µs, 0 to 15, that engines 0 to 3 reserve for a tenant with STRICT_TIMING in effect: the strict tenants
take them in index order (DESIGN CHOICE, log 52: the spec gives the offsets no places). -/
def postSlots (d : Ctl) (t : Nat) : List Nat :=
  if !strictInEffect d t then []
  else
    let before := ((Tbl.keys d.tenants).filter fun k => decide (k < t) && strictInEffect d k).foldl (fun a k => a + postRate d k) 0
    (List.range (postRate d t)).map (· + before)

/-- The next reserved offset after now, in interval time: operation `k` of a µs stands at k × 62.5 ns. -/
def nextPost (d : Ctl) (t : Nat) : Nat :=
  let base := now d / us 1 * us 1
  let at_ := (postSlots d t).map fun k => base + k * us 1 / 16
  match at_.find? fun x => decide (now d < x) with
  | some x => x
  | none => (at_.head?.map (· + us 1)).getD (now d)

/-- The conditions of R133 that acceptance settles. A lane whose state is evicted is refilled; a strict tenant's postcard beyond its
slot rate waits for the next reserved offset. -/
def markPath (d : Ctl) (p : Port) (i l id : Nat) (crowded beyond : Bool) : Ctl :=
  let pt := getPort d p
  let d := offPath d id 2 (pt.rate != 128 || pt.width != 16)
  let d := offPath d id 3 (p != (getSlice d i).cur)
  let d := offPath (refillLane (offPath d id 7 (getLane d i l).way.isNone) i l) id 10 crowded
  if beyond then modCmd (offPath d id 11 true) id fun c => { c with waitUntil := nextPost d (getSlice d i).tenant } else d

/-- The chain a slot holds is accepted or dropped (R67, R69, R276). -/
def takeChain (d : Ctl) (p : Port) (i l k : Nat) : Ctl :=
  let s := getSlice d i
  let ln := getLane d i l
  let overFast := decide (s.fastLimit ≤ fastCount d i)
  let overCq := decide (freeEntries d i l = 0)
  if overFast || overCq then
    let d := dropCount (modSlot d i l k fun _ => {}) i l
    let d := if overFast then setLnErr d i l 2 else d
    if overCq then setLnErr d i l 3 else d
  else
    let crowded := decide (16 ≤ fastTotal d)
    let beyond := strictInEffect d s.tenant && decide (postRate d s.tenant ≤ tenantFast d s.tenant)
    let a := acceptChain d p i l k
    let id := a.1
    let c := a.2.1
    let raw := a.2.2.1
    let d := match (if chainBits raw < 1 ∨ 4 < chainBits raw then Except.error St.chainLength else tagCheck s ln c) with
      | .error st => modCmd a.2.2.2 id fun c => { c with early := some st }
      | .ok r => modCmd a.2.2.2 id fun c => { c with epoch := some r.1, input := r.2, early := formCheck s ln c }
    markPath d p i l id crowded beyond

/-- A write of bytes to a postcard slot. -/
def slotWrite (d : Ctl) (p : Port) (i l k off : Nat) (bs : Bytes) : Ctl :=
  let ln := getLane d i l
  if !barUp d (.bar0 0 0 0) || !windowLive d i l || !windowOn d (.port p) i then d
  else if l = 0 then dropCount d i 0
  else match ln.state with
    | .disabled => d
    | .fenced => d
    | .error => setLnErr (dropCount d i l) i l 2
    | .enabled =>
      if (getSlice d i).state ≠ .active then d
      else if (Tbl.getD ln.slots k {}).taken then setLnErr (dropCount d i l) i l 2
      else
        let d := modSlot d i l k fun x => { x with
          bytes := (bs.zipIdx off).foldl (fun t e => Tbl.set t e.2 e.1) x.bytes }
        if chainComplete (Tbl.getD (getLane d i l).slots k {}) then takeChain d p i l k else d

/-! ### Checks 4 to 6 -/

/-- A model is resident for the slice's tenant (R88). -/
def resident (d : Ctl) (i : Nat) (h : W32) : Option Model :=
  (Tbl.find? d.models h.toNat).filter fun m => m.tenant == (getSlice d i).tenant

/-- The chunk operands of a prefill command: index and count. -/
def chunkIdx (c : Cmd) : Nat := bits c.aux.toNat 15 0

def chunkCount (c : Cmd) : Nat := bits c.aux.toNat 31 16

/-- The chunk is the next its context accepts (R260); its index lies below its count (R109). -/
def chunkOk (d : Ctl) (c : Cmd) : Bool :=
  decide (chunkIdx c < chunkCount c) &&
    (match (Tbl.find? d.contexts (ctxKey c.slice c.context)).bind Context.chunks with
     | some r => chunkIdx c == r.admitted && chunkCount c == r.count
     | none => chunkIdx c == 0)

/-- Check 5 of a compute command: model and context residence, road join. -/
def check5 (d : Ctl) (c : Cmd) : Option Status :=
  let m := resident d c.slice c.model
  let e := m.bind fun m => entryOf m c.opcode.toNat
  let holds := ((Tbl.find? d.contexts (ctxKey c.slice c.context)).map Context.holds).getD false
  if isModelOp c.opcode && e.isNone then some St.notResident
  else if (e.map Entry.roadOps).getD false &&
      !(((Tbl.find? d.tenants (getSlice d c.slice).tenant).map Tenant.joined).getD false) then some St.resource
  else if (c.opcode = 2 ∨ c.opcode = 4) ∧ !holds then some St.contextUnknown
  else if c.opcode = 3 ∧ !chunkOk d c then some St.contextUnknown
  else none

/-- The bytes of a descriptor for the BULK limit (R274, R327). -/
def bulkBytes (d : Ctl) (c : Cmd) : Nat :=
  let out := ((cmdEntry d c).map Entry.outputBytes).getD 0
  let image := if c.lane = 0 ∧ c.opcode = 0x86 then 4096 * fld c.raw 24 4 else 0
  c.inputLen + image + 16 + out + 32

/-- Check 6: a descriptor passes its slice's buckets and draws on them (R277). -/
def check6 (d : Ctl) (c : Cmd) : Option Ctl :=
  let s := getSlice d c.slice
  let sb := refill d s.submit 10000
  let bb := refill d s.bulk 10
  if (s.submit.rate ≠ 0 ∧ sb.balance < 10000) ∨ (s.bulk.rate ≠ 0 ∧ bb.balance ≤ 0) then none
  else some (modSlice d c.slice fun s => { s with
    submit := if s.submit.rate = 0 then s.submit else { sb with balance := sb.balance - 10000 }
    bulk := if s.bulk.rate = 0 then s.bulk else { bb with balance := bb.balance - 10 * (bulkBytes d c : Int) } })

/-- Check 4: lane and slice state. -/
def check4 (d : Ctl) (c : Cmd) : Option Status :=
  let s := getSlice d c.slice
  let ln := getLane d c.slice c.lane
  if s.state = .fenced ∨ ln.state = .fenced then some St.fenced
  else if ln.state ≠ .enabled ∧ ln.state ≠ .error ∨ s.state ≠ .active then some St.laneState
  else none

/-- Check 5 passed: chunk 0 without a record makes it, with both indices 0 (R260). -/
def openChunks (d : Ctl) (c : Cmd) : Ctl :=
  if c.opcode = 3 then
    { d with
      contexts := Tbl.modify d.contexts (ctxKey c.slice c.context) {} fun x =>
        if x.chunks.isNone then { x with chunks := some ⟨chunkCount c, 0, 0⟩ } else x }
  else d

/-- Checks 4 to 6 of a submission: a status, or the state after them. Those of an admin command beyond check 4 are made in its
journal step. -/
def checks456 (d : Ctl) (c : Cmd) : Except (Status × Ctl) Ctl :=
  match check4 d c with
  | some st => .error (st, d)
  | none =>
    if c.lane = 0 then .ok d
    else match check5 d c with
      | some st => .error (st, d)
      | none =>
        let d := openChunks d c
        if c.slot.isSome then .ok d
        else match check6 d c with
          | some d' => .ok d'
          | none => .error (St.rateLimit, d)

/-! ### Checks 8 and 9 (R258, R286 to R288, R294) -/

/-- Host bytes of a descriptor in each direction of its port. -/
def hostBytes (d : Ctl) (c : Cmd) (out : Bool) : Nat :=
  if out then ((cmdEntry d c).map Entry.outputBytes).getD 0 + 32 else if c.inputLen = 0 then 0 else c.inputLen + 16

/-- The brownout decision of a descriptor on one port resource: refused, or the state with its bytes drawn (R294). -/
def portBrownout (d : Ctl) (c : Cmd) (r n : Nat) : Option Ctl :=
  if n = 0 ∨ !d.brownout.contains r then some d
  else match resvOf d c.slice with
    | none => none
    | some (k, v) =>
      let g := Tbl.getD v.grants r 0
      let full : Rat := (Tbl.getD v.guarantees r 0 : Nat)
      if g = 0 then none
      else if full ≤ g then some d
      else
        let rate := ratFloor (1000 * g)
        let depth := max 4096 (rate * 10)
        let b := refill d (Tbl.getD v.brown r ⟨rate, depth, (depth * 10000 : Nat), nowNs d⟩) 10000
        if b.balance ≤ 0 then none
        else
          let v := { v with brown := Tbl.set v.brown r { b with balance := b.balance - 10000 * (n : Int) } }
          some { d with reservations := Tbl.set d.reservations k v }

/-- Step 8b: the command is refused in brownout, or the state after its draws. -/
def step8b (d : Ctl) (c : Cmd) (e : Option Entry) : Option Ctl :=
  let roads := d.brownout.any fun r => decide (8 ≤ r) && decide (r < 40)
  let share := ((resvOf d c.slice).map fun r => roadShare d r.2).getD 0
  if (e.map Entry.roadOps).getD false && roads && share == 0 then none
  else if c.slot.isSome then some d
  else
    let p := 2 * portNum (getSlice d c.slice).cur
    (portBrownout d c p (hostBytes d c false)).bind fun d => portBrownout d c (p + 1) (hostBytes d c true)

/-- New commands counted against hamlet `h`: waiting there, or admitted and about to enter (R273). -/
def entering (d : Ctl) (h : Nat) : Nat :=
  queuedCount d h + (d.cmds.filter fun e => e.2.phase == .admitted &&
    (match cmdModel d e.2, cmdEntry d e.2 with
     | some m, some en => (entryHamlets m en).contains h
     | _, _ => false)).length

def roomFor (d : Ctl) (m : Model) (e : Entry) : Bool := (entryHamlets m e).all fun h => decide (entering d h < 60)

/-- Hamlet fenced or out of service, or too few cores in service (R258 row 1). -/
def hamletDown (d : Ctl) (h : Nat) (e : Entry) : Bool :=
  let x := getHam d h
  x.assign != .granted || x.outOfService || x.reset.isSome || d.pkg.warm.isSome || d.pkg.outOfService || decide (coreCount x < e.coreDemand)

/-- The hamlet pauses for a croft remap (R369). -/
def croftPaused (d : Ctl) (h : Nat) : Bool := (getHam d h).retirement.isSome

/-- The hamlet pauses for a croft remap or a channel retirement (R202, R369). -/
def hamletPaused (d : Ctl) (h : Nat) : Bool := croftPaused d h || (getHam d h).channelRetiring.isSome

/-- Admission at 8e: the command takes a credit and its chunk index, and awaits its place in its hamlets. -/
def admitCmd (d : Ctl) (id : Nat) (c : Cmd) (ran : W32) (m : Model) (e : Entry) (div : Option Status) : Ctl :=
  let j := jobOf d c.slice
  let d := modCmd d id fun c => { c with
    phase := .admitted, ranModel := ran, diverted := div, credit := true, tDecide := now d,
    job := (j.map fun e => e.2.ident).getD 0, jgen := (j.map fun e => e.2.gen).getD 0,
    compiledCost := e.cost
    predictedCost := (entryHamlets m e).foldl (fun a h => max a (scaledCost d c.slice h e)) 0 }
  let d :=
    if c.opcode = 3 ∧ div.isNone then
      { d with
        contexts := Tbl.modify d.contexts (ctxKey c.slice c.context) {} fun x =>
          { x with chunks := x.chunks.map fun r => { r with admitted := r.admitted + 1 } } }
    else d
  let d := offPath d id 4 (!inEnvelope d m e)
  let x := getHam d ((entryHamlets m e).headD 0)
  let degraded := match resvOf d c.slice with | some r => decide (r.2.share < 1000) | none => false
  offPath d id 5 (!x.reservedMode || degraded || x.reset.isSome || croftPaused d ((entryHamlets m e).headD 0))

/-- Check 9 fails: the output does not fit (R100). -/
def outputTooBig (c : Cmd) (e : Entry) : Bool := decide (c.resultCap < e.outputBytes + 32)

/-- A command sent to its lane's apprentice: 8d, 8e and check 9 there (R258, R259, R286). -/
def toApprentice (d : Ctl) (id : Nat) (c : Cmd) (st : Status) : Status × Ctl :=
  let h := c.policy
  match (resident d c.slice h).bind fun m => (entryOf m 1).map fun e => (m, e) with
  | none => (St.apprenticeMiss, d)
  | some (m, e) =>
    let c' := { c with ranModel := h, diverted := some st }
    let down := (entryHamlets m e).any fun k => hamletDown d k e
    if c.inputLen ≠ e.inputBytes ∨ outputTooBig c e ∨ !roomFor d m e ∨ down ∨ !meetsDeadline d c' (predict d c' m e) then
      (St.apprenticeMiss, d)
    else (st, admitCmd d id c h m e (some st))

/-- The command may be diverted: GQI_OP_RUN, NO_DIVERT clear, and its lane had DIVERT set and an apprentice bound when it was
accepted (R257, R258). -/
def diverts (c : Cmd) : Bool := c.opcode == 1 && !c.noDivert && c.policy != 0

/-- The outcome of check 8: refused with a status, or admitted. -/
inductive Verdict where
  | refused (st : Status) (d : Ctl)
  | admitted (d : Ctl)

/-- The verdict of a diversion. -/
def divertVerdict (d : Ctl) (id : Nat) (c : Cmd) (st : Status) : Verdict :=
  let r := toApprentice d id c st
  if r.1 = St.apprenticeMiss then .refused r.1 r.2 else .admitted r.2

/-- A waiting command of a lane is expired (R288). -/
def expired (d : Ctl) (h : Nat) (c : Cmd) : Bool :=
  match slackNs d c.deadline, cmdEntry d c with
  | some s, some e => decide (s < cycNs (scaledCost d c.slice h e))
  | _, _ => false

/-- The expired command of the arriving command's lane that a hamlet sheds (R288); a parked one waits in RESERVING (R267). -/
def shedCandidate (d : Ctl) (h : Nat) (c : Cmd) : Option Nat :=
  let l := (inStates d h [.queued, .reserving, .parked]).filter fun e =>
    e.2.1.slice == c.slice && e.2.1.lane == c.lane && expired d h e.2.1
  let before (a b : Nat × Cmd × Part) : Bool :=
    if a.2.1.deadline ≠ b.2.1.deadline then timeLe a.2.1.deadline b.2.1.deadline else decide (a.2.1.seq < b.2.1.seq)
  (sortBy before l).head?.map Prod.fst

/-- The hamlets of a model shed one expired command each, as far as each is still full when its turn comes; none where one that is
full has none to shed (R287). -/
def shedFor (d : Ctl) (m : Model) (e : Entry) (c : Cmd) : Option Ctl :=
  (entryHamlets m e).foldl (fun a h => a.bind fun d =>
    if entering d h < 60 then some d else (shedCandidate d h c).map fun id => discard d id St.shedExpired) (some d)

/-- Step 8e with R258: prediction on the own model, apprentice, refusal. -/
def step8e (d : Ctl) (id : Nat) (c : Cmd) (m : Model) (e : Entry) : Verdict :=
  let hs := entryHamlets m e
  if hs.any fun h => hamletDown d h e then
    (if diverts c then divertVerdict d id c St.appUnavailable else .refused St.resource d)
  else if meetsDeadline d c (predict d c m e) then
    (if outputTooBig c e then .refused St.resultTooSmall d else .admitted (admitCmd d id c c.model m e none))
  else if !diverts c then .refused St.predictedMiss d
  else divertVerdict d id c (if hs.any (croftPaused d) then St.appUnavailable else St.appMiss)

/-- Check 8 and 9 (R286). NOP and CTX_RELEASE run no model and meet no hamlet. -/
def check89 (d : Ctl) (id : Nat) (c : Cmd) : Verdict :=
  if c.deadline ≠ noDeadline ∧ (c.deadline = 0 ∨ !timeLe c.tAccept c.deadline) then .refused St.deadlinePassed d
  else
    let m := if isModelOp c.opcode then resident d c.slice c.model else none
    let e := m.bind fun m => entryOf m c.opcode.toNat
    match step8b d c e with
    | none => .refused St.brownout d
    | some d =>
      let credit := c.credit || !sliceBusy d c.slice
      match m, e with
      | some m, some e =>
        if credit && roomFor d m e then step8e d id c m e
        else
          let shed := if credit && (getLane d c.slice c.lane).shedExpired then shedFor d m e c else none
          (match shed with
           | some d => step8e d id c m e
           | none => if diverts c then divertVerdict d id c St.appMiss else .refused St.shedNewest d)
      | _, _ =>
        if !credit then .refused St.shedNewest d
        else if !meetsDeadline d c (some (baseNs d c)) then .refused St.predictedMiss d
        else .admitted (modCmd d id fun c => { c with phase := .admitted, credit := true, tDecide := now d })

/-- The decision of a command that passed checks 1 to 7, with `t` its time where it is refused. -/
def decide89 (d : Ctl) (id : Nat) (c : Cmd) (t : W64) : Ctl :=
  match check89 d id c with
  | .refused st d => resolveAt d id st t
  | .admitted d => d

/-! ### Descriptors (R66, R86, R92, R108) -/

/-- The input of a descriptor is read: L + 16 bytes through the current port, its pages' translations first (R85, R92). Its sheaves
wait for a carter, which issues the reads (R284, R321). -/
def readInput (d : Ctl) (id : Nat) (c : Cmd) : Ctl :=
  let n := c.inputLen + 16
  let d := askPages d (getSlice d c.slice).cur c.slice (pagesAt c.inputAddr n)
  let d := dropSheaves (modCmd d id fun c => { c with phase := .input }) fun x => isInputOf id x && !x.squashed
  serveSheaves (queueTransfer d c.slice n false fun k => .input id (c.inputAddr + BitVec.ofNat 64 (4096 * k)))

/-- An admin command enters the journal as a guest administration order, or loses to an order of its MCLK cycle on an
object that contains its slice (R115, R434). -/
def enterAdmin (d : Ctl) (id : Nat) (c : Cmd) : Ctl :=
  let o := Obj.slice c.slice
  let j := d.reeve.nextJseq
  let e : JEntry := {
    master := 6, source := .guest id, opcode := c.opcode.toNat, obj := o, arrival := mclk d, args := c.raw }
  let w := List.find? (fun (x : Nat × JEntry) =>
    x.2.arrival == mclk d && x.2.master != 6 && x.2.master != 0 && contains d x.2.obj o) d.reeve.journal
  let d := enter d e
  match w with
  | some x =>
    resolve (modCmd (closeEntry d j 3) id fun c => { c with jseq := j, resultLen := x.1, phase := .admin }) id St.superseded
  | none => modCmd d id fun c => { c with phase := .admin, jseq := j }

/-- A fetched descriptor is accepted: its number, the command as read, the state. -/
def acceptDescriptor (d : Ctl) (i l : Nat) (bs : Bytes) : Nat × Cmd × Ctl :=
  let s := getSlice d i
  let d := modLane d i l fun x => { x with fetchIdx := (x.fetchIdx + 1) % sqSize x }
  let a := acceptCmd d i l s.cur none fun c => readDescriptor c bs
  let d := offPath a.2 a.1 1 (l != 0)
  (a.1, Tbl.getD d.cmds a.1 { slice := i, lane := l, seq := 0, gen := 0 }, d)

/-- The image a GQI_ADM_MODEL_LOAD names is read (R327). -/
def askImage (d : Ctl) (i : Nat) (c : Cmd) : Ctl :=
  if c.opcode = 0x86 then
    let a := BitVec.ofNat 64 (fld c.raw 16 8)
    let n := 4096 * fld c.raw 24 4
    sliceRead (askPages d (getSlice d i).cur i (pagesAt a n)) i a n
  else d

/-- A fetched descriptor is accepted and checked. -/
def takeDescriptor (d : Ctl) (i l : Nat) (bs : Bytes) : Ctl :=
  let s := getSlice d i
  let ln := getLane d i l
  let a := acceptDescriptor d i l bs
  let id := a.1
  let c := a.2.1
  let d := fillDescriptor (refillLane a.2.2 i l) i id
  match tagCheck s ln c with
  | .error st =>
    if c.inputLen = 0 ∨ 0x40000000 < c.inputLen then resolve d id st
    else readInput (modCmd d id fun c => { c with early := some st }) id c
  | .ok r =>
    let d := modCmd d id fun c => { c with epoch := some r.1 }
    match formCheck s ln c with
    | some st => resolve d id st
    | none => match checks456 d c with
      | .error (st, d) => resolve d id st
      | .ok d =>
        if l = 0 then askImage (enterAdmin d id c) i c
        else if c.inputLen = 0 then decide89 d id (Tbl.getD d.cmds id c) (devNow d)
        else readInput d id c

/-! ### Meanings -/

/-- The block's register space takes accesses of lane windows (R24, R494). -/
def lanesUp (d : Ctl) : Bool := d.pkg.life == .operating

/-- LN_SQ_TAIL_WRITE (R53, R58, R66, R70, R78). -/
def execLnSqTailWrite (p : Port) (sl : Fin 256) (ln : Fin 64) (v : W32) (s : State) :
    Host.Outcome State Fault Refusal :=
  onCtl s fun d => if lanesUp d then sqTailWrite d p sl.val ln.val v else d

/-- LN_CQ_HEAD_WRITE (R73, R74). -/
def execLnCqHeadWrite (p : Port) (sl : Fin 256) (ln : Fin 64) (v : W32) (s : State) :
    Host.Outcome State Fault Refusal :=
  onCtl s fun d => if lanesUp d then cqHeadWrite d p sl.val ln.val v else d

/-- POSTCARD_SLOT_WRITE (R58, R61, R67 to R69, R96, R276). -/
def execPostcardSlotWrite (p : Port) (sl : Fin 256) (ln : Fin 64) (slot : Fin 3) (off : Fin 256) (bytes : Bytes)
    (s : State) : Host.Outcome State Fault Refusal :=
  onCtl s fun d => slotWrite d p sl.val ln.val slot.val off.val bytes

/-- DESCRIPTOR_FETCH_DONE (R66, R86, R107): accepted and checked, or FETCH_FAULT and the lane in ERROR. -/
def execDescriptorFetchDone (sl : Fin 256) (ln : Fin 64) (r : DmaResult) (s : State) :
    Host.Outcome State Fault Refusal :=
  onCtl s fun d =>
    if !lanesUp d || !fetchable d sl.val ln.val then d
    else match r with
      | .failed => laneError (setLnErr (dmaFault d sl.val) sl.val ln.val 4) sl.val ln.val
      | .ok bs =>
        let d := holdPages d (getSlice d sl.val).cur sl.val (pagesAt (fetchPlace d sl.val ln.val) 64)
        fetchNext (takeDescriptor d sl.val ln.val (padTo 64 bs)) sl.val ln.val

/-- The bytes of an input read have come: they are counted, and their pages' translations held (R85, R271). -/
def inputRead (d : Ctl) (k : Cmd) : Ctl :=
  let d := holdPages d (getSlice d k.slice).cur k.slice (pagesAt k.inputAddr (k.inputLen + 16))
  bump d k.slice k.lane fun s => { s with hostBytes := satAdd 64 s.hostBytes (k.inputLen + 16) }

/-- INPUT_READ_DONE (R86, R92, R107 check 7): the input verifies and the watchman decides. -/
def execInputReadDone (c : Nat) (r : DmaResult) (s : State) : Host.Outcome State Fault Refusal :=
  onCtl s fun d =>
    match Tbl.find? d.cmds c with
    | none => d
    | some k =>
      if k.phase ≠ .input ∨ k.status.isSome then d
      else
        let d := endInput d c
        match k.early, r with
        | some st, .failed => resolve d c st
        | some st, .ok _ => resolve (inputRead d k) c st
        | none, .failed => resolve (dmaFault d k.slice) c St.dmaInput
        | none, .ok bs =>
          let d := inputRead d k
          match k.epoch.bind fun e => openInput k e (padTo (k.inputLen + 16) bs) with
          | none => resolve d c St.tagMismatch
          | some p => decide89 (modCmd d c fun k => { k with input := p, phase := .accepted }) c { k with input := p }
              (devNow d)

/-- PREDISPATCH_DECISION (R137, R334): a postcard is decided; an outcome without dispatch bears t_accept + 105 ns. -/
def execPredispatchDecision (c : Nat) (s : State) : Host.Outcome State Fault Refusal :=
  onCtl s fun d =>
    match Tbl.find? d.cmds c with
    | none => d
    | some k =>
      if k.phase ≠ .accepted ∨ k.slot.isNone ∨ k.status.isSome ∨ now d < k.waitUntil then d
      else
        let t := k.tAccept + 105
        match k.early with
        | some st => resolveAt d c st t
        | none => match checks456 d k with
          | .error (st, d) => resolveAt d c st t
          | .ok d => decide89 d c k t

/-! ### Admitted commands enter their hamlets (R141) -/

/-- An admitted command of opcode `op` enters QUEUED in each hamlet of its entry point, with its destinations to
reserve. -/
def enterHamlets (d : Ctl) (id : Nat) (op : Byte) : Ctl :=
  match Tbl.find? d.cmds id with
  | none => d
  | some c =>
    if c.phase ≠ .admitted ∨ c.opcode ≠ op ∨ c.status.isSome then d
    else match cmdModel d c, cmdEntry d c with
      | some m, some e =>
        let hs := entryHamlets m e
        let d := offPath d id 6 (hs.any fun h => decide ((idleCores d h).length < e.coreDemand))
        modCmd d id fun c => { c with
          phase := .running, parts := hs.foldl (fun t h => Tbl.set t h {}) [],
          grants := (sortBy (fun a b => decide (a.1 < b.1)) e.dests).map fun x => { dest := x.1, bytes := x.2 } }
      | _, _ => resolve d id St.notResident

/-- An admitted command that runs no model is STAGED at once. -/
def stageAtOnce (d : Ctl) (id : Nat) (op : Byte) : Ctl :=
  match Tbl.find? d.cmds id with
  | none => d
  | some c =>
    if c.phase ≠ .admitted ∨ c.opcode ≠ op ∨ c.status.isSome then d
    else modCmd (offPath d id 9 (!laneClear d id c)) id fun c => { c with phase := .running, parts := [] }

/-- GQI_OP_RUN (R109). -/
def execGqiOpRun (c : Nat) (s : State) : Host.Outcome State Fault Refusal := onCtl s fun d => enterHamlets d c 1

/-- GQI_OP_RUN_CTX (R109, R110). -/
def execGqiOpRunCtx (c : Nat) (s : State) : Host.Outcome State Fault Refusal := onCtl s fun d => enterHamlets d c 2

/-- GQI_OP_PREFILL_CHUNK (R109, R260). -/
def execGqiOpPrefillChunk (c : Nat) (s : State) : Host.Outcome State Fault Refusal := onCtl s fun d => enterHamlets d c 3

/-- GQI_OP_CTX_RELEASE (R109): the context's state is freed when it commits. -/
def execGqiOpCtxRelease (c : Nat) (s : State) : Host.Outcome State Fault Refusal := onCtl s fun d => stageAtOnce d c 4

/-- GQI_OP_NOP (R109). -/
def execGqiOpNop (c : Nat) (s : State) : Host.Outcome State Fault Refusal := onCtl s fun d => stageAtOnce d c 5

end Sys2Proof.Machine
end

