-- ==== Sys2Proof/Machine/Procs.lean ====
section
/-! DEFINITION. Procedures on slices and tenants that run over several steps: reset, destroy, freeze, removal, and how
each goes on (R346 to R353, R314). -/

namespace Sys2Proof.Machine
open Sys2Proof

/-- An admin command completes OK: its journal step is done, its payload awaits delivery (R115). -/
def adminOk (d : Ctl) (id : Nat) (pay : Option Bytes) (field : W32) : Ctl :=
  match Tbl.find? d.cmds id with
  | none => d
  | some c =>
    if c.status.isSome then d
    else modCmd (resolve (closeEntry d c.jseq 0) id St.ok) id fun c => { c with
      payload := pay, resultLen := (pay.map List.length).getD 0, execField := field }

/-- An admin command completes with a refusal. -/
def adminFail (d : Ctl) (id : Nat) (st : Status) : Ctl :=
  match Tbl.find? d.cmds id with
  | none => d
  | some c => if c.status.isSome then d else resolve (closeEntry d c.jseq 3) id st

/-- A model leaves the package: its handle, the contexts that hold its state (R88, R544); its resident ranges are working scratchpad
now, without defined contents (R156). -/
def dropModel (d : Ctl) (h : Nat) : Ctl :=
  let records := ((Tbl.find? d.models h).map Model.records).getD []
  let d := records.foldl (fun d (r : Placement) => openSpad d r.hamlet r.residents) d
  { d with models := Tbl.erase d.models h, contexts := d.contexts.filter fun e => e.2.model.toNat != h }

/-- A reservation ends: its hamlets return to shared mode (R242, R278). -/
def endResv (d : Ctl) (n : Nat) : Ctl :=
  let e := { d with
    reservations := Tbl.erase d.reservations n
    hamlets := Tbl.mapVal d.hamlets fun _ x =>
      if x.reservation = some n then { x with reservation := none, reservedMode := false } else x }
  shareUp d e

/-! ### Commands that run again (R268, R353, R369) -/

/-- A command's instance is discarded and a new one is QUEUED; its kill is not counted (R268). -/
def requeue (d : Ctl) (id : Nat) : Ctl :=
  match Tbl.find? d.cmds id with
  | none => d
  | some c => match cmdModel d c, cmdEntry d c with
    | some m, some e =>
      modCmd (discardInstance d id false) id fun c => { c with
        hangRun := 0, parts := (entryHamlets m e).foldl (fun t h => Tbl.set t h {}) []
        grants := (sortBy (fun a b => decide (a.1 < b.1)) e.dests).map fun x => { dest := x.1, bytes := x.2 } }
    | _, _ => d

/-- A command of a frozen slice is withdrawn: it holds nothing and goes no further (R353). -/
def withdraw (d : Ctl) (id : Nat) : Ctl :=
  modCmd (discardInstance d id false) id fun c => { c with
    was := if c.phase = .running then .admitted else c.phase, phase := .withdrawn, credit := false, hangRun := 0 }

/-- The withdrawn commands of a slice stand where they were, with the credits they returned (R361). -/
def restoreCmds (d : Ctl) (i : Nat) : Ctl :=
  { d with
    cmds := Tbl.mapVal d.cmds fun _ (c : Cmd) =>
      if c.slice = i ∧ c.phase = .withdrawn then { c with phase := c.was, credit := c.firstBind.isNone } else c }

/-! ### Fencing and squashing a slice (R346 to R348) -/

/-- Claims of a slice's contexts and commands become ORPHANED, here and on its peers (R179). -/
def orphanSlice (d : Ctl) (i : Nat) : Ctl :=
  let g := (getSlice d i).gen
  sendOrphan (orphanWhere d fun o => o.pkg == pkgNum d && o.slice == i && o.gen == g) i g 0 true

/-- The sheaves of a slice are squashed (R347). Committed output is delivered by its own events and needs no sheaf here. -/
def squashSheaves (d : Ctl) (i : Nat) : Ctl := squashWhere d fun x => x.slice == i

/-- A save or restore in progress on a slice is given up: the slice stays FROZEN and armed (R354, R358). -/
def abortMig (d : Ctl) (i : Nat) : Ctl :=
  match (getSlice d i).proc with
  | some p =>
    if p.kind = .save ∨ p.kind = .restore then
      completeOrder (modSlice (squashSheaves d i) i fun s => { s with proc := none }) p.jseq 0x40 []
    else d
  | none => d

/-- A slice became ACTIVE while device time is not LOCKED: its TIME_ALARM event (R457). -/
def activated (d : Ctl) (i : Nat) : Ctl :=
  if d.time.state = .locked then d else sliceEvent d i 7 (timeCode d.time.state) 0

/-- Every command of a slice without a token is discarded with `st`; its contexts go (R348 steps 3 and 4). -/
def squashSlice (d : Ctl) (i : Nat) (st : Status) : Ctl :=
  let d := restoreCmds d i
  let adm := d.cmds.filter fun (e : Nat × Cmd) => e.2.slice == i && e.2.phase == .admin && e.2.status.isNone
  let d := adm.foldl (fun d e => closeEntry d e.2.jseq 0x40) d
  let d := discardWhere d (fun _ c => c.slice == i) st
  let d := squashSheaves d i
  let d := forEach (sliceContexts d i) d fun d k => tearDown d i k
  let d := orphanSlice d i
  settled (modSlice d i fun s => { s with
    proc := s.proc.map fun p => { p with squashed := true }
    lanes := Tbl.mapVal s.lanes fun _ (ln : Lane) => { ln with closing := none } })

/-- The slice has no sheaf left (R347). -/
def sheavesDone (d : Ctl) (i : Nat) : Bool := !(d.sheaves.any fun e => e.2.slice == i)

/-- The slice has no submission whose completion is still to be written. -/
def cmdsDone (d : Ctl) (i : Nat) : Bool := !(d.cmds.any fun e => e.2.slice == i && e.2.phase != .withdrawn)

/-! ### Ends (R314, R346, R348, R350, R353) -/

/-- An epoch leaves a slice's table; submissions under it are told apart for a while (R313). -/
def emptyEpoch (s : Slice) (k : EpochKeys) : EmptiedEpoch :=
  ⟨k, s.lanes.map fun (e : Nat × Lane) => (e.1, e.2.stats.accepted)⟩

/-- The installed epochs of generation `g` are emptied (R314). -/
def dropEpochs (s : Slice) (g : Byte) : Slice :=
  let hit (k : EpochKeys) : Bool := k.gen == g
  let gone := (s.keys.current.toList ++ s.keys.previous.toList).filter hit
  { s with
    keys := {
      current := s.keys.current.filter fun k => !hit k, previous := s.keys.previous.filter fun k => !hit k
      emptied := s.keys.emptied ++ gone.map (emptyEpoch s) } }

/-- The features every slice has (R83). -/
def mandatory : W64 := 0x10C

/-- A slice reset ends (R348 step 6, R349): a new generation, compute lanes DISABLED, lane 0 ENABLED, ACTIVE. -/
def endReset (d : Ctl) (i : Nat) (p : SliceProc) : Ctl :=
  let old := (getSlice d i).gen
  let d := mirrorStep d (.slice i) p.jseq (shareUp d (modSlice d i fun s => dropEpochs { s with
    state := .active, gen := s.gen + 1, features := mandatory, featuresSet := false, proc := none, laneCreations := []
    lanes := (s.lanes.filter fun (e : Nat × Lane) => e.1 == 0).map fun (e : Nat × Lane) => (e.1, { e.2 with state := .enabled }) }
      (s.gen + 1)))
  completeOrder (activated (sliceEvent d i 5 (old + 1).toNat old.toNat) i) p.jseq 0 []

/-- A slice leaves its reservation; a reservation left with no slice ends (R346 step 5). -/
def uncover (d : Ctl) (i : Nat) : Ctl :=
  match resvOf d i with
  | none => d
  | some r =>
    let l := r.2.slices.filter (· != i)
    if l.isEmpty then endResv d r.1
    else { d with reservations := Tbl.set d.reservations r.1 { r.2 with slices := l } }

/-- A slice becomes FREE with everything it held (R346 steps 3 to 6). -/
def freeSlice (d : Ctl) (i : Nat) : Ctl :=
  let d := uncover d i
  { dropSheaves d (fun x => x.slice == i) with
    slices := Tbl.erase d.slices i, cmds := d.cmds.filter fun (e : Nat × Cmd) => e.2.slice != i }

/-- The Hearth tally blocks of a tenant are set to value 0, FREE, COUNT and free (R329, R350). -/
def freeBlocks (d : Ctl) (l : List Nat) : Ctl :=
  { d with
    tallyBlocks := d.tallyBlocks.filter fun (e : Nat × Nat) => !l.contains e.1
    tallies := d.tallies.filter fun (e : Nat × Tally) =>
      !(tallyIsHearth e.1 && tallyPkg e.1 == pkgNum d && l.contains (tallyIndex e.1 / 16)) }

/-- A hamlet leaves its tenant (R339, R344): no owner, no model, no key in its memory controllers, nothing of a reset left. -/
def unassign (d : Ctl) (h : Nat) : Ctl :=
  let d := modHam d h fun x => let x := closeChannels x; { x with
    hbmKey := [], assign := .unassigned, tenant := 0, reset := none, sets := [], deferred := [], remoteUsed := 0, preempting := none
    almanac := {}, pendingAlmanac := none, entryInForce := 0, windows := []
    run := if x.outOfService then .outOfService else .running }
  { d with owners := Tbl.erase d.owners (rackHamlet d h) }

/-- A tenant's models, loads and hamlets leave the package. -/
def dropTenantModels (d : Ctl) (t : Nat) : Ctl :=
  forEach ((d.models.filter fun (e : Nat × Model) => e.2.tenant == t).map Prod.fst) d dropModel

/-- The gleanings log holds at most 32 KiB for each hamlet GRANTED to the tenant: its oldest records go first (R388). -/
def recordSize (r : GleaningsRecord) : Nat := r.header.length + r.body.length + r.tag.length

def trimGleanings (limit : Nat) (t : Nat) : Nat → List GleaningsRecord → List GleaningsRecord
  | 0, l => l
  | n + 1, l =>
    let mine := l.filter fun r => r.tenant == t
    if mine.foldl (fun a r => a + recordSize r) 0 ≤ limit then l
    else match mine.head? with
      | some r => trimGleanings limit t n (l.erase r)
      | none => l

/-- The tenant's partition of the gleanings log. -/
def partitionSize (d : Ctl) (t : Nat) : Nat :=
  32768 * (grantedHamlets d t).length

/-- Zeroization and the last step of a removal (R302, R350 steps 5 and 6). -/
def endRemoval (d : Ctl) (t : Nat) : Ctl :=
  match Tbl.find? d.tenants t with
  | none => d
  | some x =>
    let d := dropTenantModels d t
    let d := forEach (slicesWhere d fun s => s.tenant == t) d freeSlice
    let d := forEach (tenantHamlets d t) d unassign
    let d := freeBlocks d (tenantBlocks d t)
    let d := dropSheaves d fun y => y.tenant == t
    let d := { d with
      tenants := Tbl.erase d.tenants t, gleanings := d.gleanings.filter fun r => r.tenant != t
      nonces := d.nonces.filter fun (e : Nat × Nat) => e.1 % 65536 != x.ident.toNat
      peers := Tbl.mapVal d.peers fun _ (p : Peer) => { p with
        weights := Tbl.erase p.weights t, brownWeights := p.brownWeights.map fun w => Tbl.erase w t }
      loads := d.loads.filter fun (e : Nat × Load) => e.2.model.tenant != t }
    emit (completeOrder d x.removeJseq 0 []) (.alertManager (.tenant x.ident.toNat))

/-- Some part of the command is parked. -/
def isParked (c : Cmd) : Bool := c.parts.any fun p => p.2.state == .parked

/-- The commands of a slice that satisfy `p`, neither decided nor parked nor bound, are withdrawn (R353 step 4). -/
def withdrawWhere (d : Ctl) (i : Nat) (p : Cmd → Bool) : Ctl :=
  (d.cmds.filter fun (e : Nat × Cmd) => e.2.slice == i && unsettled e.2 && !isParked e.2 && p e.2 &&
    !(e.2.parts.any fun q => q.2.state == .bound)).foldl (fun d e => withdraw (dropLoad d e.1) e.1) d

/-- A freeze ends once no command of the slice is bound (R353): its claims are ORPHANED (R179; DEDUCED, log 53: a slice is frozen
for save when its freeze ends), FROZEN event, and the order completes. -/
def endFreeze (d : Ctl) (i : Nat) (p : SliceProc) : Ctl :=
  let d := orphanSlice (withdrawWhere d i fun _ => true) i
  let d := modSlice d i fun s => { s with proc := none, frozenAt := devNow d }
  completeOrder (sliceEvent d i 8 0 0) p.jseq 0 []

/-- Some command of the slice is bound. -/
def anyBound (d : Ctl) (i : Nat) : Bool :=
  d.cmds.any fun e => e.2.slice == i && e.2.parts.any fun p => p.2.state == .bound

/-- The procedure of a slice goes on where what it waits for has come (R346 step 6, R348 step 5, R353). -/
def advanceSlice (d : Ctl) (i : Nat) : Ctl :=
  match (getSlice d i).proc with
  | none => d
  | some p => match p.kind with
    | .freeze => if anyBound d i then d else endFreeze d i p
    | .reset => if p.squashed && sheavesDone d i && cmdsDone d i then endReset d i p else d
    | .destroy =>
      if p.squashed && sheavesDone d i && !(d.cmds.any fun e => e.2.slice == i && e.2.phase == .running) then
        completeOrder (mirrorStep d (.slice i) p.jseq (freeSlice d i)) p.jseq 0 []
      else d
    | _ => d

/-- The submissions of a slice whose port changes leave the fast path by no condition of R133. -/
def leaveFast (d : Ctl) (i : Nat) : Ctl :=
  { d with
    cmds := Tbl.mapVal d.cmds fun _ (c : Cmd) => if c.slice = i then { c with moved := true } else c }

/-- Results delivered on a slice's former port whose completion entry is still to be written go out again on its current port, so
that result and entry keep their order (R118). -/
def redeliver (d : Ctl) (i : Nat) : Ctl :=
  (d.cmds.filter fun (e : Nat × Cmd) => e.2.slice == i && e.2.phase == .delivered).foldl (fun d e =>
    e.2.hostWrites.foldl (fun d w => sliceWrite d i e.2.lane false w.1 w.2) d) d

/-- Nothing of the slice reaches the host: it is being destroyed, or its only port is lost (R53, R346 step 2). -/
def silent (d : Ctl) (i : Nat) : Bool :=
  (getSlice d i).state == .portLost || match (getSlice d i).proc with
  | some p => p.kind == .destroy
  | none => false

end Sys2Proof.Machine
end

