-- ==== Sys2Proof/Machine/Hbm.lean ====
section
/-! DEFINITION. Hamlet memory: the pages of models, mirror and spill copies, the ciphertext at rest, and what reads and writes of
HBM and scratchpad meet (06). -/

namespace Sys2Proof.Machine
open Sys2Proof

/-! ### Memory access of commands (R183 to R186, R200, R223) -/

/-- First page of a model's regions. -/
def basePage (m : Model) : Nat := 256 * m.baseMiB

/-- First page and page count of region `k` of a record: 0 model, 1 shadow, 2 context, 3 spill, 4 park (R326). -/
def regionOf (m : Model) (r : Placement) (k : Nat) : Nat × Nat :=
  let l := [r.modelPages, r.shadowPages, r.contextPages, r.spillPages, r.parkPages]
  (basePage m + (l.take k).foldl (· + ·) 0, l.getD k 0)

/-- A page lies in region `k` of a model in hamlet `h`. -/
def inRegion (m : Model) (h k page : Nat) : Bool :=
  m.records.any fun r => r.hamlet == h && (let g := regionOf m r k; decide (g.1 ≤ page) && decide (page < g.1 + g.2))

/-- Pages from a primary to its mirror copy or second spill copy: 6 GiB (R198, R200). -/
def copyPages : Nat := 0x180000

/-- The ranges of a list that are not empty. -/
def someRanges (l : List (Nat × Nat)) : List (Nat × Nat) := l.filter fun g => g.2 != 0

/-- A model's pages of a record carry a mirror copy: not once they were rebuilt on three channels (R200, R202). -/
def recordMirrored (m : Model) (r : Placement) : Bool := m.mirror && !r.single

/-- Page ranges a model holds in hamlet `h`, with mirror copies and second spill copies. -/
def heldPages (m : Model) (h : Nat) : List (Nat × Nat) :=
  someRanges ((m.records.filter fun r => r.hamlet == h).flatMap fun r =>
    let own := (List.range 5).map (regionOf m r)
    let copy (g : Nat × Nat) : Nat × Nat := (g.1 + copyPages, g.2)
    own ++ (if recordMirrored m r then [copy (regionOf m r 0), copy (regionOf m r 1)] else []) ++ [copy (regionOf m r 3)])

/-- Tenant-data ranges a model names in hamlet `h`. -/
def dataPages (m : Model) (h : Nat) : List (Nat × Nat) :=
  someRanges ((m.records.filter fun r => r.hamlet == h).map fun r => (r.dataFirst, r.dataPages))

/-- A page lies in one of the ranges. -/
def inPages (l : List (Nat × Nat)) (page : Nat) : Bool := l.any fun g => decide (g.1 ≤ page) && decide (page < g.1 + g.2)

/-- A model maps a tenant-data page of hamlet `h`. -/
def mapsData (m : Model) (h page : Nat) : Bool := inPages (dataPages m h) page

/-- A page of hamlet `h` is marked LOADING (R185, R327): a page or copy of a load's model, or a tenant-data page that no resident
model has. -/
def isLoading (d : Ctl) (h page : Nat) : Bool :=
  d.loads.any fun e => inPages (heldPages e.2.model h) page ||
    (mapsData e.2.model h page && !(d.models.any fun o => mapsData o.2 h page))

/-- A page of hamlet `h` is a context page. -/
def isContextPage (d : Ctl) (h page : Nat) : Bool := d.models.any fun e => inRegion e.2 h 2 page

/-- The pages that `n` bytes from an offset touch; none in the scratchpad alias. -/
def pagesOf (off n : Nat) : List Nat :=
  if aliasBase ≤ off ∨ n = 0 then [] else (List.range ((off + n - 1) / 4096 - off / 4096 + 1)).map (· + off / 4096)

/-- What stops an access of a command's own code: an unmapped or LOADING page FAULT/MEMORY, a context page without a
context FAULT/PROGRAM (R185, R546). -/
def accessFault (d : Ctl) (h off n : Nat) (ctx : Bool) : Option Status :=
  if !mapped (getHam d h) off n || (pagesOf off n).any (isLoading d h) then some St.memory
  else if !ctx && (pagesOf off n).any (isContextPage d h) then some St.program
  else none

/-- Remote windows allow an access (R223). -/
def inWindow (x : Hamlet) (off n : Nat) (write : Bool) : Bool :=
  x.windows.any fun w => (w.2.perm == 2 || (w.2.perm == 1 && !write)) && decide (w.2.base ≤ off) &&
    decide (off + n ≤ w.2.limit + 1)

/-- A page of hamlet `h` has a mirror copy: model and shadow pages of a mirrored model (R200). -/
def isMirrored (d : Ctl) (h page : Nat) : Bool :=
  d.models.any fun e => e.2.records.any fun r => r.hamlet == h && recordMirrored e.2 r &&
    inPages [regionOf e.2 r 0, regionOf e.2 r 1] page

/-- Page `page` of hamlet `h` is a spill page of a model, with the second copy of R198. -/
def isSpill (d : Ctl) (h page : Nat) : Bool := d.models.any fun e => inRegion e.2 h 3 page

/-- The offset of the other copy of the 64 B block at offset `x`, where it has two (R198, R200): from the first to the second or
back. -/
def otherCopy (d : Ctl) (h x : Nat) : Option Nat :=
  let two (page : Nat) : Bool := isMirrored d h page || isSpill d h page
  let page := x / 4096
  if aliasBase ≤ x then none
  else if two page then some (mirrorOf x)
  else if copyPages ≤ page ∧ two (page - copyPages) then some ((x - 4096 * copyPages) ^^^ 0x200)
  else none

/-- Bytes are written at a hamlet offset, with the mirror copy where the page has one; the blocks written whole lose
their poison, in both copies (R194, R197, R201). -/
def storeBytes (d : Dev) (h off : Nat) (bs : Bytes) : Dev :=
  let key := memKey h off
  let whole (b : Nat) : Bool := decide (key ≤ b) && decide (b + 64 ≤ key + bs.length)
  let copy (b : Nat) : Bool := b / 2 ^ 43 == h && (((otherCopy d.toCtl h (b % 2 ^ 43)).map fun x => whole (memKey h x)).getD false)
  let d := { d with mem := Mem.writeBytes d.mem key bs, poison := d.poison.filter fun b => !whole b && !copy b }
  if aliasBase ≤ off then d
  else { d with
    mem := (bs.zipIdx off).foldl (fun m e =>
      if isMirrored d.toCtl h (e.2 / 4096) then Mem.write m (memKey h (mirrorOf e.2)) e.1 else m) d.mem }

/-- A scratchpad offset of hamlet `h` lies in a resident range of a loaded model. -/
def isResident (d : Ctl) (h off : Nat) : Bool :=
  d.models.any fun e => e.2.records.any fun r => r.hamlet == h && r.residents.any fun g =>
    decide (g.off ≤ off) && decide (off < g.off + g.len)

/-- A scratchpad offset lies in a range without defined contents. -/
def isOpen (x : Hamlet) (s : Nat) : Bool := x.spadOpen.any fun g => decide (g.off ≤ s) && decide (s < g.off + g.len)

/-! ### Encryption at rest (R195) -/

/-- The tweak number of a block of a rack hamlet: its block number in bits [36:0], the hamlet in bits [73:64]. -/
def hbmTweak (d : Ctl) (h block : Nat) : Nat := block % 2 ^ 37 + rackHamlet d h % 1024 * 2 ^ 64

/-- The ciphertext of a 64 B block as the HBM holds it. `mem` is what the window's blocks decrypt to under the key they were
written under. -/
def hbmBlock (mem : List Host.Cell) (d : Ctl) (h block : Nat) : Bytes :=
  xtsEncrypt (getHam d h).sealedUnder (hbmTweak d h block) (Mem.readBytes mem (memKey h (64 * block)) 64)

/-- A block as the memory controllers decrypt it under the key they hold. -/
def hbmDecrypted (mem : List Host.Cell) (d : Ctl) (h block : Nat) : Bytes :=
  xtsDecrypt (getHam d h).hbmKey (hbmTweak d h block) (hbmBlock mem d h block)

/-- `n` bytes of a hamlet's HBM as read through its memory controllers: the bytes written, where the controllers hold the key they
were written under; else what the ciphertext decrypts to. -/
def readHbm (mem : List Host.Cell) (d : Ctl) (h off n : Nat) : Bytes :=
  if (getHam d h).hbmKey = (getHam d h).sealedUnder then Mem.readBytes mem (memKey h off) n
  else sub ((List.range (ceilDiv (off % 64 + n) 64)).flatMap fun k => hbmDecrypted mem d h (off / 64 + k)) (off % 64) n

/-- The memory controllers of hamlet `h` hold a key, or none (R301, R302, R312, R344). -/
def keyHam (d : Ctl) (h : Nat) (key : Bytes) : Ctl := modHam d h fun x => { x with hbmKey := key }

/-! ### Reads and writes of commands -/

/-- The `n` bytes at a hamlet offset, to a command that has written the working bytes `own` itself (R156). Working scratchpad
that a command left holds nothing defined, so those bytes are free values (log 19); since a reset it is 0 (R204). -/
def loadBytes (mem : List Host.Cell) (d : Ctl) (h off n : Nat) (own : Tbl Byte) : Bytes :=
  if off < aliasBase then readHbm mem d h off n
  else (List.range n).map fun k =>
    let s := off + k - aliasBase
    if isResident d h s then Mem.read mem (memKey h (off + k))
    else match Tbl.find? own s with
      | some b => b
      | none => if isOpen (getHam d h) s then Config.drawByte d.fresh k else 0

/-- The draw a read of scratchpad uses up. -/
def loadDraw (d : Ctl) (off : Nat) : Ctl := if off < aliasBase then d else drawn d

/-- One of the `n` bytes at a hamlet offset lies in a poisoned block (R197). -/
def isPoisoned (poison : List Nat) (h off n : Nat) : Bool :=
  poison.any fun b => decide (b < memKey h off + n) && decide (memKey h off < b + 64)

/-- The masked handle of a hamlet's tenant, 0 where it has none. -/
def hamHandle (d : Ctl) (h : Nat) : Nat :=
  let x := getHam d h
  if x.assign = .unassigned then 0 else handleOf d x.tenant

/-- An uncorrectable block of hamlet `h` was read: HAM_ECC_UE counts it and the PF driver is told (R197). -/
def ueEvent (d : Ctl) (h off : Nat) : Ctl :=
  let d := modHam d h fun x => { x with eccUe := addCount x.eccUe 1 }
  faultRecord d 7 1 2 h (channelOf (getHam d h) off) (hamHandle d h) 0xFFFF 0

/-- A read met a poisoned block: of HBM (R197). An error in scratchpad has had its record (R367). -/
def poisonRead (poison : List Nat) (d : Ctl) (h off n : Nat) : Ctl :=
  if aliasBase ≤ off then d
  else ueEvent d h (((poison.find? fun b => isPoisoned [b] h off n).getD 0) % 2 ^ 43)

/-- The package with its control state changed. -/
def withCtl (d : Dev) (f : Ctl → Ctl) : Dev := { d with toCtl := f d.toCtl }

/-- Staged writes by memory key are applied in order (R166). What another hamlet wrote to working scratchpad is not defined there
(R156). -/
def applyWrites (d : Dev) (ws : List (Nat × Bytes)) : Dev :=
  ws.foldl (fun d w =>
    let h := w.1 / 2 ^ 43
    let off := w.1 % 2 ^ 43
    withCtl (storeBytes d h off w.2) fun d => if off < aliasBase then d else openSpad d h [⟨off - aliasBase, w.2.length⟩]) d

end Sys2Proof.Machine
end

