-- ==== Sys2Proof/Machine/Compute.lean ====
section
/-! DEFINITION. Commands in hamlets: granary reservation, binding, tiles, remote operations, tally operations, commit,
delivery and completion (04, 05, 08). -/

namespace Sys2Proof.Machine
open Sys2Proof

/-! ### Granary and binding -/

/-- The hang timer of an instance starts, or goes on from the time run, where it did not run (R393). -/
def startTimer (d : Ctl) (id : Nat) : Ctl :=
  modCmd d id fun c => { c with bindTime := if hangRuns c then c.bindTime else now d }

/-- The parts of a command that can reserve local space now do (R163): those of a command with a destination list are RESERVING;
one without stays QUEUED, its space held, until its cores bind (R141, R158). -/
def reserveParts (d : Ctl) (id : Nat) : Ctl :=
  match Tbl.find? d.cmds id with
  | none => d
  | some c =>
    let need := ((cmdEntry d c).map Entry.granaryLocal).getD 0
    c.parts.foldl (fun d e =>
      let h := e.1
      let ahead := (inStates d h [.queued]).any fun q =>
        q.1 != id && !q.2.2.reserved && dispatchBefore d h q.2.1 c && decide (0 < ((cmdEntry d q.2.1).map Entry.granaryLocal).getD 0)
      if e.2.state == .queued && !e.2.reserved && (need == 0 || (!ahead && decide (localUsed d h + need ≤ localBytes (getHam d h)))) then
        let d := if c.grants.isEmpty then d else startTimer d id
        modPart d id h fun p => { p with
          state := if c.grants.isEmpty then .queued else .reserving, reserved := true, granary := need }
      else d) d

/-- GRANARY_RESERVE (R141, R163, R164). -/
def execGranaryReserve (c : Nat) (s : State) : Host.Outcome State Fault Refusal :=
  onCtl s fun d => shareUp d (settled (reserveParts d c))

/-- The lowest idle cores a command binds to, slot k on the k-th (R158). -/
def bindCores (d : Ctl) (h n : Nat) : List Nat := (idleCores d h).take n

/-- A bind in a POOL slot: its POOL time begins, and the slice's virtual time is charged at the instance's first one (R251). -/
def chargeShare (d : Ctl) (id h : Nat) (c : Cmd) (p : Part) (e : Entry) : Ctl :=
  if !inPool d h then d
  else
    let d := modPart d id h fun p => { p with poolSince := some (now d) }
    if p.charged.isSome ∨ p.state = .parked then d
    else
      let n := scaledCost d c.slice h e
      modPart (moveShare d c.slice h (e.coreDemand * n : Nat)) id h fun p => { p with charged := some n }

/-- The first bind returns the credit and ends the queue wait (R271, R272). -/
def firstBind (d : Ctl) (id : Nat) (c : Cmd) : Ctl :=
  if c.firstBind.isSome then d
  else
    let w := (now d - c.tDecide) / 2 ^ 32
    let d := modCmd d id fun c => { c with firstBind := some (now d), credit := false }
    bump d c.slice c.lane fun s => { s with
      queueWaitTotal := satAdd 64 s.queueWaitTotal w, queueWaitMax := max s.queueWaitMax w }

/-- The ready command binds (R158, R159), or a chunk out of order completes instead (R260). -/
def bindReady (d : Ctl) (h : Nat) (r : Nat × Cmd × Part) : Ctl :=
  let id := r.1
  let c := r.2.1
  match cmdEntry d c with
  | none => d
  | some e =>
    let stale := isBulk c &&
      (match (Tbl.find? d.contexts (ctxKey c.slice c.context)).bind Context.chunks with
       | some k => chunkIdx c != k.committed
       | none => true)
    if stale then discard d id St.contextUnknown
    else
      let d := chargeShare (firstBind d id c) id h c r.2.2 e
      let cores := bindCores d h e.coreDemand
      modPart (startTimer d id) id h fun p => { p with
        state := .bound, cores := cores, bindAt := now d, resumed := p.state == .parked, restoring := p.state == .parked }

/-- The hamlet binds: granted, in service, not fenced and not paused. -/
def mayBind (d : Ctl) (h : Nat) : Bool :=
  let x := getHam d h
  d.pkg.life == .operating && x.assign == .granted && !x.outOfService && x.reset.isNone && !hamletPaused d h &&
    d.pkg.warm.isNone && !d.pkg.outOfService

/-- Condition 6 of R133 fails for the waiting commands of a hamlet that its idle cores cannot hold now. -/
def markCores (d : Ctl) (h : Nat) : Ctl :=
  ((dispatchList d h).filter fun e => decide ((idleCores d h).length < demandOf d e.2.1)).foldl (fun d e => offPath d e.1 6 true) d

/-- BIND_COMMAND (R133 condition 6, R158, R246, R247). -/
def execBindCommand (h : Fin 32) (s : State) : Host.Outcome State Fault Refusal :=
  onCtl s fun d =>
    if !mayBind d h.val then d
    else
      let d := markCores d h.val
      match readyCmd d h.val with
      | some r => shareUp d (settled (bindReady d h.val r))
      | none => d

/-! ### Tiles (R156, R157, R161) -/

/-- A command runs in hamlet `h`: bound there, its live state in place. -/
def runsIn (c : Cmd) (h : Nat) : Bool :=
  match Tbl.find? c.parts h with
  | some p => p.state == .bound && !p.restoring && !p.parking && unsettled c
  | none => false

/-- The tile runs: on a core its command is bound to in its hamlet. -/
def runsTile (c : Cmd) (t : Tile) : Bool :=
  runsIn c t.hamlet.val && match Tbl.find? c.parts t.hamlet.val with
  | some p => p.cores.contains t.core.val
  | none => false

/-- The tile a wait belongs to. -/
def waitTile : TileWait → Tile
  | .tally t _ => t
  | .remote t _ => t

/-- Some tile of the command in hamlet `h` awaits an answer or a release (R157). -/
def waitsIn (c : Cmd) (h : Nat) : Bool := c.waits.any fun w => (waitTile w).hamlet.val == h

/-- The tile may complete: nothing it issued is outstanding, nor for the last one anything in its hamlet (R157), and its wave
may start: a victim's part runs no wave past its stile (R172, R267). -/
def mayComplete (c : Cmd) (t : Tile) (last : Bool) : Bool :=
  runsTile c t && !(c.waits.any fun w => waitTile w == t) && !(last && waitsIn c t.hamlet.val) &&
    match Tbl.find? c.parts t.hamlet.val with
    | some p => p.parkAt.all fun s => decide (p.wave < s.wave)
    | none => false

/-- The part has completed its last tile: its cores are idle, and it is STAGED (R159). -/
def stagePart (d : Ctl) (id h : Nat) : Ctl :=
  let d := settleShare (releaseCores d id h) id h
  let d := modPart d id h fun p => { p with state := .staged }
  let d := modHam d h fun x => { x with preempting := x.preempting.filter fun p => p.1 != id }
  match Tbl.find? d.cmds id with
  | some c => if c.parts.all fun p => p.2.state == .staged then offPath d id 9 (!laneClear d id c) else d
  | none => d

/-- The schedule slot of a tile: 1,024 × the position of its hamlet in the entry point's list + the position of its core. -/
def slotOf (d : Ctl) (c : Cmd) (t : Tile) : Nat :=
  let hs := match cmdModel d c, cmdEntry d c with
    | some m, some e => entryHamlets m e
    | _, _ => []
  1024 * hs.idxOf t.hamlet.val + ((Tbl.find? c.parts t.hamlet.val).map fun p => p.cores.idxOf t.core.val).getD 0

/-- A tile has read committed state or received an answer: `bs` (R154). -/
def seeTile (d : Ctl) (id : Nat) (t : Tile) (bs : List Bytes) : Ctl :=
  modCmd d id fun c => { c with seen := Tbl.modify c.seen (slotOf d c t) [] (· ++ bs) }

/-- Bytes at a memory key as a command's own tiles read them: what it has staged there, in program order, over what is
committed (R162). -/
def stagedOver (ws : List (Nat × Bytes)) (key : Nat) (bs : Bytes) : Bytes :=
  (bs.zipIdx key).map fun e => ws.foldl (fun b w =>
    if w.1 ≤ e.2 ∧ e.2 < w.1 + w.2.length then w.2.getD (e.2 - w.1) 0 else b) e.1

/-- What a tile of the command reads in its own hamlet: staged over committed, and the working bytes it wrote (R156, R162). -/
def tileReads (mem : List Host.Cell) (d : Ctl) (c : Cmd) (h off n : Nat) : Bytes :=
  stagedOver c.writes (memKey h off) (loadBytes mem d h off n (((Tbl.find? c.parts h).map Part.working).getD []))

/-- What the output of the tile that completes next in a slot is a function of (R154). -/
def tileKey (d : Ctl) (c : Cmd) (t : Tile) (seen : List Bytes) : TileKey :=
  { image := ((cmdModel d c).map Model.bodyTag).getD [], kind := ((cmdEntry d c).map Entry.kind).getD 0, aux := c.aux
    input := c.input, seen := Tbl.modify c.seen (slotOf d c t) [] (· ++ seen), slot := slotOf d c t }

/-- The output of a completed tile: what a tile of the same key wrote before, else what this one wrote (R154: the function is the
compiled code's, and its first value stands; log 54). -/
def tileOutput (d : Ctl) (k : TileKey) (out : List (Nat × Bytes)) : List (Nat × Bytes) :=
  ((d.computed.find? fun e => e.1 == k).map Prod.snd).getD out

/-- One byte that a write at scratchpad offset `s` or below the alias carries is staged: HBM and resident ranges are (R156, R161). -/
def stagesByte (d : Ctl) (h off : Nat) : Bool := decide (off < aliasBase) || isResident d h (off - aliasBase)

/-- A write to the own hamlet cut into the runs that are staged, as offset and bytes (R156: byte by byte). -/
def stagedRuns (d : Ctl) (h : Nat) : Nat → Bytes → List (Nat × Bytes)
  | _, [] => []
  | off, b :: l =>
    let r := stagedRuns d h (off + 1) l
    if !stagesByte d h off then r
    else match r with
      | (o, bs) :: r' => if o = off + 1 then (off, b :: bs) :: r' else (off, [b]) :: r
      | [] => [(off, [b])]

/-- A write of a command to its own hamlet: HBM and resident bytes are staged, working bytes written at once (R156, R161). -/
def writeLocal (d : Ctl) (id h : Nat) (w : Nat × Bytes) : Ctl :=
  let runs := stagedRuns d h w.1 w.2
  let own := (w.2.zipIdx w.1).filter fun e => !stagesByte d h e.2
  let d := modPart d id h fun p => { p with
    staged := p.staged + runs.foldl (fun n r => n + r.2.length) 0
    working := own.foldl (fun t e => Tbl.set t (e.2 - aliasBase) e.1) p.working }
  modCmd d id fun c => { c with writes := c.writes ++ runs.map fun r => (memKey h r.1, r.2) }

/-- What a part may stage locally: its granary_local, and with SPILL its spill region's bytes (R142, R163). DESIGN CHOICE (log 53):
the spec states no effect of staging more; the command completes FAULT/PROGRAM, as beyond a remote grant (R164). -/
def stagesTooMuch (d : Ctl) (id h : Nat) : Bool :=
  match Tbl.find? d.cmds id with
  | none => false
  | some c => match cmdEntry d c, Tbl.find? c.parts h with
    | some e, some p => decide (e.granaryLocal + (if e.spill then e.spillBytes else 0) < p.staged)
    | _, _ => false

/-- A completed tile's writes, output, flags, registers and cycles join its command and core (R49, R150, R154, R157, R161). -/
def addTile (mem : List Host.Cell) (d : Ctl) (id : Nat) (t : Tile) (c : Cmd) (e : TileEffects) : Ctl :=
  let h := t.hamlet.val
  let seen := (e.reads.map fun r => tileReads mem d c h r.1 r.2) ++ [[]]
  let key := tileKey d c t seen
  let out := tileOutput d key e.output
  let d := seeTile { d with computed := if d.computed.any fun k => k.1 == key then d.computed else d.computed ++ [(key, out)] } id t seen
  let d := modHam d h fun x => { x with
    coreFlags := e.flags.foldl (fun t f => Tbl.set t f.1 f.2) x.coreFlags
    coreStore := if e.registers.isEmpty then x.coreStore else Tbl.modify x.coreStore t.core.val [] fun r =>
      e.registers.foldl (fun r w => (w.2.zipIdx w.1).foldl (fun r b => Tbl.set r b.2 b.1) r) r }
  let d := e.writes.foldl (fun d w => writeLocal d id h w) d
  let d := modPart d id h fun p => { p with
    staged := p.staged + out.foldl (fun n o => n + o.2.length) 0, wave := p.wave + b2n (e.waveEnd || e.last) }
  modCmd d id fun k => { k with output := k.output ++ out, cycles := k.cycles + e.cycles }

/-- TILE_COMPLETE (R100, R154, R156, R157, R161, R163, R185, R546). -/
def execTileComplete (c : Nat) (t : Tile) (e : TileEffects) (s : State) : Host.Outcome State Fault Refusal :=
  onCtl s fun d =>
    match Tbl.find? d.cmds c with
    | none => d
    | some k =>
      let h := t.hamlet.val
      if !mayComplete k t e.last || jobsLost d then d
      else
        let out := ((cmdEntry d k).map Entry.outputBytes).getD 0
        let bad := (e.reads ++ e.writes.map fun w => (w.1, w.2.length)).findSome? fun w => accessFault d h w.1 w.2 (isContextOp k.opcode)
        let o := tileOutput d (tileKey d k t ((e.reads.map fun r => tileReads s.mem d k h r.1 r.2) ++ [[]])) e.output
        if e.illegal || o.any fun o => decide (out < o.1 + o.2.length) then settled (discard d c St.program)
        else match bad with
          | some st => settled (discard d c st)
          | none =>
            let d := addTile s.mem d c t k e
            if stagesTooMuch d c h then settled (discard d c St.program)
            else if e.last then advanceSlice (shareUp d (stagePart d c h)) k.slice else d

/-! ### Commit (R165 to R168) -/

/-- The command's payload: exactly output_bytes, unwritten bytes zero; none for a chunk before the last (R100). -/
def payloadOf (d : Ctl) (c : Cmd) : Option Bytes :=
  match cmdEntry d c with
  | none => none
  | some e =>
    if (isBulk c ∧ chunkIdx c + 1 < chunkCount c) ∨ e.outputBytes = 0 then none
    else some (c.output.foldl (fun b o => overlay b o.1 o.2) (zeros e.outputBytes))

/-- Every condition of R165 for the token holds. -/
def mayCommit (d : Ctl) (id : Nat) (c : Cmd) : Bool :=
  c.phase == .running && unsettled c && (c.parts.all fun p => p.2.state == .staged) && (c.grants.all fun g => g.acks == 0) &&
    laneClear d id c && contextClear d id c &&
    (let s := getSlice d c.slice
     s.state == .active || (match s.proc with | some p => !p.squashed | none => false))

/-- The context's record after a commit (R109, R110, R260). -/
def commitContext (d : Ctl) (c : Cmd) : Ctl :=
  let k := ctxKey c.slice c.context
  if c.opcode = 4 then { d with contexts := Tbl.erase d.contexts k }
  else if isBulk c then
    { d with
      contexts := Tbl.update d.contexts k fun x => { x with
        holds := true, model := c.model
        chunks := x.chunks.bind fun r =>
          if r.committed + 1 = r.count then none else some { r with committed := r.committed + 1 } } }
  else d

/-- Command-scoped claims of an instance that reaches DONE are released (R177). -/
def endScoped (d : Ctl) (id : Nat) (c : Cmd) : Ctl :=
  if isContextOp c.opcode then d
  else c.claims.foldl (fun d k => undoClaim d id c { k with wasOrphaned := false } false) d

/-- Every apply is done: the command is DONE and its result is due (R141, R168). -/
def finishCommit (d : Ctl) (id : Nat) : Ctl :=
  match Tbl.find? d.cmds id with
  | none => d
  | some c =>
    if !c.token || c.phase != .running || c.grants.any Grant.applied then d
    else
      let d := endScoped d id c
      modCmd d id fun c => { c with
        phase := if writesTrailer c (c.status.getD St.ok) then .resolved else .delivered, parts := [], grants := [],
        claims := [] }

/-- One set staged in a hamlet of this package is applied: data, then tally operations in program order (R167). -/
def applySet (d : Dev) (h : Nat) (x : StagedSet) : Dev :=
  let d := applyWrites d x.writes
  let pkg := x.src / 32 % 32
  let d := withCtl d fun d => x.tallyOps.foldl (fun d o =>
    applyTally d o.1.toNat o.2.1 {
      pkg := pkg, slice := o.2.2.1 % 256, gen := BitVec.ofNat 8 (o.2.2.1 / 256), context := o.2.2.1 / 65536,
      cmd := o.2.2.2 / 65536, inst := o.2.2.2 % 65536 }) d
  withCtl d fun d => dropSet d h x.src x.ttag

/-- The owner fields of a staged tally operation: generation, slice and context; command and instance. -/
def packOwner (o : Owner) : Nat × Nat := (o.slice + 256 * o.gen.toNat + 65536 * o.context, 65536 * o.cmd + o.inst % 65536)

/-- The sets a command staged in other hamlets of this package. -/
def ownSets (d : Ctl) (c : Cmd) : List (Nat × StagedSet) :=
  c.grants.flatMap fun g =>
    if g.held && g.dest / 32 == pkgNum d then
      ((getHam d (g.dest % 32)).sets.filter fun x => x.src == rackHamlet d (homeHamlet d c) && x.ttag == g.ttag).map
        fun x => (g.dest % 32, x)
    else []

/-- COMMIT to each receiving hamlet of another package; unused grants are given up (R166, R219). A hamlet that has changed its tenant
gets none (R225). -/
def sendCommits (d : Ctl) (id : Nat) (c : Cmd) : Ctl :=
  let h := homeHamlet d c
  ((List.range c.grants.length).zip c.grants).foldl (fun d e =>
    let g := e.2
    if g.dest / 32 = pkgNum d ∨ !g.asked ∨ wrongOwner d (cmdMsg d c h g.dest g.ttag).tenant.toNat g.dest ∨
        (g.used = 0 ∧ endIsHearth g.dest) then d
    else if g.used = 0 then sendMsg d 0x22 (cmdMsg d c h g.dest g.ttag)
    else
      let q : Request := {
        hamlet := h, ttag := g.ttag, cmd := id, inst := c.instance_, peer := endPkg g.dest, opcode := 0x23, time := now d }
      modGrant { sendMsg d 0x23 (cmdMsg d c h g.dest g.ttag) with requests := d.requests ++ [q] } id e.1 fun g =>
        { g with applied := true }) d

/-- The status of a command that commits at device time `t` (R103, R107). -/
def commitStatus (c : Cmd) (t : W64) : Status :=
  match c.diverted with
  | some st => st
  | none => if c.deadline = noDeadline ∨ timeLe t c.deadline then St.ok else St.late

/-- The commit token is issued: t_commit, the status and the payload are fixed (R103, R165), and the parts are COMMITTED, their local
space released as it is applied (R141). DESIGN CHOICE (log 50): the t_commit of a diverted command that commits is its token's time
too. -/
def issueToken (d : Ctl) (id : Nat) (c : Cmd) : Ctl :=
  let t := devNow d
  let pay := payloadOf d c
  modCmd d id fun x => { x with
    token := true, status := some (commitStatus c t), tCommit := t, iCommit := now d, credit := false, payload := pay,
    resultLen := (pay.map List.length).getD 0
    parts := Tbl.mapVal x.parts fun _ p => { p with state := .committed, granary := 0, staged := 0 } }

/-- Every staged write and tally operation of the command is applied in this package (R166); those of several hamlets in ascending
order of source hamlet (R182). -/
def applyStaged (d : Dev) (id : Nat) (c : Cmd) (sets : List (Nat × StagedSet)) : Dev :=
  let d := applyWrites d c.writes
  let ops := (List.range 32).flatMap fun h => c.tallyOps.filter fun o => o.1 == h
  let d := withCtl d fun d => ops.foldl (fun d o => applyTally d o.2.1.toNat o.2.2 (ownerOf d id c)) d
  sets.foldl (fun d x => applySet d x.1 x.2) d

/-- The commit token: t_commit, the status, and every staged write applied (R103, R107, R165, R166). -/
def commit (d : Dev) (id : Nat) : Dev :=
  match Tbl.find? d.cmds id with
  | none => d
  | some c =>
    if jobsLost d.toCtl || !mayCommit d.toCtl id c then d
    else
      let sets := ownSets d.toCtl c
      let d := applyStaged (withCtl d fun d => issueToken d id c) id c sets
      withCtl d fun d => settled (finishCommit (sendCommits (commitContext d c) id c) id)

/-- COMMIT_TOKEN (R122, R165, R166). -/
def execCommitToken (c : Nat) (s : State) : Host.Outcome State Fault Refusal :=
  onDev s fun d =>
    let e := commit d c
    let i := ((Tbl.find? d.cmds c).map Cmd.slice).getD 256
    withCtl e fun e => advanceSlice (shareUp d.toCtl e) i

/-! ### Delivery and completion (R99 to R102, R118, R72) -/

/-- The key a result is sealed under: its epoch's, or CURRENT for a postcard that verified under none (R101, R313). DESIGN CHOICE
(log 50): a slice without a CURRENT key seals no trailer, as for NO_KEY. -/
def sealKey (d : Ctl) (c : Cmd) : Option Bytes :=
  match c.epoch with
  | some e => some e.d2h
  | none => (getSlice d c.slice).keys.current.map EpochKeys.d2h

/-- A result of 256 B or less of a descriptor is sealed on engines 0 to 3 while the FAST window has room (R276). -/
def isSmall (d : Ctl) (c : Cmd) : Bool :=
  c.slot.isNone && decide (c.resultLen ≤ 256 ∧ fastCount d c.slice < (getSlice d c.slice).fastLimit)

/-- A result passes its engine and its carter (R321): a postcard's and a small one engines 0 to 3, any other the bulk engines; its
reservation's buckets pay (R284). -/
def sealResult (d : Ctl) (c : Cmd) (n : Nat) : Ctl :=
  let d := drawUnit d c.slice n false
  if isSmall d c then countFast d c.slice else if c.slot.isSome then d else drawUnit d c.slice n true

/-- The pages of a command's result buffer that its writes touch. -/
def resultPages (c : Cmd) : List Nat :=
  (pagesAt c.resultAddr c.resultLen ++ pagesAt (c.resultAddr + BitVec.ofNat 64 c.resultCap - 32) 32).eraseDups

/-- Conditions 8 and 2 of R133 at the seal and at transmit: where ATS is enabled, the result pages' translations are held on the
current port, or requested and, where they come, held from now on; the port runs at its full rate. -/
def holdTranslation (d : Ctl) (id : Nat) (c : Cmd) (granted : Bool) : Ctl :=
  let s := getSlice d c.slice
  let p := getPort d s.cur
  let missing := p.ats && (resultPages c).any fun q => !atcHolds p (pasidOn s s.cur) q
  let d := offPath (offPath d id 8 missing) id 2 (c.slot.isSome && (p.rate != 128 || p.width != 16))
  let d := askPages d s.cur c.slice (resultPages c)
  if granted then holdPages d s.cur c.slice (resultPages c) else d

/-- The result writes: payload, its tag at C - 32, the trailer at C - 16, in that order (R99, R118). DESIGN CHOICE (log 50): payload
and trailer are translated apart; where one translation fails the other part is still written, and a trailer without a payload
keeps its status when its tag's translation fails. -/
def deliver (d : Ctl) (id : Nat) (c : Cmd) (x : ResultTranslation) : Ctl :=
  let p := getPort d (getSlice d c.slice).cur
  let okPay := !p.ats || x.payload
  let okTrail := !p.ats || x.trailer
  let st0 := c.status.getD St.ok
  let st := if (c.payload.isSome && !okPay) || !okTrail then St.dmaResult else st0
  let pay := if succeeded st then c.payload else none
  let len := if succeeded st then c.resultLen else if st = St.superseded then c.resultLen else 0
  let trailer := trailerBytes c (guestStatus st) pay.isSome (if pay.isSome then len else 0)
  let d := holdTranslation d id c (okPay && okTrail)
  let d := if st = St.dmaResult then dmaFault d c.slice else d
  match sealKey d c with
  | none => modCmd d id fun c => { c with phase := .delivered }
  | some k =>
    let box := gcmSeal k (laneNonce c 3) trailer (pay.getD [])
    let cap := BitVec.ofNat 64 c.resultCap
    let ws := (if pay.isSome then [(c.resultAddr, box.1)] else []) ++
      (if okPay then [(c.resultAddr + cap - 32, box.2)] else []) ++ (if okTrail then [(c.resultAddr + cap - 16, trailer)] else [])
    let fast := onFastPath ((Tbl.find? d.cmds id).getD c)
    let n := ws.foldl (fun a w => a + w.2.length) 0
    let d := ws.foldl (fun d w => sliceWrite d c.slice c.lane fast w.1 w.2) (sealResult d c n)
    let d := bump d c.slice c.lane fun s => { s with hostBytes := satAdd 64 s.hostBytes n }
    modCmd d id fun c => { c with
      phase := .delivered, status := some st, resultLen := len, trailerOk := okTrail, hostWrites := ws }

/-- RESULT_DELIVERY (R86, R97, R99 to R101, R118). -/
def execResultDelivery (c : Nat) (x : ResultTranslation) (s : State) : Host.Outcome State Fault Refusal :=
  onCtl s fun d =>
    match Tbl.find? d.cmds c with
    | some k => if k.phase = .resolved && !silent d k.slice && !jobsLost d then deliver d c k x else d
    | none => d

/-- t_accept_delta: the interval from acceptance to commit in ns (R102). -/
def acceptDelta (c : Cmd) : Nat := min ((c.iCommit - c.iAccept) / 2 ^ 32) 0xFFFFFFFF

/-- The counters of R139 for a completed submission of a compute lane. -/
def countPath (c : Cmd) (st : Status) (s : Stats) : Stats :=
  match c.offPath with
  | some k => { s with offpath := Tbl.modify s.offpath k 0 fun n => satAdd 32 n 1 }
  | none =>
    if onFastPath c ∧ succeeded st then { s with
      fastPath := satAdd 64 s.fastPath 1
      fastOver := if cycNs c.compiledCost + 180 < ((acceptDelta c : Nat) : Rat) then satAdd 64 s.fastOver 1 else s.fastOver }
    else s

/-- The completion entry of a command (R102). -/
def completionEntry (c : Cmd) (st : Status) : Bytes :=
  entryBytes c.seq (guestStatus st) ((if c.slot.isSome then 4 else 0) + (if c.trailerOk then 8 else 0)) c.gen.toNat c.tCommit
    c.resultLen (acceptDelta c) (if c.lane = 0 then c.execField.toNat else c.ranModel.toNat)

/-- The completion ring write of a lane fails: the lane is in ERROR; on lane 0 the slice is FENCED (R86). DESIGN CHOICE (log 50):
the LANE_ERROR event carries the status of a failed result write, FAULT/DMA_RESULT, in executed_model. -/
def ringFailed (d : Ctl) (i l : Nat) : Ctl :=
  if l = 0 then laneZeroFailed d i else sliceEvent (laneError (dmaFault d i) i l) i 2 l (statusWord St.dmaResult)

/-- The ring page of a lane's next entry is translated: its translation is asked for, and held. -/
def ringTranslated (d : Ctl) (i l : Nat) (granted : Bool) : Ctl :=
  let s := getSlice d i
  let page := (ringPlace s (getLane d i l)).toNat / 4096
  let d := askPage d s.cur i page
  if granted then holdPage d s.cur i page else d

/-- A lane whose reset awaited its last aborted completion is ENABLED again, and the reset completes (R113). -/
def laneReopen (d : Ctl) (i l : Nat) : Ctl :=
  match (getLane d i l).closing with
  | none => d
  | some id =>
    if (outstanding d i l).isEmpty then
      let d := modLane d i l fun ln => { ln with
        closing := none, state := if ln.state = .fenced ∧ (getSlice d i).state = .active then .enabled else ln.state }
      adminOk d id none 0
    else d

/-- COMPLETION_ENTRY_WRITE (R68, R72, R73, R86, R102, R139). -/
def execCompletionEntryWrite (c : Nat) (translated : Bool) (s : State) : Host.Outcome State Fault Refusal :=
  onCtl s fun d =>
    match Tbl.find? d.cmds c with
    | none => d
    | some k =>
      let i := k.slice
      let l := k.lane
      if k.phase ≠ .delivered ∨ silent d i ∨ jobsLost d ∨ (oldest d i l).map Prod.fst ≠ some c then d
      else
        let st := k.status.getD St.ok
        let d := detailRecord (bump d i l fun s => if l = 0 then countStatus st s else countPath k st (countStatus st s)) k st
        let d := dropCmd d c
        let d := match k.slot with | some n => modSlot d i l n fun _ => {} | none => d
        let d := ringTranslated d i l translated
        if (getPort d (getSlice d i).cur).ats && !translated then advanceSlice (ringFailed d i l) i
        else fetchNext (advanceSlice (laneReopen (ringWrite d i l (onFastPath k) k.hostWrites (completionEntry k st)) i l) i) i l

/-- IRQ_TIME_THRESHOLD (R76): the oldest completion since the last interrupt is older than the time threshold. -/
def execIrqTimeThreshold (sl : Fin 256) (ln : Fin 64) (s : State) : Host.Outcome State Fault Refusal :=
  onCtl s fun d => if windowLive d sl.val ln.val then checkIrq d sl.val ln.val else d

end Sys2Proof.Machine
end

