-- ==== Sys2Proof/Machine/Admin.lean ====
section
/-! DEFINITION. The admin commands of lane 0 but model loading and unloading (03, 08, 13). -/

namespace Sys2Proof.Machine
open Sys2Proof

/-- The admin command `id` of opcode `op` is the next of its slice, and no order before it on its slice is in progress
(R115, R433). -/
def adminReady (d : Ctl) (id : Nat) (op : Byte) : Option Cmd :=
  (Tbl.find? d.cmds id).bind fun c =>
    let first := List.find? (fun (e : Nat × Cmd) => e.2.slice == c.slice && e.2.lane == 0 && e.2.gen == c.gen &&
      e.2.phase == .admin && e.2.status.isNone) d.cmds
    let early := (blockers d c.jseq (.slice c.slice)).any fun e => decide (e.1 < c.jseq)
    let started := ((Tbl.find? d.reeve.journal c.jseq).map fun e => e.state == .executing).getD false
    if c.phase == .admin && c.opcode == op && c.status.isNone && first.map Prod.fst == some id && !early && !started &&
        (getSlice d c.slice).state == .active && reeveUp d then some c else none

/-- An admin command executes in its journal step: check 5, then check 6 with its draws, then its effect (R107). -/
def adminRun (d : Ctl) (id : Nat) (op : Byte) (check : Ctl → Cmd → Option Status) (f : Ctl → Cmd → Ctl) : Ctl :=
  match adminReady d id op with
  | some c =>
    let b := beginOrder d c.jseq
    stamp c.jseq d (match check b c with
      | some st => adminFail b id st
      | none => match check6 b c with
        | some b => f b c
        | none => adminFail b id St.rateLimit)
  | none => d

/-- The identify block (R115); its hamlets are those GRANTED (R340). -/
def identifyBlock (d : Ctl) (i : Nat) : Bytes :=
  let s := getSlice d i
  padTo 64 (leBytes 4 0x102 ++ leBytes 4 (0xA7F3 + 65536 * 0x40) ++ leBytes 8 featuresOffered.toNat ++
    leBytes 8 s.features.toNat ++ leBytes 1 i ++ leBytes 1 s.laneLimit ++ leBytes 1 s.gen.toNat ++ leBytes 1 3 ++
    leBytes 4 0x40000000 ++ leBytes 4 65536 ++ leBytes 4 (grantedHamlets d s.tenant).length ++ leBytes 8 (devNow d).toNat)

/-- GQI_ADM_IDENTIFY (R112, R115). -/
def execGqiAdmIdentify (c : Nat) (s : State) : Host.Outcome State Fault Refusal :=
  onCtl s fun d => adminRun d c 0x80 (fun _ _ => none) fun d k =>
    if k.resultCap < 96 then adminFail d c St.resultTooSmall else adminOk d c (some (identifyBlock d k.slice)) 0

/-- A compute lane exists on the slice. -/
def hasComputeLane (s : Slice) : Bool := s.lanes.any fun e => e.1 != 0 && e.2.state != .disabled

/-- The operator permits the tenant what the mask names: STRICT_TIMING and MIGRATION (R332, R352). -/
def featuresPermitted (d : Ctl) (t : Nat) (mask : W64) : Bool :=
  match Tbl.find? d.tenants t with
  | some x => (x.permitStrict || !mask.getLsbD 9) && (x.permitMigration || !mask.getLsbD 10)
  | none => !mask.getLsbD 9 && !mask.getLsbD 10

/-- Check 5 of GQI_ADM_SET_FEATURES (R82, R332, R352). -/
def featureCheck (d : Ctl) (k : Cmd) : Option Status :=
  let s := getSlice d k.slice
  if !featuresPermitted d s.tenant (BitVec.ofNat 64 (fld k.raw 16 8)) then some St.notPermitted
  else if s.featuresSet || hasComputeLane s then some St.featureState
  else none

/-- GQI_ADM_SET_FEATURES (R82, R332, R352): a request that is not permitted does not count. DESIGN CHOICE (log 50): nor does any
other that failed, so that a later one of the generation can succeed. -/
def execGqiAdmSetFeatures (c : Nat) (s : State) : Host.Outcome State Fault Refusal :=
  onCtl s fun d => adminRun d c 0x81 featureCheck fun d k =>
    let mask := BitVec.ofNat 64 (fld k.raw 16 8)
    adminOk (modSlice d k.slice fun s => { s with features := mask ||| mandatory, featuresSet := true }) c none 0

/-- Translations of a lane's result area are requested and held on every bound port where ATS is enabled (R134). -/
def translateArea (d : Ctl) (i : Nat) (ln : Lane) : Ctl :=
  let s := getSlice d i
  let pages := if ln.strideLog = 0 then [] else pagesAt ln.resultBase (cqSize ln * 2 ^ ln.strideLog)
  ([Port.ha, .hb].filter (boundOn s)).foldl (fun d p => holdPages (askPages d p i pages) p i pages) d

/-- The lane that a GQI_ADM_CREATE_LANE descriptor describes (R59, R112, R318), with LN_IRQ_CTL at its reset value (R500). -/
def newLane (d : Ctl) (k : Cmd) : Lane :=
  let s := getSlice d k.slice
  let l := fld k.raw 24 1
  let area := BitVec.ofNat 64 (fld k.raw 40 8)
  let sq := BitVec.ofNat 64 (fld k.raw 16 8)
  let cq := BitVec.ofNat 64 (fld k.raw 32 8)
  { state := .enabled, sqBaseA := sq, sqBaseB := sq, cqBaseA := cq, cqBaseB := cq, sqLog := fld k.raw 25 1
    cqLog := fld k.raw 26 1, incarnation := Tbl.getD s.laneCreations l 0, resultBase := area, irqCtl := 0x100
    strideLog := if area = 0 then 0 else fld k.raw 27 1 }

/-- Lane `l` of slice `i` is there, and its creation is counted (R318); its state is cached, pinned where it has a result area and
an entry of its tenant's ways is not (R134). -/
def addLane (d : Ctl) (i l : Nat) (ln : Lane) : Ctl :=
  translateArea (fillLane (modSlice d i fun s => { s with
    lanes := Tbl.set s.lanes l ln
    laneCreations := Tbl.set s.laneCreations l (Tbl.getD s.laneCreations l 0 + 1) }) i l true) i ln

/-- Check 5 of GQI_ADM_CREATE_LANE (R112, R318). -/
def createCheck (d : Ctl) (k : Cmd) : Option Status :=
  let s := getSlice d k.slice
  let l := fld k.raw 24 1
  if s.laneLimit ≤ l then some St.resource
  else if l = 0 ∨ (getLane d k.slice l).state ≠ .disabled then some St.laneState
  else if 4095 < Tbl.getD s.laneCreations l 0 then some St.resource
  else none

/-- GQI_ADM_CREATE_LANE (R59, R112, R134, R318). -/
def execGqiAdmCreateLane (c : Nat) (s : State) : Host.Outcome State Fault Refusal :=
  onCtl s fun d => adminRun d c 0x82 createCheck fun d k =>
    let l := fld k.raw 24 1
    adminOk (addLane d k.slice l (newLane d k)) c none (BitVec.ofNat 32 l)

/-- A compute lane of the slice in a state the opcode takes. -/
def laneIs (d : Ctl) (i l : Nat) (p : LaneState → Bool) : Bool :=
  l != 0 && decide (l < (getSlice d i).laneLimit) && p (getLane d i l).state

/-- Check 5 of an admin command on the compute lane it names: the lane is in a state the opcode takes. -/
def laneCheck (p : LaneState → Bool) (d : Ctl) (k : Cmd) : Option Status :=
  if laneIs d k.slice (fld k.raw 24 1) p then none else some St.laneState

/-- Lane `l` of slice `i` goes with its submissions, which count as completed and write no entry (R112). -/
def removeLane (d : Ctl) (i l : Nat) : Ctl :=
  let mine := outstanding d i l
  let d := discardWhere d (fun _ x => onLane d i l x) St.laneDeleted
  let d := mine.foldl (fun d e => match Tbl.find? d.cmds e.1 with
    | some x =>
      let st := x.status.getD St.ok
      let d := detailRecord (modSlice d i fun s => { s with stats := countStatus st s.stats }) x st
      dropCmd d e.1
    | none => d) d
  settled (modSlice d i fun s => { s with lanes := Tbl.erase s.lanes l })

/-- GQI_ADM_DELETE_LANE: the lane's submissions are discarded and no entry of theirs is written (R112). -/
def execGqiAdmDeleteLane (c : Nat) (s : State) : Host.Outcome State Fault Refusal :=
  onCtl s fun d => adminRun d c 0x83 (laneCheck fun x => x != .disabled) fun d k =>
    adminOk (removeLane d k.slice (fld k.raw 24 1)) c none 0

/-- A lane's reset begins: its submissions are aborted, FILLING slots freed, and it is FENCED until they are completed
(R112, R113). -/
def startLaneReset (d : Ctl) (i l id : Nat) : Ctl :=
  let d := discardWhere d (fun _ x => onLane d i l x) St.laneReset
  settled (modLane d i l fun ln => { ln with
    state := .fenced, closing := some id, reserved := [], slots := ln.slots.filter fun e => e.2.taken })

/-- GQI_ADM_RESET_LANE: outstanding submissions are aborted, FILLING slots freed; it completes after the last aborted
completion (R112, R113). -/
def execGqiAdmResetLane (c : Nat) (s : State) : Host.Outcome State Fault Refusal :=
  onCtl s fun d => adminRun d c 0x84 (laneCheck fun x => x == .enabled) fun d k =>
    let l := fld k.raw 24 1
    laneReopen (startLaneReset d k.slice l c) k.slice l

/-- Check 5 of GQI_ADM_SET_LANE_POLICY (R112, R257). -/
def policyCheck (d : Ctl) (k : Cmd) : Option Status :=
  let h := BitVec.ofNat 32 (fld k.raw 16 4)
  match laneCheck (fun x => x == .enabled) d k with
  | some st => some st
  | none => if h ≠ 0 ∧ ((resident d k.slice h).bind fun m => entryOf m 1).isNone then some St.notResident else none

/-- GQI_ADM_SET_LANE_POLICY (R112, R257). -/
def execGqiAdmSetLanePolicy (c : Nat) (s : State) : Host.Outcome State Fault Refusal :=
  onCtl s fun d => adminRun d c 0x85 policyCheck fun d k =>
    let fl := fld k.raw 25 1
    adminOk (modLane d k.slice (fld k.raw 24 1) fun ln => { ln with
      apprentice := BitVec.ofNat 32 (fld k.raw 16 4), divert := bitOf fl 0, shedExpired := bitOf fl 1 }) c none 0

/-- The accounting block (R270, R271). -/
def statsBlock (d : Ctl) (i : Nat) (lane : Option Nat) (s : Stats) : Bytes :=
  padTo 256 (leBytes 2 1 ++ leBytes 1 (b2n lane.isNone) ++ leBytes 1 (lane.getD 0xFF) ++
    leBytes 1 (getSlice d i).gen.toNat ++ zeros 3 ++ leBytes 8 (devNow d).toNat ++
    ([s.accepted, s.ok, s.late, s.apprentice, s.infeasible, s.refused, s.shedNewest, s.shedExpired, s.shedBrownout,
      s.aborted, s.failed, s.engineCoreCycles, s.queueWaitTotal, s.queueWaitMax, s.preemptStile, s.preemptKill,
      s.killLostCoreCycles, s.switchNs, s.fastPath, s.fastOver, s.hostBytes].flatMap (leBytes 8)) ++
    ((List.range 11).flatMap fun k => leBytes 4 (Tbl.getD s.offpath (k + 1) 0)) ++
    leBytes 4 (if lane.isNone then min s.eventsDropped 0xFFFFFFFF else 0))

/-- Check 5 of GQI_ADM_QUERY_STATS: the lane is the slice's. -/
def statsCheck (d : Ctl) (k : Cmd) : Option Status :=
  let l := fld k.raw 24 1
  if l ≠ 0xFF ∧ (getSlice d k.slice).laneLimit ≤ l then some St.laneState else none

/-- GQI_ADM_QUERY_STATS (R270, R271). -/
def execGqiAdmQueryStats (c : Nat) (s : State) : Host.Outcome State Fault Refusal :=
  onCtl s fun d => adminRun d c 0x88 statsCheck fun d k =>
    let i := k.slice
    let l := fld k.raw 24 1
    if k.resultCap < 288 then adminFail d c St.resultTooSmall
    else if l = 0xFF then adminOk d c (some (statsBlock d i none (getSlice d i).stats)) 0
    else adminOk d c (some (statsBlock d i (some l) (getLane d i l).stats)) 0

/-- A stored gleanings record as it is read (R391). -/
def recordBytes (r : GleaningsRecord) : Bytes := r.header ++ r.body ++ r.tag

/-- A list entry of a gleanings record (R391). -/
def recordItem (r : GleaningsRecord) : Bytes :=
  leBytes 4 r.index ++ sub r.header 5 1 ++ sub r.header 4 1 ++ sub r.header 6 1 ++ [0] ++ sub r.header 8 8 ++
    leBytes 4 (recordBytes r).length ++ zeros 4

/-- The list of a tenant's records from an index on, as many as fit (R391). -/
def recordList (l : List GleaningsRecord) (cap : Nat) : Bytes :=
  let n := min l.length ((cap - 48) / 24)
  let next := ((l.drop n).head?.map fun _ => ((l.take n).getLast?.map GleaningsRecord.index).getD 0 + 1).getD 0xFFFFFFFF
  leBytes 4 n ++ leBytes 4 next ++ zeros 8 ++ (l.take n).flatMap recordItem

/-- The gleanings records of an admin command's tenant. -/
def gleaningsOf (d : Ctl) (k : Cmd) : List GleaningsRecord :=
  d.gleanings.filter fun r => r.tenant == (getSlice d k.slice).tenant

/-- Check 5 of GQI_ADM_GLEANINGS_READ: the record is there (R391). -/
def recordCheck (d : Ctl) (k : Cmd) : Option Status :=
  let n := fld k.raw 16 4
  if n ≠ 0xFFFFFFFF ∧ ((gleaningsOf d k).find? fun r => r.index == n).isNone then some St.resource else none

/-- GQI_ADM_GLEANINGS_READ (R391). -/
def execGqiAdmGleaningsRead (c : Nat) (s : State) : Host.Outcome State Fault Refusal :=
  onCtl s fun d => adminRun d c 0x89 recordCheck fun d k =>
    let mine := gleaningsOf d k
    let n := fld k.raw 16 4
    if n = 0xFFFFFFFF then
      (if k.resultCap < 72 then adminFail d c St.resultTooSmall
       else
        let l := sortBy (fun a b => decide (a.index < b.index)) (mine.filter fun r => decide (fld k.raw 20 4 ≤ r.index))
        adminOk d c (some (recordList l k.resultCap)) 0)
    else match mine.find? fun r => r.index == n with
      | none => adminFail d c St.resource
      | some r =>
        if k.resultCap < (recordBytes r).length + 32 then adminFail d c St.resultTooSmall
        else adminOk d c (some (recordBytes r)) 0

end Sys2Proof.Machine
end

