-- ==== Sys2Proof/Machine/Preempt.lean ====
section
/-! DEFINITION. The almanac's slots and preemption (R248 to R250, R262 to R269). -/

namespace Sys2Proof.Machine
open Sys2Proof

/-! ### Slots (R249, R250) -/

/-- Length of an almanac entry in ns. -/
def slotNs (e : AlmanacEntry) : Nat := 1000 * e.length

/-- The entry at `pos` ns into the period, from entry `k` starting at `start`: its index and its start. -/
def slotAt : List AlmanacEntry → Nat → Nat → Nat → Nat × Nat
  | [], k, start, _ => (k, start)
  | [_], k, start, _ => (k, start)
  | e :: l, k, start, pos => if pos < start + slotNs e then (k, start) else slotAt l (k + 1) (start + slotNs e) pos

/-- The entry in force at device time `t` and the device time it began (R249). -/
def almanacAt (a : Almanac) (t : W64) : Nat × W64 :=
  let period := a.entries.foldl (fun n e => n + slotNs e) 0
  let gone := (t - a.tAct).toNat
  let pos := gone % period
  let s := slotAt a.entries 0 0 pos
  (s.1, t - BitVec.ofNat 64 (pos - s.2))

/-- Hamlet `h` takes the slot its almanac holds now; without entries one POOL slot. -/
def takeSlot (d : Ctl) (h : Nat) : Ctl :=
  modHam d h fun x =>
    let p := if x.almanac.entries.isEmpty then (0, devNow d) else almanacAt x.almanac (devNow d)
    { x with entryInForce := p.1, entryStart := p.2 }

/-- Almanac `a` comes into force in hamlet `h`: at the slot position it holds had it begun at its t_act. -/
def installAlmanac (d : Ctl) (h : Nat) (a : Almanac) : Ctl :=
  takeSlot (modHam d h fun x => { x with almanac := a, pendingAlmanac := none }) h

/-! ### The choice of a preemption (R263, R264, R266, R268) -/

/-- Victim `v` is killed: DISCARDED and queued again as a new instance of its submission (R268). -/
def killVictim (d : Ctl) (v : Nat × Cmd × Part) : Ctl :=
  let id := v.1
  let c := v.2.1
  let lost := v.2.2.cores.length * elapsedCycles d v.2.2
  let d := bump d c.slice c.lane fun s => { s with
    preemptKill := satAdd 64 s.preemptKill 1, killLostCoreCycles := satAdd 64 s.killLostCoreCycles lost }
  modCmd (requeue d id) id fun c => { c with kills := c.kills + 1 }

/-- The chosen preemption begins: a kill at once, or a park at the victim's next stile. -/
def startPreempt (d : Ctl) (h by_ : Nat) (r : (Nat × Cmd × Part) × Way) : Ctl :=
  let v := r.1
  if r.2.kill then settled (killVictim d v)
  else match (cmdEntry d v.2.1).bind fun e => nextStile e (elapsedCycles d v.2.2) with
    | none => d
    | some s =>
      let d := modPart d v.1 h fun p => { p with parkAt := some s, parking := false }
      modHam d h fun x => { x with preempting := some (v.1, by_) }

/-- The command whose preemption an EXCLUSIVE slot calls for, in shared mode: its slice's head, where it cannot bind (R263). -/
def slotHead (d : Ctl) (h : Nat) : Option (Nat × Cmd × Part) :=
  match slotNow d h with
  | .exclusive s =>
    if (getHam d h).reservedMode then none
    else (headOf d h).filter fun e => e.2.1.slice == s && headStuck d h e
  | _ => none

/-- The slot trigger is evaluated (R263): at once, or again once the preemption that runs has freed its cores. -/
def slotTrigger (d : Ctl) (h : Nat) : Ctl :=
  match if mayBind d h then slotHead d h else none with
  | none => modHam d h fun x => { x with slotDue := false }
  | some e =>
    let busy := (getHam d h).preempting.isSome
    let d := modHam d h fun x => { x with slotDue := busy }
    match if busy then none else headPreempts d h e false with
    | some r => startPreempt d h e.1 r
    | none => d

/-! ### Events -/

/-- ALMANAC_ACTIVATION (R249): t_act has come; the slot in force ends and the pending almanac begins. -/
def execAlmanacActivation (h : Fin 32) (s : State) : Host.Outcome State Fault Refusal :=
  onCtl s fun d =>
    match (getHam d h.val).pendingAlmanac with
    | none => d
    | some a =>
      if timeLe a.tAct (devNow d) then
        shareUp d (slotTrigger (mirrorStep d (.hamlet h.val) 0 (installAlmanac d h.val a)) h.val)
      else d

/-- ALMANAC_SLOT_BOUNDARY (R249, R250, R263): the slot in force ends and the next begins. -/
def execAlmanacSlotBoundary (h : Fin 32) (s : State) : Host.Outcome State Fault Refusal :=
  onCtl s fun d =>
    let x := getHam d h.val
    match x.almanac.entries[x.entryInForce]? with
    | none => d
    | some e =>
      if timeLe (x.entryStart + BitVec.ofNat 64 (slotNs e)) (devNow d) then
        shareUp d (slotTrigger (takeSlot d h.val) h.val)
      else d

/-- PREEMPT_TRIGGER (R262 to R268): a victim and a way are chosen for a STEP head; a slot trigger that met a preemption is evaluated
again once that one has ended. -/
def execPreemptTrigger (h : Fin 32) (s : State) : Host.Outcome State Fault Refusal :=
  onCtl s fun d =>
    if !mayBind d h.val then d
    else match stepTrigger d h.val with
      | some (e, r) => shareUp d (startPreempt d h.val e r)
      | none => if (getHam d h.val).slotDue && (getHam d h.val).preempting.isNone then shareUp d (slotTrigger d h.val) else d

/-- STILE_REACHED (R172, R267): every tile of the wave before the stile has completed, no answer is outstanding, and no wave
follows: the victim is quiet and its park begins. -/
def execStileReached (c : Nat) (h : Fin 32) (s : State) : Host.Outcome State Fault Refusal :=
  onCtl s fun d =>
    match Tbl.find? d.cmds c with
    | none => d
    | some k =>
      let stop := ((Tbl.find? k.parts h.val).map fun p => (p.parkAt.any fun s => p.wave == s.wave) && !p.parking).getD false
      if runsIn k h.val && stop && !waitsIn k h.val then modPart d c h.val fun p => { p with parking := true } else d

/-- First byte of a model's park area in hamlet `h` (R326). -/
def parkBase (m : Model) (h : Nat) : Option Nat :=
  (m.records.find? fun r => r.hamlet == h).map fun r => 4096 * (regionOf m r 4).1

/-- The live ranges of a stile. -/
def liveRanges (e : Entry) (s : Stile) : List Range := (e.ranges.drop s.first).take s.count

/-- The live ranges with their places in the park area, one behind another in list order from `at_` on. -/
def parkPlaces : Nat → List Range → List (Range × Nat)
  | _, [] => []
  | at_, r :: l => (r, at_) :: parkPlaces (at_ + r.len) l

/-- The live ranges of command `k` are copied to its park area. -/
def saveLive (d : Dev) (h base : Nat) (own : Tbl Byte) (l : List Range) : Dev :=
  (parkPlaces base l).foldl (fun d e =>
    let pad := aliasBase + e.1.off
    withCtl (storeBytes d h e.2 (loadBytes d.mem d.toCtl h pad e.1.len own)) fun d => loadDraw d pad) d

/-- The live ranges of command `k` are copied back: their working bytes are the command's own again; a resident range is kept as
it is committed, with what the command staged over it (R156, R161, R172). -/
def restoreLive (d : Dev) (id h base : Nat) (l : List Range) : Dev :=
  (parkPlaces base l).foldl (fun d e =>
    let bs := readHbm d.mem d.toCtl h e.2 e.1.len
    withCtl d fun d => modPart d id h fun p => { p with
      working := (bs.zipIdx e.1.off).foldl (fun t b => if isResident d h b.2 then t else Tbl.set t b.2 b.1) p.working }) d

/-- The live ranges of command `k` at the stile of part `p` move to or from its park area. -/
def moveLive (d : Dev) (id : Nat) (k : Cmd) (h : Nat) (p : Part) (out : Bool) : Dev :=
  match cmdModel d.toCtl k, cmdEntry d.toCtl k, p.parkAt with
  | some m, some e, some s =>
    match parkBase m h with
    | some b => if out then saveLive d h b p.working (liveRanges e s) else restoreLive d id h b (liveRanges e s)
    | none => d
  | _, _, _ => d

/-- Park or restore time in whole ns, for accounting. -/
def moveCount (live : Nat) : Nat := ratFloor (moveNs live)

/-- A finished park: the cores of the part are idle, the switch is accounted, and the victim waits again (R267, R271). -/
def endPark (old : Ctl) (id h : Nat) (k : Cmd) (st : Stile) (e : Ctl) : Ctl :=
  let e := releaseCores e id h
  let e := bump e k.slice k.lane fun s => { s with
    preemptStile := satAdd 64 s.preemptStile 1, switchNs := satAdd 64 s.switchNs (moveCount st.live) }
  let e := modPart e id h fun p => { p with
    state := .parked, before := st.cycle, live := st.live, parking := false, resumed := false }
  let e := modCmd e id fun k => { k with hangRun := k.hangRun + (now e - k.bindTime) }
  advanceSlice (shareUp old (modHam e h fun x => { x with
    preempting := x.preempting.filter fun q => q.1 != id })) k.slice

/-- A finished restore: the switch is accounted and the part runs on (R267). -/
def endResume (id h : Nat) (k : Cmd) (p : Part) (e : Ctl) : Ctl :=
  let e := bump e k.slice k.lane fun s => { s with switchNs := satAdd 64 s.switchNs (moveCount p.live) }
  modPart e id h fun p => { p with restoring := false, parkAt := none }

/-- PARK_DONE (R267, R271): the live state lies in the park area, the cores are idle and the victim waits again. -/
def execParkDone (c : Nat) (h : Fin 32) (s : State) : Host.Outcome State Fault Refusal :=
  onDev s fun d =>
    match Tbl.find? d.cmds c with
    | none => d
    | some k => match Tbl.find? k.parts h.val with
      | none => d
      | some p => match p.parkAt with
        | none => d
        | some st =>
          if p.state ≠ .bound || !p.parking || !unsettled k then d
          else withCtl (moveLive d c k h.val p true) (endPark d.toCtl c h.val k st)

/-- RESUME_DONE (R267): the live ranges are back in the scratchpad and the next wave starts. -/
def execResumeDone (c : Nat) (h : Fin 32) (s : State) : Host.Outcome State Fault Refusal :=
  onDev s fun d =>
    match Tbl.find? d.cmds c with
    | none => d
    | some k => match Tbl.find? k.parts h.val with
      | none => d
      | some p =>
        if p.state ≠ .bound || !p.restoring then d
        else withCtl (moveLive d c k h.val p false) (endResume c h.val k p)

end Sys2Proof.Machine
end

