-- ==== Sys2Proof/Machine/Admission.lean ====
section
/-! DEFINITION. Slice scheduling settings, almanac writes, reservations, brownout and strict frames
(R249, R251, R261, R272 to R275, R278 to R294, R333). -/

namespace Sys2Proof.Machine
open Sys2Proof

/-! ### Capacities (R280, R281) -/

/-- Some tenant is permitted STRICT_TIMING, which counts as in effect for capacities (R332). -/
def anyStrict (d : Ctl) : Bool := d.tenants.any fun e => e.2.permitStrict

/-- A port's capacity in 0.1 GB/s. -/
def portCap (x : PortState) : Rat := if x.linkUp then (1100 * x.rate * x.width : Nat) / (128 * 16 : Nat) else 0

def isRelay (r : Route) : Bool := r == .relaySrc || r == .relayDst

/-- Outbound road capacity toward peer `q` in 0.1 GB/s. RESERVE_DIRECT counts as one road UP (DEDUCED, log 15). -/
def roadCap (d : Ctl) (q : Nat) : Rat :=
  let p := pkgNum d
  if q = p then 0
  else match (getPeer d q).route with
    | .direct => if roadUp d (meshRoad p q 0) && roadUp d (meshRoad p q 1) then 1882 else 941
    | .reserveDirect => 941
    | .unreachable => 0
    | _ => (941 : Rat) / ((d.peers.filter fun e => isRelay e.2.route).length : Nat)

/-- The derated capacities with a given strict setting. -/
def capWith (d : Ctl) (strict : Bool) (r : Nat) : Rat :=
  if r < 2 then portCap d.portA
  else if r < 4 then portCap d.portB
  else if r = 4 then 16
  else if r = 5 then (if strict then 1042 else 1489)
  else if r = 6 then (if strict then 2234 else 2400)
  else if r = 7 then 0
  else roadCap d (r - 8)

def cap (d : Ctl) (r : Nat) : Rat := capWith d (anyStrict d) r

/-- The reservable part: 80 %, rounded down to a whole unit. -/
def reservable (c : Rat) : Nat := ratFloor (c * 4 / 5)

/-- The capacity fraction of a hamlet. -/
def hamFraction (x : Hamlet) : Rat :=
  if x.outOfService then 0 else (coreCount x : Rat) / 864 * (if threeChannel x then 3 / 4 else 1)

/-- The port a save or restore order names. -/
def migPort (d : Ctl) (j : Nat) : Nat := ((Tbl.find? d.reeve.journal j).map fun e => fld e.args 1 1).getD 0

/-- The transient guarantees of saves and restores on a resource: 50 GB/s on 5, 6 and their direction of the port (R354,
R357). -/
def transient (d : Ctl) (r : Nat) : Nat :=
  d.slices.foldl (fun a e => match e.2.proc with
    | some p =>
      if (p.kind == .save || p.kind == .restore) &&
          (r == 5 || r == 6 || r == 2 * migPort d p.jseq + b2n (p.kind == .save)) then a + 500 else a
    | none => a) 0

/-- Sum of the guarantees on a resource. -/
def guaranteed (d : Ctl) (r : Nat) : Nat :=
  d.reservations.foldl (fun a e => a + Tbl.getD e.2.guarantees r 0) (transient d r)

/-- The lowest resource whose sum of guarantees exceeds its reservable value. -/
def overBooked (d : Ctl) (strict : Bool) : Option Nat :=
  (List.range 40).find? fun r => decide (reservable (capWith d strict r) < guaranteed d r)

/-- The road guarantees of tenant index `t` toward peer `q`, in 0.1 GB/s. -/
def roadGuarantee (d : Ctl) (t q : Nat) : Nat :=
  d.reservations.foldl (fun a e => if e.2.tenant = t then a + Tbl.getD e.2.guarantees (8 + q) 0 else a) 0

/-- The stored weight toward peer `q` of tenant index `t`. -/
def storedWeight (d : Ctl) (q t : Nat) : Nat := Tbl.getD (getPeer d q).weights t 16

/-- Road weights deliver every road guarantee (R282). -/
def weightsDeliver (d : Ctl) : Bool :=
  let owners := (Tbl.keys d.tenants).filter fun t => !(tenantHamlets d t).isEmpty
  (List.range 32).all fun q =>
    let sum := owners.foldl (fun a t => a + storedWeight d q t) 0
    (Tbl.keys d.tenants).all fun t =>
      let g := roadGuarantee d t q
      g == 0 || decide (g * sum ≤ 1882 * storedWeight d q t)

/-! ### Brownout grants (R290 to R293) -/

/-- The grants on resource `r` in descending class, proportional within the class that runs out. -/
def classGrants (rs : List (Nat × Reservation)) (r : Nat) : Nat → Rat → Tbl Rat → Tbl Rat
  | 0, _, acc => acc
  | c + 1, left, acc =>
    let mine := rs.filter fun e => e.2.cls == c
    let need : Rat := (mine.foldl (fun a e => a + Tbl.getD e.2.guarantees r 0) 0 : Nat)
    let f : Rat := if need ≤ left then 1 else left / need
    let acc := mine.foldl (fun t e => Tbl.set t e.1 (f * (Tbl.getD e.2.guarantees r 0 : Nat))) acc
    classGrants rs r c (left - min need left) acc

/-- The resources in brownout: guarantees exceed the derated capacity. -/
def inBrownout (d : Ctl) : List Nat :=
  (List.range 40).filter fun r => decide (cap d r < (guaranteed d r : Nat))

/-- The grants of one reservation. -/
def grantsOf (d : Ctl) (n : Nat) (v : Reservation) : Tbl Rat :=
  v.guarantees.map fun g =>
    (g.1, if (inBrownout d).contains g.1 then Tbl.getD (classGrants d.reservations g.1 8 (cap d g.1) []) n 0 else (g.2 : Nat))

/-- A reservation's share: 0.1 % of its worst grant, its hamlets among them (R291). -/
def shareOf (d : Ctl) (v : Reservation) (grants : Tbl Rat) : Nat :=
  let a := v.guarantees.foldl (fun m g =>
    if g.2 = 0 then m else min m (ratFloor (1000 * Tbl.getD grants g.1 0 / (g.2 : Nat)))) 1000
  (bitList 32 v.hamlets.toNat).foldl (fun m h => min m (ratFloor (1000 * hamFraction (getHam d h)))) a

/-- A brownout bucket of a port under its new grant: it keeps its balance, capped at the new depth. -/
def regrant (d : Ctl) (b : Bucket) (g : Rat) : Bucket :=
  let rate := ratFloor (1000 * g)
  let depth := max 4096 (rate * 10)
  let b := refill d b 10000
  { b with rate := rate, depth := depth, balance := min b.balance ((depth : Int) * 10000) }

/-- Nearest whole number of a non-negative rational. -/
def ratRound (q : Rat) : Nat := ratFloor (q + 1 / 2)

/-- The road weights toward peer `q` in brownout (R293). -/
def brownWeights (d : Ctl) (q : Nat) : Tbl Nat :=
  let g (t : Nat) : Rat := d.reservations.foldl (fun a e => if e.2.tenant = t then a + Tbl.getD e.2.grants (8 + q) 0 else a) 0
  let top := (Tbl.keys d.tenants).foldl (fun m t => max m (g t)) 0
  d.tenants.map fun e => (e.1, if top = 0 then 1 else max 1 (ratRound (255 * g e.1 / top)))

/-- The event of a changed share on each slice of a reservation (R292). -/
def shareEvents (d : Ctl) (v : Reservation) (old : Nat) : Ctl :=
  if v.share = old then d
  else v.slices.foldl (fun d i => sliceEvent d i (if v.share = 1000 then 4 else 3) v.share 0) d

/-- The grants that follow from the capacities and reservations take effect. -/
def applyGrants (d : Ctl) : Ctl :=
  let brown := inBrownout d
  let old := d.reservations
  let d := { d with
    brownout := brown
    reservations := Tbl.mapVal d.reservations fun n (v : Reservation) =>
      let g := grantsOf d n v
      { v with
        grants := g, share := shareOf d v g,
        brown := (v.brown.filter fun (b : Nat × Bucket) => brown.contains b.1).map fun (b : Nat × Bucket) => (b.1, regrant d b.2 (Tbl.getD g b.1 0)) } }
  let d := { d with
    peers := (List.range 32).foldl (fun t q =>
      let p := Tbl.getD t q {}
      let w := if brown.contains (8 + q) then some (brownWeights d q) else none
      if p.brownWeights = w then t else Tbl.set t q { p with brownWeights := w }) d.peers }
  d.reservations.foldl (fun (d : Ctl) (e : Nat × Reservation) => shareEvents d e.2 ((Tbl.getD old e.1 e.2).share)) d

/-- BROWNOUT_GRANTS_APPLY (R290 to R293). -/
def execBrownoutGrantsApply (s : State) : Host.Outcome State Fault Refusal :=
  onCtl s fun d =>
    let e := applyGrants d
    if e.reservations = d.reservations ∧ e.brownout = d.brownout ∧ e.peers = d.peers then d
    else internalStep d .package fun d _ => applyGrants d

/-! ### Strict frames (R333) -/

/-- Slots a tenant needs for a guarantee of `g` (0.1 GB/s) on one resource. -/
def strictNeed (g : Nat) : Nat := ceilDiv (5 * g) 62

/-- The tenant's guarantee on a resource. -/
def tenantGuarantee (d : Ctl) (t r : Nat) : Nat :=
  d.reservations.foldl (fun a e => if e.2.tenant = t then a + Tbl.getD e.2.guarantees r 0 else a) 0

/-- The slots of tenant `t` on one kind of unit: those it holds, cut or filled up to its need with the lowest free. -/
def strictPick (held others : List Nat) (lo n need : Nat) : List Nat :=
  let mine := held.filter fun k => decide (lo ≤ k) && decide (k < lo + n)
  let free := (List.range n).map (· + lo) |>.filter fun k => !mine.contains k && !others.contains k
  mine.take need ++ free.take (need - mine.length)

/-- The slots each tenant holds from the next frame on. -/
def strictAssign (d : Ctl) : Ctl :=
  let keep (t : Nat) (x : Tenant) : List Nat :=
    if strictInEffect d t then
      (x.strictSlots.filter (· < 84)).take (strictNeed (tenantGuarantee d t 5)) ++
        (x.strictSlots.filter (84 ≤ ·)).take (strictNeed (tenantGuarantee d t 6))
    else []
  let d' := { d with tenants := Tbl.mapVal d.tenants fun t x => { x with strictSlots := keep t x } }
  (Tbl.keys d'.tenants).foldl (fun e t =>
    if !strictInEffect d t then e
    else
      let others := e.tenants.flatMap fun y => if y.1 = t then [] else y.2.strictSlots
      modTenant e t fun x => { x with
        strictSlots := strictPick x.strictSlots others 0 84 (strictNeed (tenantGuarantee d t 5)) ++
          strictPick x.strictSlots others 84 192 (strictNeed (tenantGuarantee d t 6)) }) d'

/-- STRICT_FRAME_BOUNDARY (R333). -/
def execStrictFrameBoundary (s : State) : Host.Outcome State Fault Refusal :=
  onCtl s fun d =>
    if d.pkg.life == .operating && d.tenants.any fun e => strictInEffect d e.1 || !e.2.strictSlots.isEmpty then
      let d := strictAssign d
      serveSheaves { d with units := { d.units with frameStart := nowNs d } }
    else d

/-! ### Slice settings (R251, R261, R266, R272 to R275, R519) -/

/-- The slice an order names, where it is not FREE. -/
def sliceIn (d : Ctl) (i : Nat) : Bool := (getSlice d i).state != .free

/-- Cap nibble of hamlet `h`. -/
def capNibble (a : Bytes) (h : Nat) : Nat := bits (fld a (4 + h / 2) 1) (4 * (h % 2) + 3) (4 * (h % 2))

/-- MB_SLICE_SCHED arguments out of form. -/
def sliceSchedBad (a : Bytes) : Bool :=
  let m := fld a 3 1
  a.length != 20 || (bitOf m 1 && decide (2 < fld a 2 1)) || decide (8 ≤ m) ||
    (bitOf m 2 && (List.range 32).any fun h => decide (12 < capNibble a h))

/-- A slice under the settings that the mask of MB_SLICE_SCHED names: weight, preemption, prefill caps (R251, R261, R266). -/
def schedSlice (a : Bytes) (s : Slice) : Slice :=
  let m := fld a 3 1
  let mode : PreemptMode := match fld a 2 1 with | 0 => .auto | 1 => .stileOnly | _ => .killOnly
  { s with
    weight := if bitOf m 0 then fld a 1 1 else s.weight, preempt := if bitOf m 1 then mode else s.preempt
    caps := if bitOf m 2 then (List.range 32).map fun h => (h, capNibble a h) else s.caps }

/-- MB_SLICE_SCHED: a slice whose weight rises from 0 may gain eligible commands (R251). -/
def mbSliceSchedBody : Body := fun d o =>
  let i := fld o.args 0 1
  if !sliceIn d i then refuse 0x20 d else ok [] (shareUp d (modSlice d i (schedSlice o.args)))

/-- MB_SLICE_SCHED (R251, R261, R266). -/
def execMbSliceSched (src : OrderSource) (s : State) : Host.Outcome State Fault Refusal :=
  onCtl s fun d => order d src 0x0204 (.ok []) (fun _ a => sliceSchedBad a) mbSliceSchedBody

/-- MB_SLICE_RATE arguments out of form. -/
def sliceRateBad (a : Bytes) : Bool :=
  let fast := fld a 1 1
  let cr := fld a 2 2
  let sr := fld a 4 2
  let sd := fld a 6 2
  let br := fld a 8 2
  let bd := fld a 12 4
  a.length != 16 || fld a 10 2 != 0 || decide (16 < fast) || decide (cr < 1) || decide (256 < cr) || decide (1000 < sr) ||
    decide (1500 < br) || (sr != 0 && (decide (sd < 1) || decide (4096 < sd))) ||
    (br != 0 && (decide (bd < 4096) || decide (67108864 < bd)))

/-- A bucket under new settings: created full, or its balance capped at the new depth (R274). -/
def setBucket (d : Ctl) (b : Bucket) (rate depth unit : Nat) : Bucket :=
  if rate = 0 then { rate := 0, depth := depth }
  else if b.rate = 0 then { rate := rate, depth := depth, balance := (depth * unit : Nat), stamp := nowNs d }
  else
    let b := refill d b unit
    { b with rate := rate, depth := depth, balance := min b.balance ((depth * unit : Nat) : Int) }

/-- Sum of the FAST limits of some slices. -/
def fastSum (d : Ctl) (l : List Nat) : Nat := l.foldl (fun a i => a + (getSlice d i).fastLimit) 0

/-- A slice under the limits of MB_SLICE_RATE: FAST limit, credits, SUBMIT and BULK buckets (R272, R274). -/
def rateSlice (d : Ctl) (a : Bytes) (s : Slice) : Slice :=
  { s with
    fastLimit := fld a 1 1, credits := fld a 2 2, submit := setBucket d s.submit (fld a 4 2) (fld a 6 2) 10000
    bulk := setBucket d s.bulk (fld a 8 2) (fld a 12 4) 10 }

/-- The FAST limits of the package or of the slice's reservation no longer fit (R275). -/
def fastUnfit (d : Ctl) (i : Nat) : Bool :=
  let short := match resvOf d i with
    | some r => decide (fastSum d r.2.slices < Tbl.getD r.2.guarantees 4 0)
    | none => false
  decide (16 < fastSum d (slicesWhere d fun _ => true)) || short

/-- MB_SLICE_RATE. -/
def mbSliceRateBody : Body := fun d o =>
  let a := o.args
  let i := fld a 0 1
  if !sliceIn d i then refuse 0x20 d
  else
    let e := modSlice d i (rateSlice d a)
    if fastUnfit e i then refuse 0x23 d else ok [] e

/-- MB_SLICE_RATE (R272, R274, R275). -/
def execMbSliceRate (src : OrderSource) (s : State) : Host.Outcome State Fault Refusal :=
  onCtl s fun d => order d src 0x0205 (.ok []) (fun _ a => sliceRateBad a) mbSliceRateBody

/-! ### Almanac writes (R248, R249) -/

/-- Entry `k` of MB_ALMANAC_WRITE. -/
def argEntry (a : Bytes) (k : Nat) : AlmanacEntry := ⟨fld a (16 + 6 * k) 4, fld a (20 + 6 * k) 1, fld a (21 + 6 * k) 1⟩

def argEntries (a : Bytes) : List AlmanacEntry := (List.range (fld a 1 1)).map (argEntry a)

/-- Arguments out of form: lengths, kinds, slice bytes, period. -/
def almanacBad (a : Bytes) : Bool :=
  let n := fld a 1 1
  let es := argEntries a
  let period : Nat := es.foldl (fun t e => t + e.length) 0
  decide (32 < n) || a.length != 16 + 6 * n || decide (32 ≤ fld a 0 1) || !allZero (sub a 2 6) ||
    (es.any fun e => decide (e.length < 1) || decide (1000000 < e.length) || decide (2 < e.kind) || (e.kind != 1 && e.slice != 0)) ||
    (n != 0 && (decide (period < 10) || decide (1000000 < period)))

/-- An almanac comes into force at `a.tAct`: at once where that time has come (R249). -/
def writeAlmanac (d : Ctl) (h : Nat) (a : Almanac) : Ctl :=
  if timeLe a.tAct (devNow d) then shareUp d (slotTrigger (installAlmanac d h a) h)
  else modHam d h fun x => { x with pendingAlmanac := some a }

/-- An entry is for a slice that does not exist or belongs to another tenant than the hamlet's (R248). -/
def foreignEntry (d : Ctl) (h : Nat) (e : AlmanacEntry) : Bool :=
  e.kind == 1 && !((getHam d h).assign != .unassigned && sliceIn d e.slice && (getSlice d e.slice).tenant == (getHam d h).tenant)

/-- MB_ALMANAC_WRITE. -/
def mbAlmanacWriteBody : Body := fun d o =>
  let h := fld o.args 0 1
  let es := argEntries o.args
  if es.any (foreignEntry d h) then refuse 0x21 d
  else ok [] (writeAlmanac d h { entries := es, tAct := BitVec.ofNat 64 (fld o.args 8 8) })

/-- MB_ALMANAC_WRITE (R248, R249). -/
def execMbAlmanacWrite (src : OrderSource) (s : State) : Host.Outcome State Fault Refusal :=
  onCtl s fun d => order d src 0x0300 (.ok []) (fun _ a => almanacBad a) mbAlmanacWriteBody

/-! ### Reservations (R278, R279) -/

/-- The slice list of MB_RESV_CREATE. -/
def argSlices (a : Bytes) : List Nat := (List.range (fld a 3 1)).map fun k => fld a (8 + k) 1

/-- Arguments out of form. -/
def resvBad (a : Bytes) : Bool :=
  let n := fld a 3 1
  a.length != 108 || decide (64 ≤ fld a 0 1) || decide (7 < fld a 1 1) || decide (1 < fld a 2 1) || decide (n < 1) ||
    decide (16 < n) || !allZero (sub a (8 + n) (16 - n)) || fld a 24 2 == 0 || fld a 26 2 != 0 || fld a (28 + 14) 2 != 0 ||
    (argSlices a).eraseDups.length != n || (fld a 2 1 == 1 && fld a 4 4 == 0)

/-- The reservation MB_RESV_CREATE describes, before its share is known. -/
def argResv (d : Ctl) (a : Bytes) (t : Nat) : Reservation :=
  let g := (List.range 40).filterMap fun r => let v := fld a (28 + 2 * r) 2; if v = 0 then none else some (r, v)
  let bucket (r : Nat) : Bucket :=
    let v := Tbl.getD g r 0
    let depth := max 4096 (v * 10000)
    if v = 0 then {} else { rate := v, depth := depth, balance := (depth * 10 : Nat), stamp := nowNs d }
  { cls := fld a 1 1, reserved := fld a 2 1 == 1, hamlets := BitVec.ofNat 32 (fld a 4 4), slices := argSlices a, tenant := t,
    guarantees := g, grants := g.map fun e => (e.1, (e.2 : Rat)), carter := bucket 6, bulk := bucket 5 }

/-- The refusals of R279 that precede the sums, in order. -/
def resvRefusal (d : Ctl) (n : Nat) (tid : Nat) (v : Reservation) : Option Nat :=
  let hs := bitList 32 v.hamlets.toNat
  let held (h : Nat) : Bool := match (getHam d h).reservation with | some _ => true | none => false
  let onPort (p : Port) : Bool := v.slices.any fun i => boundOn (getSlice d i) p
  let wants (r : Nat) : Bool := Tbl.getD v.guarantees r 0 != 0
  if (Tbl.find? d.reservations n).isSome then some 0x22
  else if (tenantById d tid).isNone || (v.slices.any fun i => !(sliceIn d i && (getSlice d i).tenant == v.tenant)) ||
      (hs.any fun h => !(tenantHamlets d v.tenant).contains h) then some 0x21
  else if v.slices.any fun i => (resvOf d i).isSome then some 0x22
  else if (hs.any held) || (!v.reserved && !hs.isEmpty) then some 0x22
  else if fastSum d v.slices < Tbl.getD v.guarantees 4 0 then some 0x23
  else if ((wants 0 || wants 1) && !onPort .ha) || ((wants 2 || wants 3) && !onPort .hb) then some 0x23
  else none

/-- Reservation `n` is in force: its hamlets run in reserved mode (R278). -/
def bookResv (d : Ctl) (n : Nat) (v : Reservation) : Ctl :=
  (bitList 32 v.hamlets.toNat).foldl (fun e h => modHam e h fun x => { x with reservation := some n, reservedMode := true })
    { d with reservations := Tbl.set d.reservations n v }

/-- The share a new reservation gets, in per mille (R281). -/
def newShare (d : Ctl) (n : Nat) (v : Reservation) : Nat :=
  let e := bookResv d n v
  shareOf e v (grantsOf e n v)

/-- MB_RESV_CREATE. -/
def mbResvCreateBody : Body := fun d o =>
  let n := fld o.args 0 1
  let tid := fld o.args 24 2
  let v := argResv d o.args (((tenantById d tid).map Prod.fst).getD 0)
  match resvRefusal d n tid v with
  | some c => refuse c d
  | none =>
    let e := { d with reservations := Tbl.set d.reservations n v }
    match overBooked e (anyStrict e) with
    | some r => (.done 0x24 (leBytes 4 r), d)
    | none =>
      if !weightsDeliver e then refuse 0x23 d
      else ok (leBytes 2 (newShare d n v)) (shareUp d (bookResv d n v))

/-- MB_RESV_CREATE (R278, R279, R281, R282). -/
def execMbResvCreate (src : OrderSource) (s : State) : Host.Outcome State Fault Refusal :=
  onCtl s fun d => order d src 0x0301 (.ok []) (fun _ a => resvBad a) mbResvCreateBody

/-- A reservation number of one byte, 0 to 63. -/
def resvNumBad (a : Bytes) : Bool := a.length != 1 || decide (64 ≤ fld a 0 1)

/-- MB_RESV_END. -/
def mbResvEndBody : Body := fun d o =>
  let n := fld o.args 0 1
  if (Tbl.find? d.reservations n).isNone then refuse 0x20 d else ok [] (endResv d n)

/-- MB_RESV_END (R278). -/
def execMbResvEnd (src : OrderSource) (s : State) : Host.Outcome State Fault Refusal :=
  onCtl s fun d => order d src 0x0302 (.ok []) (fun _ a => resvNumBad a) mbResvEndBody

/-- MB_RESV_QUERY. -/
def mbResvQueryBody : Body := fun d o =>
  let n := fld o.args 0 1
  if (Tbl.find? d.reservations n).isNone then refuse 0x20 d else ok (resvEntry d n) d

/-- MB_RESV_QUERY (R278). -/
def execMbResvQuery (src : OrderSource) (s : State) : Host.Outcome State Fault Refusal :=
  onCtl s fun d => order d src 0x0303 (.ok []) (fun _ a => resvNumBad a) mbResvQueryBody

/-- Weight byte of tenant index `t` in MB_ROAD_WEIGHT. -/
def argWeight (a : Bytes) (t : Nat) : Nat := fld a (2 + t) 1

/-- MB_ROAD_WEIGHT arguments out of form. -/
def roadWeightBad (d : Ctl) (a : Bytes) : Bool :=
  let q := fld a 0 1
  a.length != 34 || fld a 1 1 != 0 || (q != 0xFF && (decide (32 ≤ q) || q == pkgNum d)) ||
    ((List.range 32).any fun t => (argWeight a t != 0) != (Tbl.find? d.tenants t).isSome)

/-- The weights of the arguments are stored for one peer, or for every peer (R221). -/
def setWeights (d : Ctl) (a : Bytes) : Ctl :=
  let q := fld a 0 1
  let ws := (List.range 32).filterMap fun t => if argWeight a t = 0 then none else some (t, argWeight a t)
  let qs := if q = 0xFF then (List.range 32).filter fun q => q != pkgNum d else [q]
  qs.foldl (fun e q => modPeer e q fun p => { p with weights := ws }) d

/-- MB_ROAD_WEIGHT: stored weights of one peer or every peer. -/
def mbRoadWeightBody : Body := fun d o =>
  if weightsDeliver (setWeights d o.args) then ok [] (setWeights d o.args) else refuse 0x23 d

/-- MB_ROAD_WEIGHT (R221, R282). -/
def execMbRoadWeight (src : OrderSource) (s : State) : Host.Outcome State Fault Refusal :=
  onCtl s fun d => order d src 0x0402 (.ok []) roadWeightBad mbRoadWeightBody

end Sys2Proof.Machine
end

