-- ==== Sys2Proof/Machine/Remote.lean ====
section
/-! DEFINITION. What running commands issue beyond their hamlet: remote reads and writes and tally operations (R161 to
R164, R173 to R180, R222 to R225). -/

namespace Sys2Proof.Machine
open Sys2Proof

/-- The entry point of a command carries ROAD_OPS. -/
def hasRoadOps (d : Ctl) (c : Cmd) : Bool := ((cmdEntry d c).map Entry.roadOps).getD false

/-- A request of a command, sent and recorded, of tile `t`, which waits for its answer where `wait`; refused by the road controller it ends the command
(R225). -/
def request (d : Ctl) (id h op : Nat) (c : Cmd) (m : RoadMsg) (t : Tile) (wait : Bool) : Ctl :=
  if jobDead d c then discard d id St.jobDead
  else match sendCheck d m.tenant.toNat m.dst.toNat with
  | 0 =>
    let q : Request := {
      hamlet := h, ttag := m.ttag.toNat, cmd := id, inst := c.instance_, peer := endPkg m.dst.toNat, opcode := op,
      time := now d, addr := m.addr, len := m.len.toNat, operand := m.operand, tile := some t }
    let d := { sendMsg d op m with requests := d.requests ++ [q] }
    if wait then modCmd d id fun c => { c with waits := c.waits ++ [.remote t q.ttag] } else d
  | 1 => discard d id St.memory
  | _ => discard d id St.roadTimeout

/-- A transfer cut into messages: at most 1,024 bytes, none across 4 KiB of hamlet offset (R222); `fuel` bounds their
number. -/
def cutSpans : Nat → Nat → Nat → List (Nat × Nat)
  | 0, _, _ => []
  | fuel + 1, a, n =>
    if n = 0 then []
    else
      let k := min n (min 1024 (4096 - a % 4096))
      (a, k) :: cutSpans fuel (a + k) (n - k)

/-- The transfer's messages. -/
def spans (a n : Nat) : List (Nat × Nat) := cutSpans (n / 1024 + n / 4096 + 3) a n

/-- Another hamlet of this package is the command's tenant's, and in service for remote access (R175, R225, R397). -/
def peerHamlet (d : Ctl) (t h : Nat) : Option Status :=
  let x := getHam d h
  if x.tenant ≠ t ∨ x.assign ≠ .granted then some St.memory
  else if x.reset.isSome then some St.hamletReset else none

/-- What stops a read of `n` bytes in hamlet `q` of this package by a command that runs in hamlet `h`: the other hamlet's
tenant, state and windows, and the page (R185, R223, R225, R546). -/
def readFault (d : Ctl) (k : Cmd) (h q off n : Nat) : Option Status :=
  let page := accessFault d q off n (isContextOp k.opcode)
  if q = h then page
  else match peerHamlet d (getSlice d k.slice).tenant q with
    | some st => some st
    | none => if inWindow (getHam d q) off n false then page else some St.memory

/-- A read over roads: RD messages, each with its own tag, while the hamlet has room for them (R222, R224). -/
def readAfar (d : Ctl) (id : Nat) (t : Tile) (a len : Nat) : Ctl :=
  let h := t.hamlet.val
  let off := addrOffset a
  (spans off len).foldl (fun d e =>
    match Tbl.find? d.cmds id with
    | some k =>
      if unsettled k then
        let g := takeTtag d h
        request g.2 id h 0x01 k { cmdMsg g.2 k h (a / 2 ^ 43) g.1 with
          addr := BitVec.ofNat 64 (a - off + e.1), len := BitVec.ofNat 32 e.2 } t true
      else d
    | none => d) d

/-- REMOTE_READ (R161, R162, R222, R223) by a tile: from its own hamlet with what its command staged and wrote there, from another
hamlet of the package at once, over roads by RD messages. -/
def execRemoteRead (c : CmdTile) (addr : W64) (len : Nat) (s : State) : Host.Outcome State Fault Refusal :=
  let t := c.tile
  let c := c.cmd
  onCtl s fun d =>
    match Tbl.find? d.cmds c with
    | none => d
    | some k =>
      if !runsTile k t then d
      else
        let a := addr.toNat
        let h := t.hamlet.val
        let off := addrOffset a
        if !addrValid a then settled (discard d c St.memory)
        else if addrPkg a = pkgNum d then
          let q := addrHamlet a
          match readFault d k h q off len with
          | some st => settled (discard d c st)
          | none =>
            if isPoisoned s.poison q off len then settled (discard (poisonRead s.poison d q off len) c St.memory)
            else
              let bs := if q = h then tileReads s.mem d k h off len else loadBytes s.mem d q off len []
              loadDraw (seeTile (emit d (.readData c bs)) c t [bs]) off
        else if !hasRoadOps d k then settled (discard d c St.program)
        else if !roomForRequest d h (spans off len).length then d
        else settled (readAfar d c t a len)

/-- The grant of a command toward a rack hamlet with its position. -/
def grantFor (c : Cmd) (dest : Nat) : Option (Nat × Grant) :=
  ((List.range c.grants.length).zip c.grants).find? fun e => e.2.dest == dest && e.2.held

/-- A remote write of a command toward another hamlet within its grant (R164). Staged messages leave from the command's home
hamlet, which asked for its grants and whose sets they join (log 53). -/
def remoteStage (d : Ctl) (id a : Nat) (t : Tile) (k : Cmd) (bs : Bytes) : Ctl :=
  let h := homeHamlet d k
  let dest := a / 2 ^ 43
  let off := addrOffset a
  match grantFor k dest with
  | none => discard d id St.program
  | some (n, g) =>
    if g.bytes < g.used + bs.length then discard d id St.program
    else if addrPkg a = pkgNum d then
      let q := addrHamlet a
      match peerHamlet d (getSlice d k.slice).tenant q with
      | some st => discard d id st
      | none =>
        if !inWindow (getHam d q) off bs.length true then discard d id St.memory
        else match accessFault d q off bs.length (isContextOp k.opcode) with
        | some st => discard d id st
        | none =>
          let src := rackHamlet d h
          let d := modGrant d id n fun g => { g with used := g.used + bs.length }
          modHam d q fun x => { x with
            sets := x.sets.map fun y =>
              if y.src == src && y.ttag == g.ttag then { y with writes := y.writes ++ [(memKey q off, bs)] } else y }
    else if !hasRoadOps d k then discard d id St.program
    else
      (spans off bs.length).foldl (fun d e =>
        match Tbl.find? d.cmds id with
        | some k =>
          if unsettled k then
            let tt := takeTtag d h
            let d := modGrant tt.2 id n fun g => { g with used := g.used + e.2, acks := g.acks + 1 }
            request d id h 0x02 k { cmdMsg d k h dest tt.1 with
              addr := BitVec.ofNat 64 (a - off + e.1), len := BitVec.ofNat 32 e.2, operand := BitVec.ofNat 64 g.ttag,
              data := sub bs (e.1 - off) e.2 } t false
          else d
        | none => d) d

/-- REMOTE_WRITE (R164, R222) by a tile: staged in the receiving hamlet; to its own hamlet, a local write (R156, R161). -/
def execRemoteWrite (c : CmdTile) (addr : W64) (bytes : Bytes) (s : State) : Host.Outcome State Fault Refusal :=
  let t := c.tile
  let c := c.cmd
  onCtl s fun d =>
    match Tbl.find? d.cmds c with
    | none => d
    | some k =>
      if !runsTile k t then d
      else
        let a := addr.toNat
        let h := t.hamlet.val
        if !addrValid a then settled (discard d c St.memory)
        else if a / 2 ^ 43 = rackHamlet d h then
          match accessFault d h (addrOffset a) bytes.length (isContextOp k.opcode) with
          | some st => settled (discard d c st)
          | none =>
            let d := writeLocal d c h (addrOffset a, bytes)
            if stagesTooMuch d c h then settled (discard d c St.program) else d
        else if addrPkg a ≠ pkgNum d ∧ !roomForRequest d (homeHamlet d k) (spans (addrOffset a) bytes.length).length then d
        else settled (remoteStage d c a t k bytes)

/-! ### Tally operations (R174 to R180) -/

/-- A tile receives a result: the action, what it has seen (R154), and a claim made or a release checked is recorded (R177, R178). -/
def tellTile (d : Ctl) (id n : Nat) (t : Tile) (op : TallyOp) (r : TallyResult) : Ctl :=
  let d := seeTile (emit d (.tallyResult id r)) id t [leBytes 4 (resultCode r) ++ leBytes 4 (resultValue r)]
  let claims := (op == .claim || op == .claimWait) && (r == .granted || r == .priorLost)
  let d := if claims then modCmd d id fun c => { c with
      claims := c.claims ++ [⟨BitVec.ofNat 32 n, r == .priorLost⟩] } else d
  if op == .release && r == .owner then modCmd d id fun c => { c with
      tallyOps := c.tallyOps ++ [(t.hamlet.val, BitVec.ofNat 32 n, .release)] } else d

/-- The staged effect of an operation. -/
def effectOf (op : TallyOp) (v : W32) : Option TallyEffect :=
  match op with
  | .add => some (.add v)
  | .set => some (.set v)
  | _ => none

/-- A hamlet has a READ_WRITE window: without one no staged tally operation of another hamlet enters it (R223; DEDUCED,
log 17: a tally has no hamlet offset). -/
def takesTallyOps (x : Hamlet) : Bool := x.windows.any fun w => w.2.perm == 2

/-- The tally is in another hamlet than `h`. -/
def tallyAway (n h : Nat) : Bool := !(tallyIsHearth n || tallyHamlet n == h)

/-- A staged operation of a tile on a tally of this package: on its own hamlet's or a Hearth tally it joins the command's; in
another hamlet it joins the set there, 64 B of its grant (R164, R180). -/
def stageTally (d : Ctl) (id n : Nat) (t : Tile) (k : Cmd) (e : TallyEffect) : Ctl :=
  if !tallyAway n t.hamlet.val then modCmd d id fun c => { c with
    tallyOps := c.tallyOps ++ [(t.hamlet.val, BitVec.ofNat 32 n, e)] }
  else match grantFor k (tallyEndpoint n) with
    | none => discard d id St.program
    | some (j, g) =>
      if g.bytes < g.used + 64 then discard d id St.program
      else if !takesTallyOps (getHam d (tallyHamlet n)) then discard d id St.memory
      else
        let src := rackHamlet d (homeHamlet d k)
        let o := packOwner (ownerOf d id k)
        modHam (modGrant d id j fun g => { g with used := g.used + 64 }) (tallyHamlet n) fun x => { x with
          sets := x.sets.map fun y =>
            if y.src == src && y.ttag == g.ttag then { y with tallyOps := y.tallyOps ++ [(BitVec.ofNat 32 n, e, o.1, o.2)] } else y }

/-- An operation of a tile on a tally of this package. One that asks at once of a resetting hamlet ends its command
ABORTED/HAMLET_RESET; a wait stays blocked (R181, R397). -/
def tallyHere (d : Ctl) (id n : Nat) (t : Tile) (k : Cmd) (op : TallyOp) (v : W32) : Ctl :=
  let waits := op == .waitGe || op == .waitEq || op == .claimWait
  if !tallyOpen d (getSlice d k.slice).tenant n then tellTile d id n t op .denied
  else if tallyAway n t.hamlet.val && (getHam d (tallyHamlet n)).reset.isSome && !waits then discard d id St.hamletReset
  else
    let r := tallyAt d n op v (ownerOf d id k) fun q => { kind := q, cmd := some id, tile := some t }
    match r.1 with
    | some x =>
      if op == .release && x == .owner && tallyAway n t.hamlet.val then
        stageTally (seeTile (emit r.2 (.tallyResult id x)) id t [leBytes 4 (resultCode x) ++ leBytes 4 (resultValue x)]) id n t k .release
      else tellTile r.2 id n t op x
    | none => match effectOf op v with
      | some e => stageTally r.2 id n t k e
      | none => modCmd r.2 id fun c => { c with waits := c.waits ++ [.tally t (BitVec.ofNat 32 n)] }

/-- An operation of a tile on a tally of another package, on the SYNC class (R180). Waits, reads and claims leave from the tile's
hamlet, staged operations from the command's home hamlet, as its remote writes. -/
def tallyAfar (d : Ctl) (id n : Nat) (t : Tile) (k : Cmd) (op : TallyOp) (v : W32) : Ctl :=
  let o := ownerOf d id k
  let dest := tallyEndpoint n
  let staged := op == .add || op == .set || op == .release
  let h := if staged then homeHamlet d k else t.hamlet.val
  if !hasRoadOps d k then discard d id St.program
  else if !roomForRequest d h 1 then d
  else
    let g := grantFor k dest
    let full := match g with | some e => decide (e.2.bytes < e.2.used + 64) | none => true
    if staged && !tallyIsHearth n && full then discard d id St.program
    else
      let a := takeTtag d h
      let new : Grant := { dest := dest, bytes := 2 ^ 32, asked := true, held := true, ttag := a.1 }
      let open_ := staged && tallyIsHearth n && g.isNone
      let d := if open_ then modCmd a.2 id fun c => { c with grants := c.grants ++ [new] } else a.2
      let g := if open_ then some (k.grants.length, new) else g
      let d := match g with
        | some e => if staged then modGrant d id e.1 fun g => { g with
            used := g.used + 64, acks := if op == .release then g.acks else g.acks + 1 } else d
        | none => d
      let wait := op == .waitGe || op == .waitEq || op == .claimWait
      request d id h (if wait then 0x26 else 0x25) k { cmdMsg d k h dest a.1 with
        addr := tallyAddr n o, operand := tallyOperand op v o,
        len := tallyLen ((g.map fun e => e.2.ttag).getD 0) o } t (!staged || op == .release)

/-- A tally operation of a running tile. -/
def tallyOp (d : Ctl) (id : Nat) (t : Tile) (name : W32) (op : TallyOp) (v : W32) : Ctl :=
  match Tbl.find? d.cmds id with
  | none => d
  | some k =>
    let n := name.toNat
    if !runsTile k t then d
    else if !tallyNamed n then settled (discard d id St.program)
    else if tallyPkg n = pkgNum d then settled (tallyHere d id n t k op v)
    else settled (tallyAfar d id n t k op v)

/-- TLY_READ (R175). -/
def execTlyRead (c : CmdTile) (name : W32) (s : State) : Host.Outcome State Fault Refusal :=
  onCtl s fun d => tallyOp d c.cmd c.tile name .read 0

/-- TLY_WAIT_GE (R175, R176). -/
def execTlyWaitGe (c : CmdTile) (name v : W32) (s : State) : Host.Outcome State Fault Refusal :=
  onCtl s fun d => tallyOp d c.cmd c.tile name .waitGe v

/-- TLY_WAIT_EQ (R175, R176). -/
def execTlyWaitEq (c : CmdTile) (name v : W32) (s : State) : Host.Outcome State Fault Refusal :=
  onCtl s fun d => tallyOp d c.cmd c.tile name .waitEq v

/-- TLY_ADD (R161, R175): staged until the commit. -/
def execTlyAdd (c : CmdTile) (name v : W32) (s : State) : Host.Outcome State Fault Refusal :=
  onCtl s fun d => tallyOp d c.cmd c.tile name .add v

/-- TLY_SET (R161, R175): staged until the commit. -/
def execTlySet (c : CmdTile) (name v : W32) (s : State) : Host.Outcome State Fault Refusal :=
  onCtl s fun d => tallyOp d c.cmd c.tile name .set v

/-- TLY_CLAIM (R177). -/
def execTlyClaim (c : CmdTile) (name : W32) (s : State) : Host.Outcome State Fault Refusal :=
  onCtl s fun d => tallyOp d c.cmd c.tile name .claim 0

/-- TLY_CLAIM_WAIT (R177). -/
def execTlyClaimWait (c : CmdTile) (name : W32) (s : State) : Host.Outcome State Fault Refusal :=
  onCtl s fun d => tallyOp d c.cmd c.tile name .claimWait 0

/-- TLY_RELEASE (R175, R177): checked at once, applied at the commit. -/
def execTlyRelease (c : CmdTile) (name : W32) (s : State) : Host.Outcome State Fault Refusal :=
  onCtl s fun d => tallyOp d c.cmd c.tile name .release 0

/-- The value a released waiter receives: a COUNT wait the value at release (R175). -/
def releaseValue (y : Tally) (w : Waiter) : TallyResult :=
  match w.due with
  | some (.value _) => .value y.value
  | some r => r
  | none => .value y.value

/-- A released waiter is told: a tile here, or by WAIT_NOTIFY to its hamlet (R176, R180). -/
def tellWaiter (d : Ctl) (n : Nat) (y : Tally) (w : Waiter) : Ctl :=
  let r := releaseValue y w
  match w.cmd, w.remote with
  | some id, _ =>
    let t := w.tile.getD ⟨0, 0⟩
    let d := modCmd d id fun c => { c with waits := c.waits.erase (.tally t (BitVec.ofNat 32 n)) }
    tellTile d id n t (match w.kind with | .claim _ => .claimWait | _ => .waitGe) r
  | none, some (e, ttag) =>
    sendMsg d 0x27 {
      cls := 2, epoch := 0, src := BitVec.ofNat 16 (tallyEndpoint n), dst := BitVec.ofNat 16 e, ttag := BitVec.ofNat 16 ttag
      tenant := Tbl.getD d.owners (bits e 9 0) 0, addr := BitVec.ofNat 64 n
      operand := BitVec.ofNat 64 (resultValue r + 2 ^ 32 * resultCode r) }
  | none, none => d

/-- TALLY_WAIT_RELEASE (R176): the waiters that an apply satisfied are released. -/
def execTallyWaitRelease (name : W32) (s : State) : Host.Outcome State Fault Refusal :=
  onCtl s fun d =>
    let n := name.toNat
    match Tbl.find? d.tallies n with
    | none => d
    | some y =>
      let out (w : Waiter) : Bool := w.due.isSome && wakes d n w
      let due := y.waiters.filter out
      let d := modTally d n fun y => { y with waiters := y.waiters.filter fun w => !out w }
      due.foldl (fun d w => tellWaiter d n y w) d

end Sys2Proof.Machine
end

