-- ==== Sys2Proof/Machine/Clock.lean ====
section
/-! DEFINITION. The states of device time: alarms, changes of state and source, loss of a source (R456 to R458, R464, R465).
Offsets and delays are in ps; rates in units of 2^-32 ns per TCLK cycle. -/

namespace Sys2Proof.Machine
open Sys2Proof

/-- TIME_ALARM on lane 0 of every ACTIVE slice (R457). -/
def timeAlarm (d : Ctl) (stepped changed : Bool) : Ctl :=
  let code := timeCode d.time.state + 256 * b2n stepped + 512 * b2n changed
  forEach (slicesWhere d fun s => s.state == .active) d fun d i => sliceEvent d i 7 code 0

/-- The fault record of the time unit, with ALERT_N (R457). -/
def timeFault (d : Ctl) : Ctl := faultRecord d 0x18 8 1 0xFFFF 0xFF 0 0xFFFF 0

/-- The state changes: alarm, record on entry to HOLDOVER and FREERUN, PPS_OUT low outside LOCKED and HOLDOVER (R456, R457,
R468). -/
def enterState (d : Ctl) (st : TimeState) (stepped changed : Bool) : Ctl :=
  if d.time.state = st then (if stepped || changed then timeAlarm d stepped changed else d)
  else
    let d := modTime d fun t => { t with
      state := st, entered := t.interval, lockStreak := 0
      ppsOut := t.ppsOut && (st == .locked || st == .holdover) }
    let d := if st = .holdover ∨ st = .freerun then timeFault d else d
    timeAlarm d stepped changed

/-- The mean of the rates of the last 64 measurements, the rate in force where there is none (R465). -/
def meanRate (t : TimeUnit) : Int :=
  if t.rates.isEmpty then t.rate else t.rates.foldl (· + ·) 0 / (t.rates.length : Int)

/-- The source in use is lost (R456, R464, R465). -/
def sourceLost (d : Ctl) : Ctl :=
  let t := d.time
  match t.state with
  | .locked =>
    enterState (modTime d fun t => { t with
      source := .none, rate := meanRate t, holdoverStart := t.interval, predicted := none, probe := none }) .holdover false false
  | .acquiring =>
    enterState (modTime d fun t => { t with source := .none, predicted := none, probe := none })
      (if t.before = .locked then .freerun else t.before) false false
  | _ => d

/-- The configured source of a LEADER or STANDALONE package: PPS_IN serves PTP_PPS while it is valid, once PTP has given it the
second (R458, R467). -/
def ownSource (t : TimeUnit) : TimeSource :=
  match t.config with
  | 0 => .ptp
  | 1 => .pps
  | _ => if t.ppsValid && !t.ppsRejected && t.ptp.offset.isSome then .pps else .ptp

/-- A follower or backup uses the leader over roads (R458). -/
def follows (t : TimeUnit) : Bool := t.role == .follower || t.role == .backup

/-- The source the role and configuration name. -/
def namedSource (t : TimeUnit) : TimeSource := if follows t then .leader else ownSource t

/-- The package a follower probes: its leader, or from the leader's loss on the BACKUP (R239, R241). -/
def timeLeader (d : Ctl) : Nat := d.time.leader

/-- The identity of a source: the grandmaster or the leader; none while PTP has no master. -/
def sourceId (d : Ctl) : TimeSource → Option Nat
  | .ptp => d.time.ptp.master.map fun _ => d.time.gmId.toNat
  | .pps => some 0
  | .leader => some (timeLeader d)
  | .none => none

/-- The source changes to `src`: LOCKED and ACQUIRING go on in ACQUIRING, with SOURCE_CHANGE (R456, R457). -/
def changeSource (d : Ctl) (src : TimeSource) : Ctl :=
  if d.time.state = .locked ∨ d.time.state = .acquiring then
    let id := (sourceId d src).map fun n => (src, n)
    enterState (modTime d fun t => { t with
      before := if t.state = .locked then .locked else t.before, source := src, lastSource := id, predicted := none, overStreak := 0 })
      .acquiring false true
  else d

/-- The leader is declared lost: a follower or backup loses its source (R464), and a follower's leader is the BACKUP from then on
(R241). -/
def leaderLost (d : Ctl) (q : Nat) : Ctl :=
  let held := follows d.time && d.time.source == .leader && d.time.lastSource == some (.leader, q)
  let d := if held then sourceLost d else d
  match d.time.backup with
  | some b =>
    if d.time.role = .follower ∧ d.time.leader = q ∧ b ≠ pkgNum d then
      modTime d fun t => { t with leader := b, backup := none, probe := none }
    else d
  | none => d

end Sys2Proof.Machine
end

