-- ==== Sys2Proof/Machine/Models.lean ====
section
/-! DEFINITION. Sealed models: the image's layout, the checks of a load, its sheaves, the handle and unloading (06, 10). -/

namespace Sys2Proof.Machine
open Sys2Proof

/-- The model wrap key (R305). -/
def wrapKey (t : Tenant) : Bytes := tenantKey t "pyvan model wrap" []

/-! ### Image layout (R142, R143, R323 to R325) -/

/-- A parse: what it read and the bytes left; none where a field is out of range. -/
abbrev Parse (α : Type) := Bytes → Option (α × Bytes)

/-- `n` items read one after another. -/
def parseN {α : Type} (p : Parse α) : Nat → Parse (List α)
  | 0, b => some ([], b)
  | n + 1, b => (p b).bind fun r => (parseN p n r.2).map fun q => (r.1 :: q.1, q.2)

/-- An item of `k` bytes read by `f`. -/
def parseRaw {α : Type} (k : Nat) (f : Bytes → Option α) : Parse α := fun b =>
  if b.length < k then none else (f (b.take k)).map fun a => (a, b.drop k)

/-- The counts of an annotation block beside its entry: destinations, tallies, stiles, ranges. -/
structure BlockCounts where
  dests : Nat
  tallies : Nat
  stiles : Nat
  ranges : Nat

/-- An annotation block (R142, R144). -/
def readBlock (records : Nat) (b : Bytes) : Option (Entry × BlockCounts) :=
  let fl := fld b 1 1
  let e : Entry := {
    kind := fld b 0 1, roadOps := bitOf fl 0, spill := bitOf fl 1, coreDemand := fld b 2 2, cost := fld b 4 4,
    inputBytes := fld b 8 4, outputBytes := fld b 12 4, granaryLocal := fld b 16 4, spillBytes := fld b 20 4,
    maxLive := fld b 32 4, hamletCount := fld b 36 1 }
  let n : BlockCounts := ⟨fld b 24 2, fld b 26 2, fld b 28 2, fld b 30 2⟩
  if e.kind < 1 ∨ 3 < e.kind ∨ 4 ≤ fl ∨ e.coreDemand < 1 ∨ 864 < e.coreDemand ∨ e.cost = 0 ∨ e.granaryLocal % 4096 ≠ 0 ∨
      e.spillBytes % 4096 ≠ 0 ∨ (!e.spill ∧ e.spillBytes ≠ 0) ∨ 1023 < n.dests ∨ 768 < n.tallies ∨ 1024 < n.stiles ∨
      4096 < n.ranges ∨ e.hamletCount < 1 ∨ 32 < e.hamletCount ∨ records < e.hamletCount ∨ !allZero (b.drop 37) then none
  else some (e, n)

/-- A destination list entry. -/
def readDest (b : Bytes) : Option (Nat × Nat) :=
  if fld b 2 2 ≠ 0 ∨ fld b 4 4 % 4096 ≠ 0 ∨ 1024 ≤ fld b 0 2 then none else some (fld b 0 2, fld b 4 4)

/-- A stile entry within its entry point's limits. -/
def readStile (maxLive ranges : Nat) (b : Bytes) : Option Stile :=
  let s : Stile := ⟨fld b 0 4, fld b 4 4, fld b 8 2, fld b 10 2, fld b 12 2⟩
  if fld b 14 2 ≠ 0 ∨ maxLive < s.live ∨ ranges < s.first + s.count then none else some s

/-- A live-range or resident range entry. -/
def readRange (b : Bytes) : Option Range :=
  let r : Range := ⟨fld b 0 4, fld b 4 4⟩
  if fld b 8 8 ≠ 0 ∨ r.off % 64 ≠ 0 ∨ r.len % 64 ≠ 0 ∨ 48 * 2 ^ 20 < r.off + r.len then none else some r

/-- A tally declaration (R324, R547). -/
def readTally' (b : Bytes) : Option (W32 × Bool) :=
  if fld b 5 3 ≠ 0 ∨ 1 < fld b 4 1 ∨ !tallyNamed (fld b 0 4) then none
  else some (BitVec.ofNat 32 (fld b 0 4), fld b 4 1 == 1)

/-- The lists of an entry point (R324 item 2). -/
def readLists (x : Entry × BlockCounts) : Parse Entry := fun b =>
  (parseN (parseRaw 8 readDest) x.2.dests b).bind fun ds =>
  (parseN (parseRaw 16 (readStile x.1.maxLive x.2.ranges)) x.2.stiles ds.2).bind fun ss =>
  (parseN (parseRaw 16 readRange) x.2.ranges ss.2).bind fun rs =>
  (parseN (parseRaw 8 readTally') x.2.tallies rs.2).map fun ts =>
    ({ x.1 with dests := ds.1, stiles := ss.1, ranges := rs.1, tallies := ts.1 }, ts.2)

/-- A remote window request (R325): none where not VALID. -/
def readWindow (b : Bytes) : Option (Option Window) :=
  let first := fld b 0 4
  let count := fld b 4 3
  let fl := fld b 7 1
  if !bitOf fl 0 then some none
  else if 2 ^ 43 < 4096 * (first + count) then none
  else if count = 0 then some (some {})
  else some (some ⟨4096 * first, 4096 * (first + count) - 1, if bitOf fl 1 then 2 else 1⟩)

/-- A placement record with its resident count. -/
def readRecord (b : Bytes) : Option (Placement × Nat) :=
  (parseN (parseRaw 8 readWindow) 4 (sub b 48 32)).bind fun ws =>
    if fld b 2 2 ≠ 0 ∨ fld b 40 8 ≠ 0 ∨ !allZero (sub b 80 16) ∨ fld b 24 4 % 4096 ≠ 0 ∨
        fld b 28 4 % 4096 ≠ 0 then none
    else some ({
      hamlet := fld b 0 1, modelPages := fld b 4 4, shadowPages := fld b 8 4, contextPages := fld b 12 4,
      spillPages := fld b 16 4, parkPages := fld b 20 4, granaryLocal := fld b 24 4, receiveGrant := fld b 28 4,
      dataFirst := fld b 32 4, dataPages := fld b 36 4, windows := ws.1 }, fld b 1 1)

/-- The resident range entries of the records (R324 item 4). -/
def readResidents : List (Placement × Nat) → Parse (List Placement)
  | [], b => some ([], b)
  | r :: l, b => (parseN (parseRaw 16 readRange) r.2 b).bind fun rs =>
      (readResidents l rs.2).map fun q => ({ r.1 with residents := rs.1 } :: q.1, q.2)

/-- Entry kinds strictly ascend and hamlets differ (R324, R326). -/
def ascending : List Nat → Bool
  | a :: b :: l => decide (a < b) && ascending (b :: l)
  | _ => true

/-- The tally declarations of a model. -/
def tallyDecls (m : Model) : List (W32 × Bool) := m.entries.flatMap Entry.tallies

/-- The metadata of a decrypted body: the model and its page contents; none where malformed (R144, R326, R547). -/
def readBody (tenant entries records : Nat) (word : Nat) (tag body : Bytes) : Option (Model × Bytes) :=
  (parseN (parseRaw 64 (readBlock records)) entries body).bind fun bs =>
  (bs.1.foldl (fun a x => a.bind fun q : List Entry × Bytes => (readLists x q.2).map fun r => (q.1 ++ [r.1], r.2))
    (some (([] : List Entry), bs.2))).bind fun es =>
  (parseN (parseRaw 96 readRecord) records es.2).bind fun rs =>
  (readResidents rs.1 rs.2).bind fun ps =>
    let m : Model := {
      tenant := tenant, entries := es.1, records := ps.1, baseMiB := bits word 13 0, mirror := bitOf word 14, bodyTag := tag }
    let pages := ps.1.foldl (fun a r => a + r.modelPages + r.shadowPages) 0
    let decls := tallyDecls m
    if !ascending (es.1.map Entry.kind) || !(ps.1.map Placement.hamlet).Nodup ||
        (ps.1.any fun r => decide (0 < r.spillPages) && !(es.1.any Entry.spill)) ||
        (ps.1.any fun r => decide (4096 * r.shadowPages < r.residents.foldl (fun a x => a + x.len) 0)) ||
        (decls.any fun x => decls.any fun y => x.1 == y.1 && x.2 != y.2) || ps.2.length != 4096 * pages then none
    else some (m, ps.2)

/-! ### Placement checks (R144, R326, R547) -/

/-- Resident ranges of a record. -/
def residentRanges (r : Placement) : List (Nat × Nat) := someRanges (r.residents.map fun x => (x.off, x.len))

def overlaps (a b : Nat × Nat) : Bool := decide (a.1 < b.1 + b.2) && decide (b.1 < a.1 + a.2)

def anyOverlap (a b : List (Nat × Nat)) : Bool := a.any fun x => b.any (overlaps x)

/-- No two ranges of a list overlap. -/
def disjointPages : List (Nat × Nat) → Bool
  | [] => true
  | a :: l => !(l.any (overlaps a)) && disjointPages l

/-- The models of the package and the loads in progress. -/
def allModels (d : Ctl) : List Model := Tbl.vals d.models ++ (Tbl.vals d.loads).map Load.model

/-- The placement of a record succeeds (R326). -/
def placeOk (d : Ctl) (m : Model) (r : Placement) : Bool :=
  let h := r.hamlet
  let x := getHam d h
  let pages := heldPages m h
  let data := dataPages m h
  let others := (allModels d).flatMap fun o => heldPages o h
  let below (g : Nat × Nat) : Bool := g.2 == 0 || decide (g.1 + g.2 ≤ 0x180000)
  (pages ++ data).all (fun g => decide (4096 * (g.1 + g.2) ≤ hbmSize x)) && disjointPages pages &&
    !anyOverlap pages others && !anyOverlap pages data && !anyOverlap data others &&
    !anyOverlap pages ((allModels d).flatMap fun o => dataPages o h) && !(m.mirror && threeChannel x) &&
    (!m.mirror || (below (regionOf m r 0) && below (regionOf m r 1))) && below (regionOf m r 3) &&
    !anyOverlap (residentRanges r)
      ((allModels d).flatMap fun o => (o.records.filter fun q => q.hamlet == h).flatMap residentRanges)

/-- The logical crofts in service hold a scratchpad range of hamlet `x` (R144, R543). -/
def inScratchpad (x : Hamlet) (g : Range) : Bool := decide (g.off + g.len ≤ 4194304 * croftCount x)

/-- The grants and resident ranges of a record fit its hamlet, and its park area the image's live state (R144). -/
def recordOk (d : Ctl) (m : Model) (r : Placement) : Bool :=
  let x := getHam d r.hamlet
  decide (r.granaryLocal ≤ localBytes x) && decide (r.receiveGrant ≤ remoteBytes x) && r.residents.all (inScratchpad x) &&
    (r.parkPages == 0 || decide (m.entries.foldl (fun a e => max a e.maxLive) 0 ≤ 4096 * r.parkPages))

/-- The demands of an entry point fit a record's hamlet and grants (R144). -/
def demandOk (d : Ctl) (e : Entry) (r : Placement) : Bool :=
  let x := getHam d r.hamlet
  decide (e.granaryLocal ≤ r.granaryLocal) && decide (e.spillBytes ≤ 4096 * r.spillPages) &&
    decide (e.coreDemand ≤ coreCount x) && e.ranges.all (inScratchpad x) &&
    e.dests.all fun q => q.1 / 32 != pkgNum d || decide (q.2 ≤ remoteBytes (getHam d (q.1 % 32)))

/-- A tally declaration is refused: not the tenant's, or a resident model declares the other mode (R547). -/
def tallyRefused (d : Ctl) (t : Nat) (x : W32 × Bool) : Bool :=
  tallyPkg x.1.toNat == pkgNum d && (!tallyOpen d t x.1.toNat ||
    d.models.any fun o => o.2.tenant == t && (tallyDecls o.2).any fun y => y.1 == x.1 && y.2 != x.2)

/-- Every resource a load needs is there (R328). -/
def resourcesOk (d : Ctl) (t : Nat) (m : Model) : Bool :=
  m.records.all (fun r =>
    let x := getHam d r.hamlet
    decide (r.hamlet < 32) && x.assign == .granted && x.tenant == t && !x.outOfService && placeOk d m r && recordOk d m r &&
      m.entries.all fun e => !((entryHamlets m e).contains r.hamlet) || demandOk d e r) &&
    !(tallyDecls m).any (tallyRefused d t)

/-! ### Loading (R327) -/

/-- The image header is valid for the tenant and the length named (R323, R328). -/
def headerOk (b : Bytes) (tenant pages : Nat) : Bool :=
  fld b 0 4 == 0x494D5A47 && fld b 4 2 == 1 && fld b 6 1 == 0xB0 && fld b 7 1 == 0 && fld b 8 2 == tenant &&
    decide (1 ≤ fld b 10 1 ∧ fld b 10 1 ≤ 3 ∧ 1 ≤ fld b 11 1 ∧ fld b 11 1 ≤ 32) && fld b 12 4 == 0 && fld b 36 4 == 0 &&
    allZero (sub b 88 24) && ceilDiv (128 + fld b 16 8) 4096 == pages

/-- A freeze of one of the tenant's slices is in progress (R328, R353). -/
def tenantFrozen (d : Ctl) (t : Nat) : Bool :=
  d.slices.any fun e => e.2.tenant == t && (match e.2.proc with | some p => p.kind == .freeze | none => false)

/-- Steps 2 and 3 of a load: the outcome of the checks, or the load with its sheaves queued. -/
def startLoad (d : Ctl) (id : Nat) (c : Cmd) (t : Nat) (x : Tenant) (image : DmaResult) : Ctl :=
  match image with
  | .failed => adminFail (dmaFault d c.slice) id St.dmaInput
  | .ok img =>
    let pages := fld c.raw 24 4
    let d := holdPages d (getSlice d c.slice).cur c.slice (pagesAt (BitVec.ofNat 64 (fld c.raw 16 8)) (4096 * pages))
    let b := padTo (4096 * pages) img
    if pages = 0 ∨ !headerOk b x.ident.toNat pages then adminFail d id St.badLength
    else match gcmOpen (wrapKey x) (sub b 24 12) (b.take 40) (sub b 40 32) (sub b 72 16) with
      | none => adminFail d id St.tagMismatch
      | some key =>
        let ct := sub b 128 (fld b 16 8)
        let body := gcmCrypt key (zeros 12) ct
        match readBody t (fld b 10 1) (fld b 11 1) (fld c.raw 28 4) (sub b 112 16) body with
        | none => adminFail d id St.badLength
        | some (m, contents) =>
          if !resourcesOk d t m then adminFail d id St.resource
          else
            let l : Load := {
              cmd := id, model := m, pages := contents, tagOk := gcmTag key (zeros 12) (b.take 112) ct == sub b 112 16,
              sheaves := ceilDiv (128 + fld b 16 8) 4096, key := key }
            serveSheaves (queueTransfer { d with loads := Tbl.set d.loads id l } c.slice (128 + fld b 16 8) false fun _ => .load id)

/-- Check 5 of GQI_ADM_MODEL_LOAD: the tenant is claimed and no freeze of its slices is in progress (R328, R353). -/
def loadCheck (d : Ctl) (k : Cmd) : Option Status :=
  let t := (getSlice d k.slice).tenant
  match Tbl.find? d.tenants t with
  | none => some St.notPermitted
  | some x => if x.state ≠ .claimed ∨ tenantFrozen d t then some St.notPermitted else none

/-- GQI_ADM_MODEL_LOAD (R327, R328). -/
def execGqiAdmModelLoad (c : Nat) (image : DmaResult) (s : State) : Host.Outcome State Fault Refusal :=
  onCtl s fun d => adminRun d c 0x86 loadCheck fun d k =>
    let t := (getSlice d k.slice).tenant
    match Tbl.find? d.tenants t with
    | none => adminFail d c St.notPermitted
    | some x => startLoad d c k t x image

/-- A handle that no model has, not 0 and not 0xFFFF_FFFF (R88): a draw, or the lowest free value. -/
def newHandle (d : Ctl) : W32 :=
  let bad (h : W32) : Bool := h == 0 || h == 0xFFFFFFFF || (Tbl.find? d.models h.toNat).isSome
  let h := Config.drawHandle d.fresh
  if bad h then
    BitVec.ofNat 32 (((List.range (d.models.length + 1)).find? fun k => !bad (BitVec.ofNat 32 (k + 1))).getD 0 + 1)
  else h

/-- The tally modes of a loaded model are set (R547). -/
def setModes (d : Ctl) (m : Model) : Ctl :=
  (tallyDecls m).foldl (fun d x =>
    if tallyPkg x.1.toNat = pkgNum d ∧ (getTally d x.1.toNat).claimMode ≠ x.2 then
      modTally d x.1.toNat fun _ => { claimMode := x.2 }
    else d) d

/-- The remote windows of a record's hamlet are replaced where it requests any (R326). -/
def setWindows (d : Ctl) (r : Placement) : Ctl :=
  if r.windows.any Option.isSome then
    modHam d r.hamlet fun x => { x with windows := (List.range 4).map fun k => (k, ((r.windows.getD k none).getD {})) }
  else d

/-- The contents of each record's model and shadow pages, in order. -/
def splitPages : List Placement → Bytes → List (Placement × Bytes × Bytes)
  | [], _ => []
  | r :: l, b =>
    let n := 4096 * r.modelPages
    let k := 4096 * r.shadowPages
    (r, b.take n, sub b n k) :: splitPages l (b.drop (n + k))

/-- Resident ranges with the shadow bytes that hold them, packed in order (R187). -/
def packed : List Range → Bytes → List (Nat × Bytes)
  | [], _ => []
  | r :: l, b => (r.off, b.take r.len) :: packed l (b.drop r.len)

/-- One record's pages and resident ranges are written (R187, R327). -/
def writeRecord (d : Dev) (m : Model) (x : Placement × Bytes × Bytes) : Dev :=
  let h := x.1.hamlet
  let d := storeBytes d h (4096 * (regionOf m x.1 0).1) x.2.1
  let d := storeBytes d h (4096 * (regionOf m x.1 1).1) x.2.2
  (packed x.1.residents x.2.2).foldl (fun d w => storeBytes d h (aliasBase + w.1) w.2) d

/-- Steps 4 to 6 of a load: its last sheaf is done (R327). -/
def finishLoad (d : Dev) (k : Nat) (l : Load) : Dev :=
  let d := withCtl d fun d => { d with loads := Tbl.erase d.loads k }
  if !l.tagOk then withCtl d fun d => adminFail d l.cmd St.tagMismatch
  else
    let h := newHandle d.toCtl
    let d := withCtl d fun d => { drawn d with models := Tbl.set d.models h.toNat l.model }
    let d := (splitPages l.model.records l.pages).foldl (fun d x => writeRecord d l.model x) d
    withCtl d fun d =>
      let j := ((Tbl.find? d.cmds l.cmd).map Cmd.jseq).getD 0
      adminOk (mirrorStep d .package j (l.model.records.foldl setWindows (setModes d l.model))) l.cmd none h

/-- An accepted command of the handle's tenant uses it (R88, R112). -/
def handleUsed (d : Ctl) (h : W32) (but : Nat) : Bool :=
  d.cmds.any fun e => e.1 != but && (Tbl.find? d.models h.toNat).map Model.tenant == some (getSlice d e.2.slice).tenant &&
    (e.2.model == h || e.2.ranModel == h) && e.2.lane != 0 && (unsettled e.2 || e.2.phase == .running)

/-- Check 5 of GQI_ADM_MODEL_UNLOAD, the command of number `id` (R88, R112). -/
def unloadCheck (id : Nat) (d : Ctl) (k : Cmd) : Option Status :=
  if (resident d k.slice k.model).isNone then some St.notResident
  else if handleUsed d k.model id then some St.inUse
  else none

/-- GQI_ADM_MODEL_UNLOAD (R88, R112, R544). -/
def execGqiAdmModelUnload (c : Nat) (s : State) : Host.Outcome State Fault Refusal :=
  onCtl s fun d => adminRun d c 0x87 (unloadCheck c) fun d k => adminOk (dropModel d k.model.toNat) c none 0

end Sys2Proof.Machine
end

