-- ==== Sys2Proof/Machine/RoadLink.lean ====
section
/-! DEFINITION. Roads as links: states, training, blocks with retry, failover between the roads of a pair, routes,
peer loss, epoch barriers, and the checks every received message meets (R207 to R237, R315, R316). -/

namespace Sys2Proof.Machine
open Sys2Proof

/-! ### Counters, records and notices -/

/-- Road counter `k` of R509 advances. -/
def countRoad (d : Ctl) (r k n : Nat) : Ctl :=
  modRoad d r fun x => { x with counters := Tbl.modify x.counters k 0 fun c => addCount c n }

/-- A road event for the PF driver and the fabric manager: a record of detector 0x09 (R215, R229, R378). -/
def roadEvent (d : Ctl) (r severity handle : Nat) : Ctl := faultRecord d 0x09 5 severity r 0xFF handle 0xFFFF 0

/-- Peers a mesh road is UP to, and whether a reserve road is UP (R232). -/
def meshMask (d : Ctl) : Nat :=
  ofBitList ((List.range 32).filter fun q => q != pkgNum d &&
    (roadUp d (meshRoad (pkgNum d) q 0) || roadUp d (meshRoad (pkgNum d) q 1)))

/-- ROUTE_NOTICE to a peer that a message reaches, after one of the own road states changed (R232). Its operand is the
model's own (log 14): bit q for a mesh road UP to q, bit 32 for a reserve road UP. -/
def sendNoticeTo (d : Ctl) (q : Nat) : Ctl :=
  sendCtrl d 0x36 q 0 (BitVec.ofNat 64 (meshMask d + 2 ^ 32 * b2n (reserveRoad d).isSome)) 0

/-- ROUTE_NOTICE to every peer. -/
def sendNotices (d : Ctl) : Ctl := forEach ((List.range 32).filter fun q => q != pkgNum d) d sendNoticeTo

/-! ### Key generations (R227, R305, R315) -/

/-- The road key of generation `g` of a tenant. -/
def roadKeyOf (t : Tenant) (g : Nat) : Bytes :=
  tenantKey t "pyvan road" (t.roadSalt ++ leBytes 4 g)

/-- First 8 bytes of the SHA-384 of a road salt. -/
def saltDigest (t : Tenant) : W64 := BitVec.ofNat 64 (leNat ((sha384 t.roadSalt).take 8))

/-- The operand of an epoch message (R315). -/
def epochOperand (t : Tenant) (g : Nat) : W64 := BitVec.ofNat 64 (g + 2 ^ 32 * t.ident.toNat)

/-- The nonce counters of a tenant return to 0 with a new CURRENT key (R226). -/
def freshNonces (d : Ctl) (t : Tenant) : Ctl :=
  { d with nonces := d.nonces.filter fun e => e.1 % 65536 != t.ident.toNat }

/-- The generation a message of the tenant is sealed under is not CURRENT. -/
def sealedBefore (d : Ctl) (t : Tenant) (m : RoadMsg) : Bool :=
  m.tenant == t.ident && endPkg m.src.toNat == pkgNum d && !((t.roadCur.map fun k => m.epoch.toNat == epochOf k.gen).getD false)

/-- One message sealed anew, with a nonce of the new epoch. -/
def resealOne (i : Nat) (op : Nat) (m : RoadMsg) (d : Ctl) : Option RoadMsg × Ctl :=
  match Tbl.find? d.tenants i with
  | none => (some m, d)
  | some t =>
    if !sealedBefore d t m then (some m, d)
    else
      let open_ := (messageKey d m).bind fun old => gcmOpen old (roadNonce m) (headAad op m) m.data m.tag
      match t.roadCur, open_ with
      | some k, some p =>
        let nn := takeNctr d m.oroad.toNat m.tenant.toNat
        let m := { m with epoch := BitVec.ofNat 8 (epochOf k.gen), nctr := BitVec.ofNat 48 nn.1 }
        let x := gcmSeal k.key (roadNonce m) (headAad op m) p
        (some { m with data := x.1, tag := x.2 }, nn.2)
      | _, _ => (none, d)

/-- A list of messages sealed anew in order. -/
def resealList (i : Nat) (l : List (Nat × RoadMsg)) (d : Ctl) : List (Nat × RoadMsg) × Ctl :=
  l.foldl (fun a e => let x := resealOne i e.1 e.2 a.2; (a.1 ++ (x.1.map fun m => (e.1, m)).toList, x.2)) ([], d)

/-- What road `r` has yet to send of the tenant, sealed anew; a block of its replay buffer keeps its place (R228). -/
def resealRoad (i : Nat) (d : Ctl) (r : Nat) : Ctl :=
  let x := getRoad d r
  let w := x.waiting.foldl (fun a e => let y := resealOne i e.op e.msg a.2; (a.1 ++ (y.1.map fun m => { e with msg := m }).toList, y.2))
    (([] : List Waiting), d)
  let f := resealList i x.failed w.2
  let b := resealList i x.behind f.2
  let p := x.replay.foldl (fun a e => match e.2 with
    | none => (a.1 ++ [e], a.2)
    | some c => let y := resealOne i c.1 c.2 a.2; (a.1 ++ [(e.1, y.1.map fun m => (c.1, m))], y.2))
    (([] : List (W32 × Option (Nat × RoadMsg))), b.2)
  modRoad p.2 r fun x => { x with waiting := w.1, failed := f.1, behind := b.1, replay := p.1 }

/-- Nothing of the tenant that is still to leave this package is sealed under another epoch than CURRENT (R227, R228). -/
def resealAll (d : Ctl) (i : Nat) : Ctl :=
  let d := (Tbl.keys d.roads).foldl (resealRoad i) d
  (Tbl.keys d.peers).foldl (fun d q =>
    let h := resealList i (getPeer d q).held d
    modPeer h.2 q fun p => { p with held := h.1 }) d

/-- A newer generation becomes CURRENT, and the one before it PREVIOUS: nonce counters return to 0, and what waits is sealed anew
(R226, R227). -/
def switchKey (d : Ctl) (i : Nat) (x : Tenant) (k : RoadKey) : Ctl :=
  if x.roadCur.map RoadKey.gen = some k.gen then d
  else resealAll (freshNonces (modTenant d i fun x => { x with roadPrev := x.roadCur, roadCur := some k }) x) i

/-- A barrier's mark in the len of its messages, which their EPOCH_ACK returns (log 14): its kind and generation. -/
def barrierMark (b : Barrier) : W32 := BitVec.ofNat 32 (b.kind + 8 * b.gen)

/-- A barrier of tenant index `i` begins: its message goes to every live peer (R227, R228, R315, R316). -/
def beginBarrier (d : Ctl) (i kind gen op : Nat) (x : Tenant) : Ctl :=
  let peers := livePeers d
  let b : Barrier := { kind := kind, gen := gen, awaited := peers, start := now d }
  let d := modTenant d i fun x => { x with barrier := some b }
  let v := if kind = 3 then epochOperand x 0 ||| 0x1000000000000#64 else epochOperand x gen
  forEach peers d fun d q => sendCtrl d op q 0 v (barrierMark b)

/-- The answers to a join or to the query after a reset: no generation anywhere is generation 1, which a join takes, and after which
the query of R316 that found none goes on as a join (DEDUCED, log 18); else a rotation to the next. -/
def joinWith (d : Ctl) (i : Nat) (x : Tenant) (largest : Nat) : Ctl × Option (Nat × Nat × Nat) :=
  if x.saltMismatch then (emit d (.alertManager (.tenant x.ident.toNat)), none)
  else if largest = 0 then (modTenant d i fun y => { y with roadCur := some ⟨1, roadKeyOf x 1⟩, joined := true }, none)
  else (d, some (0, largest + 1, 0x31))

/-- What the end of a barrier changes, and the barrier that follows it: kind, generation, opcode. A removal that waited for it is
next (07_roads_rack.md, Edges). -/
def afterBarrier (d : Ctl) (i : Nat) (x : Tenant) (b : Barrier) : Ctl × Option (Nat × Nat × Nat) :=
  let d := if b.kind = 3 then d else modTenant d i fun x => { x with barrier := none }
  let r : Ctl × Option (Nat × Nat × Nat) :=
    match b.kind with
    | 0 =>
      let d := modTenant (switchKey d i x ⟨b.gen, roadKeyOf x b.gen⟩) i fun x => { x with joined := true }
      (d, if b.gen = 1 then none else some (1, b.gen - 1, 0x32))
    | 1 => (modTenant d i fun x => { x with roadPrev := x.roadPrev.filter fun k => k.gen != b.gen }, none)
    | 2 => joinWith d i x b.largest
    | 4 =>
      let own := (x.roadCur.map RoadKey.gen).getD 0
      let g := max own b.largest
      if own = 0 then joinWith d i x b.largest
      else
        let d := if g = own then d else switchKey d i x ⟨g, roadKeyOf x g⟩
        (modTenant d i fun x => { x with roadPrev := none, joined := !x.saltMismatch }, none)
    | _ => (endRemoval d i, none)
  if b.kind ≠ 3 ∧ x.state = .removing ∧ x.removeStep = 3 then (r.1, some (3, 0, 0x32)) else (flushUnsent r.1, r.2)

/-- A barrier whose last awaited peer has acknowledged completes, and what follows it starts; `fuel` bounds the
chain. -/
def runBarrier (i : Nat) : Nat → Ctl → Ctl
  | 0, d => d
  | fuel + 1, d =>
    match Tbl.find? d.tenants i with
    | none => d
    | some x => match x.barrier with
      | none => d
      | some b =>
        if !b.awaited.isEmpty then d
        else
          let r := afterBarrier d i x b
          match r.2 with
          | some (kind, gen, op) => runBarrier i fuel (beginBarrier r.1 i kind gen op x)
          | none => r.1

/-- A barrier begins, and completes at once with no live peer. One runs at a time: a removal's waits for the step in progress
(R228). -/
def startBarrier (d : Ctl) (i kind gen op : Nat) : Ctl :=
  match Tbl.find? d.tenants i with
  | some x => if x.barrier.isSome then d else runBarrier i 4 (beginBarrier d i kind gen op x)
  | none => d

/-- Peer `q` counts as acknowledged in the barrier of tenant index `i`. -/
def ackBarrier (d : Ctl) (i q : Nat) : Ctl :=
  runBarrier i 4 (modTenant d i fun x => { x with
    barrier := x.barrier.map fun b => { b with awaited := b.awaited.filter (· != q) } })

/-- A step of a tenant's barrier that took the state from `old` to `d`: of the removal's order, or the Reeve's own (R417). -/
def barrierStep (old : Ctl) (x : Tenant) (d : Ctl) : Ctl :=
  mirrorStep old (.tenant x.ident.toNat) (if x.state = .removing then x.removeJseq else 0) d

/-- Peer `q` counts as acknowledged in a tenant's barrier. -/
def peerAcks (d : Ctl) (i q : Nat) : Ctl :=
  match Tbl.find? d.tenants i with
  | some x => barrierStep d x (ackBarrier d i q)
  | none => d

/-! ### Peer loss (R237, R412, R168) -/

/-- The sets from a lost source that hold no COMMIT are dropped and counted (R237, R412). -/
def dropLostSets (x : Hamlet) (q : Nat) : Hamlet :=
  let lost (s : StagedSet) : Bool := endPkg s.src == q && !s.commit
  let gone := x.sets.filter lost
  { x with
    sets := x.sets.filter fun s => !lost s, deferred := x.deferred.filter fun y => endPkg y.src != q
    remoteUsed := x.remoteUsed - gone.foldl (fun a s => a + s.granted) 0, commitDiscards := addCount x.commitDiscards gone.length
    reset := x.reset.map fun r => { r with answers := r.answers - (gone.filter StagedSet.discardSent).length } }

/-- The commands that wait on peer `q` end; committed ones await it no more (R168, R237). -/
def endPeerWork (d : Ctl) (q : Nat) (st : Status) : Ctl :=
  let ids := ((d.requests.filter fun k => k.peer == q).map Request.cmd).eraseDups
  let d := ids.foldl (fun d id =>
    match Tbl.find? d.cmds id with
    | none => d
    | some c =>
      if c.token then
        let d := modCmd d id fun c => { c with
          grants := c.grants.map fun g => if endPkg g.dest = q then { g with applied := false } else g }
        finishCommit d id
      else discard d id st) d
  { d with requests := d.requests.filter fun k => k.peer != q }

/-- The route to a peer passes package `q`. -/
def routePasses (p : Peer) (q : Nat) : Bool := (p.route == .relaySrc || p.route == .relayDst) && p.via == q

/-- Requests that went through a lost relay end; a COMMIT is sent again on the new route. -/
def endRelayed (d : Ctl) (q : Nat) (st : Status) : Ctl :=
  let ids := ((d.requests.filter fun k => routePasses (getPeer d k.peer) q && !k.deferred && k.opcode != 0x23).map Request.cmd).eraseDups
  ids.foldl (fun d id => discard d id st) d

/-- Package `q` is declared lost: its work ends, its sets are dropped, its claims ORPHANED (R237). -/
def peerLost (d : Ctl) (q : Nat) (st : Status) : Ctl :=
  if (getPeer d q).lost then d
  else
    let d := modPeer d q fun p => { p with lost := true, reportsMesh := 0, reportsReserve := false, unacked := [], unsent := [], asked := false }
    let d := endRelayed (endPeerWork d q st) q st
    let d := { d with
      hamlets := Tbl.mapVal d.hamlets fun _ x => dropLostSets x q
      hearthSets := d.hearthSets.filter fun s => !(endPkg s.src == q && !s.commit)
      tallies := Tbl.mapVal d.tallies fun _ y => { y with
        waiters := y.waiters.filter fun w => match w.remote with | some e => endPkg e.1 != q | none => true } }
    let d := orphanWhere d fun o => o.pkg == q
    let d := forEach (Tbl.keys d.tenants) d fun d i => peerAcks d i q
    settled (leaderLost d q)

/-! ### Road state changes (R207, R215, R230) -/

/-- A road leaves UP: its messages await a replay, and REPLAY_QUERY goes out where a path exists (R230). The operand is
the road's number at the asking end (log 14). -/
def askReplay (d : Ctl) (r : Nat) : Ctl :=
  sendCtrl d 0x38 (roadPeer (pkgNum d) r) 0 (BitVec.ofNat 64 r) 0

/-- A failed road keeps what its replay buffer and its queue hold for the replay (R230, R231). -/
def failRoad (x : Road) : Road :=
  { x with
    replayPending := true, failed := x.failed ++ x.replay.filterMap Prod.snd, behind := x.behind ++ x.waiting.map fun e => (e.op, e.msg)
    replay := [], waiting := [] }

/-- Road `r` enters a state other than UP, and its peers have a notice; what FENCED ends is not replayed (R230, R232, R237). -/
def leaveUp (d : Ctl) (r : Nat) (st : RoadState) : Ctl :=
  let x := getRoad d r
  if x.state = st then d
  else
    let up := x.state == .up
    let moves := up && !isReserve r && st != .fenced
    let d := modRoad d r fun x => { (if moves then failRoad x else x) with
      state := st, waiting := if moves || st == .fenced then [] else x.waiting, hseqLast := if up then x.hseqRx.or x.hseqLast else x.hseqLast }
    sendNotices (if moves then askReplay d r else d)

/-- A road retrains (R215, R216): at the fourth time within 3,600 s it becomes DISABLED. -/
def retrain (d : Ctl) (r : Nat) : Ctl :=
  let d := countRoad d r 2 1
  let d := modRoad d r fun x => { x with
    retrainTimes := within d (sec 3600) x.retrainTimes ++ [now d], nakSame := 0, nakTimes := [], nakTx := false }
  if 4 ≤ (getRoad d r).retrainTimes.length then roadEvent (leaveUp d r .disabled) r 1 0
  else leaveUp (modRoad d r fun x => { x with trainStart := some (now d) }) r .training

/-- Roads train: in operation, not between the start of a warm reset and the drop of its FENCED roads, and in self-test from phase 7
on (R47, R236, R403, R480, R494). -/
def roadsOn (d : Ctl) : Bool :=
  (d.pkg.life == .operating && d.pkg.warm.all WarmReset.dropped) || (d.pkg.life == .selftest && decide (6 ≤ d.pkg.phase))

/-- ROAD_TRAINING_START (R207). -/
def execRoadTrainingStart (r : Fin 64) (s : State) : Host.Outcome State Fault Refusal :=
  onCtl s fun d =>
    if roadsOn d && (getRoad d r.val).state == .down then
      leaveUp (modRoad d r.val fun x => { x with trainStart := some (now d) }) r.val .training
    else d

/-- The query of R316 to a peer that has become live, for every CLAIMED tenant: until it is answered no message of the tenant passes.
A rotation or join in progress has asked the peers of its time. -/
def askEpochs (d : Ctl) (q : Nat) : Ctl :=
  forEach (Tbl.keys d.tenants) d fun d i =>
    match Tbl.find? d.tenants i with
    | none => d
    | some x =>
      let open_ := match x.barrier with | some b => b.kind == 4 | none => true
      if x.state ≠ .claimed || x.saltMismatch || !open_ then d
      else
        let b : Barrier := x.barrier.getD { kind := 4, gen := 0, awaited := [], start := now d }
        let d := modTenant d i fun x => { x with
          joined := false, barrier := some { b with awaited := b.awaited.filter (· != q) ++ [q] } }
        sendCtrl d 0x31 q 0 (epochOperand x 0) (barrierMark b)

/-- A peer that is live and has not been asked since is told of this package's roads and asked for its epochs (R228, R232, R316). -/
def greet (d : Ctl) (q : Nat) : Ctl :=
  let p := getPeer d q
  if p.route = .unreachable ∨ p.lost ∨ p.asked then d
  else askEpochs (sendNoticeTo (modPeer d q fun p => { p with asked := true }) q) q

/-- A road that comes UP starts over: sequences, credits, buffers and retry counts (R215, R231). What awaits a replay of it stays. -/
def freshRoad (x : Road) : Road :=
  { x with
    state := .up, txSeq := 0, rxAck := 0, txAck := 0, nakTx := false, replay := [], nakSame := 0, nakTimes := [], fencedTx := false
    fencedRx := false, credits := [], creditDue := [], linkDue := true, turn := [], deficit := [], lastSrc := [], rxFlits := []
    hseqTx := 0, hseqRx := none }

/-- What a road learns of its far end in training. -/
def learnFar (far : RoadIdentity) (x : Road) : Road :=
  { x with farPkg := far.pkg.val, farRoad := far.road.val, farGen := far.gen, trainStart := none }

/-- Road `k` comes UP to package `q` of generation `gen`: a lost peer is back with a new generation (R237). -/
def joinRoad (d : Ctl) (k q : Nat) (gen : Byte) : Ctl :=
  let p := getPeer d q
  let again := p.lost && p.known && gen == p.gen
  let d := modRoad d k freshRoad
  let d := modPeer d q fun p => { p with
    lost := again, known := true, asked := p.asked && p.gen == gen, gen := gen, lastBlock := now d, lastLive := now d }
  let d := greet (sendNotices d) q
  drain (if (getRoad d k).replayPending then askReplay d k else d) k

/-- The end of training sends this package's identity in link word B (R216). -/
def sendIdentity (d : Ctl) (r : Nat) : Ctl := emit d (.block r (blockBytes d r 0 true []))

/-- ROAD_TRAINING_DONE (R48, R216, R237): UP on a match with the cabling map, MISMATCH otherwise. A package that is in reset or has
failed brings no road up (R47, R236). -/
def execRoadTrainingDone (r : Fin 64) (far : RoadIdentity) (s : State) : Host.Outcome State Fault Refusal :=
  onCtl s fun d =>
    let k := r.val
    if (getRoad d k).state ≠ .training ∨ !roadsOn d then d
    else
      let d := modRoad (sendIdentity d k) k (learnFar far)
      if far.pkg.val ≠ roadPeer (pkgNum d) k ∨ far.road.val ≠ farRoadOf k then leaveUp d k .mismatch
      else joinRoad d k far.pkg.val far.gen

/-- ROAD_TRAINING_TIMEOUT (R207): 5 ms elapsed. -/
def execRoadTrainingTimeout (r : Fin 64) (s : State) : Host.Outcome State Fault Refusal :=
  onCtl s fun d =>
    let x := getRoad d r.val
    match x.trainStart with
    | some t =>
      if x.state = .training ∧ t + ms 5 ≤ now d then
        leaveUp (modRoad d r.val fun x => { x with trainStart := none }) r.val .down
      else d
    | none => d

/-- ROAD_SIGNAL_LOST (R207). -/
def execRoadSignalLost (r : Fin 64) (s : State) : Host.Outcome State Fault Refusal :=
  onCtl s fun d =>
    let st := (getRoad d r.val).state
    if st = .up ∨ st = .fenced ∨ st = .training then
      modRoad (leaveUp d r.val .down) r.val fun x => { x with fencedTx := false, fencedRx := false, trainStart := none }
    else d

/-- MB_ROAD_ENABLE: a MISMATCH or DISABLED road returns to DOWN (R207). -/
def mbRoadEnableBody : Body := fun d o =>
  let r := fld o.args 0 1
  let st := (getRoad d r).state
  if st = .mismatch ∨ st = .disabled then
    ok [] (leaveUp (modRoad d r fun x => { x with retrainTimes := [] }) r .down)
  else ok [] d

/-- A road number of one byte. -/
def roadNumBad (a : Bytes) : Bool := a.length != 1 || decide (64 ≤ fld a 0 1)

/-- MB_ROAD_ENABLE (R207). -/
def execMbRoadEnable (src : OrderSource) (s : State) : Host.Outcome State Fault Refusal :=
  onCtl s fun d => order d src 0x0400 (.ok []) (fun _ a => roadNumBad a) mbRoadEnableBody

/-- MB_ROAD_DISABLE. -/
def mbRoadDisableBody : Body := fun d o => ok [] (leaveUp d (fld o.args 0 1) .disabled)

/-- MB_ROAD_DISABLE (R207). -/
def execMbRoadDisable (src : OrderSource) (s : State) : Host.Outcome State Fault Refusal :=
  onCtl s fun d => order d src 0x0401 (.ok []) (fun _ a => roadNumBad a) mbRoadDisableBody

/-! ### Blocks (R212 to R216, R236) -/

/-- The block's two CRC-32C values match and every codeword decodes. -/
def blockIntact (b : RoadBlock) : Bool :=
  b.decodes && decide (fld b.linkA 60 4 = (crc32c (b.linkA.take 60)).toNat) &&
    decide (fld b.linkB 60 4 = (crc32c (b.linkA ++ b.flits.flatten ++ b.linkB.take 60)).toNat)

/-- The identity of link word B is the trained one. -/
def identityHeld (x : Road) (b : RoadBlock) : Bool :=
  fld b.linkB 4 1 % 32 == x.farPkg && fld b.linkB 5 1 % 64 == x.farRoad && fld b.linkB 6 1 == x.farGen.toNat

/-- A block is NAKed and counted; one refused while a NAK already stands only where it shows the expected sequence (DESIGN CHOICE,
log 16). -/
def markNak (d : Ctl) (r : Nat) (b : RoadBlock) : Ctl :=
  let x := getRoad d r
  if x.nakTx && !(b.decodes && fld b.linkA 0 4 == (x.rxAck + 1).toNat) then d
  else countRoad (modRoad d r fun x => { x with
    nakTx := true, linkDue := true, nakSame := x.nakSame + 1, nakTimes := within d (ms 1) x.nakTimes ++ [now d] }) r 1 1

/-- The limits of R215: 8 NAKs of one block, 64 within 1 ms. -/
def nakLimit (x : Road) : Bool := decide (8 ≤ x.nakSame) || decide (64 ≤ x.nakTimes.length)

/-- A block is NAKed; at the limits of R215 a road that is UP retrains. -/
def nakBlock (d : Ctl) (r : Nat) (b : RoadBlock) : Ctl :=
  let d := markNak d r b
  if (getRoad d r).state = .up ∧ nakLimit (getRoad d r) then retrain d r else d

/-- The credits one link word returns. -/
def returnedCredits (w : Bytes) (cls : Nat) : Nat := fld w (16 + 2 * cls) 2

/-- The link words of an accepted block: credits, the ack, and a NAK's resend from ack + 1, of a road that is UP (R214, R220, R236). -/
def takeLinks (d : Ctl) (r : Nat) (b : RoadBlock) : Ctl :=
  let d := modRoad d r fun x => { x with
    credits := (List.range 4).foldl (fun t c =>
      Tbl.set t c (min (classFlits c) (creditsOf x c + returnedCredits b.linkA c + returnedCredits b.linkB c))) x.credits }
  let ack := BitVec.ofNat 32 (fld b.linkA 4 4)
  let d := modRoad d r fun x => { x with txAck := if (ack - x.txAck).msb then x.txAck else ack }
  let x := getRoad d r
  let d := if bitOf (fld b.linkA 8 1) 0 && x.state == .up && !x.fencedTx then
      x.replay.foldl (fun d e => if e.1 != ack && !(e.1 - ack).msb then emitBlock d r e.1 e.2 else d) d
    else d
  drain d r

/-- An accepted block: sequence, flits, link words, and FENCED (R214, R236, R237). -/
def acceptBlock (d : Ctl) (r : Nat) (b : RoadBlock) : Ctl :=
  let mask := fld b.linkB 0 4
  let flits := (b.flits.zipIdx.filter fun e => bitOf mask e.2).map Prod.fst
  let q := (getRoad d r).farPkg
  let d := modRoad d r fun x => { x with
    rxAck := BitVec.ofNat 32 (fld b.linkA 0 4), nakTx := false, nakSame := 0, linkDue := true
    rxFlits := if x.state = .up then x.rxFlits ++ flits else x.rxFlits }
  let d := modPeer d q fun p => { p with lastBlock := now d }
  let d := takeLinks d r b
  if bitOf (fld b.linkA 8 1) 1 ∧ !(getRoad d r).fencedRx then
    let d := modRoad (leaveUp d r .fenced) r fun x => { x with fencedRx := true }
    peerLost d q St.fencedSignal
  else d

/-- ROAD_BLOCK_RECEIVED (R214 to R216, R220, R230, R237). -/
def execRoadBlockReceived (r : Fin 64) (b : RoadBlock) (s : State) : Host.Outcome State Fault Refusal :=
  onCtl s fun d =>
    let x := getRoad d r.val
    if x.state ≠ .up ∧ x.state ≠ .fenced then d
    else
      let d := countRoad d r.val 0 b.correctedCodewords
      if blockIntact b && !identityHeld x b then
        (if x.state = .up then retrain (markNak d r.val b) r.val else markNak d r.val b)
      else if blockIntact b && fld b.linkA 0 4 == (x.rxAck + 1).toNat then acceptBlock d r.val b
      else nakBlock d r.val b

/-! ### Routes (R232, R235) -/

/-- The route to peer `q` from the road states and the peers' notices, with the package it passes. -/
def routeTo (d : Ctl) (q : Nat) : Route × Nat :=
  let p := pkgNum d
  let mesh (k : Nat) : Bool := roadUp d (meshRoad p k 0) || roadUp d (meshRoad p k 1)
  let near := neighbour p
  let far := neighbour q
  if mesh q then (.direct, 0)
  else if q = near ∧ (reserveRoad d).isSome then (.reserveDirect, 0)
  else if q ≠ near ∧ (reserveRoad d).isSome ∧ !(getPeer d near).lost ∧ (getPeer d near).reportsMesh.getLsbD q then
    (.relaySrc, near)
  else if far ≠ p ∧ mesh far ∧ (getPeer d far).reportsReserve then (.relayDst, far)
  else (.unreachable, 0)

/-- The classes that the domains of a source and a destination use; only SYNC goes to a Hearth, which requests nothing
(R209, R229). -/
def markClasses (src dst : Nat) : List Nat :=
  if endIsHearth dst then [2] else if endIsHearth src then [1, 2] else [0, 1, 2]

/-- The MARKs of the domains that leave the relay path (R235). -/
def sendMarks (d : Ctl) (q : Nat) (old : Route) : Ctl :=
  let road := match old with
    | .relaySrc => reserveRoad d
    | .relayDst => meshFor d (neighbour q) 0 0
    | _ => none
  match road with
  | none => modPeer d q fun p => { p with relayed := [] }
  | some r =>
    let pairs := (getPeer d q).relayed
    let d := pairs.foldl (fun d k => forEach (markClasses k.1 k.2.1) d fun d cls =>
      sendOn d r true cls 0x0F {
        cls := BitVec.ofNat 2 cls, epoch := 0, tenant := BitVec.ofNat 16 k.2.2, src := BitVec.ofNat 16 k.1
        dst := BitVec.ofNat 16 k.2.1 }) d
    modPeer d q fun p => { p with
      relayed := [], marks := pairs.flatMap fun k => (markClasses k.1 k.2.1).map fun c => (k.1, k.2.1, c) }

/-- What is unanswered at peer `q` is sent again (R219). -/
def resend (d : Ctl) (q : Nat) : Ctl :=
  (getPeer d q).unacked.foldl (fun d e => sendAs true d e.1 e.2) (modPeer d q fun p => { p with unacked := [] })

/-- The route of peer `q` is taken anew: leaving a relay for DIRECT sends MARKs; failed roads whose replay has no answer
ask again on the new path (R231); what a lost relay left unanswered is sent again; an UNREACHABLE peer alerts the fabric manager. -/
def reroute (d : Ctl) (q : Nat) : Ctl :=
  let old := (getPeer d q).route
  let r := routeTo d q
  if r.1 = old ∧ r.2 = (getPeer d q).via then d
  else
    let lostRelay := (old == .relaySrc || old == .relayDst) && (getPeer d (getPeer d q).via).lost
    let d := modPeer d q fun p => { p with route := r.1, via := r.2, lastLive := now d }
    let d := if r.1 = .direct ∧ (old = .relaySrc ∨ old = .relayDst) then sendMarks d q old else d
    let failed := [meshRoad (pkgNum d) q 0, meshRoad (pkgNum d) q 1].filter fun k => (getRoad d k).replayPending
    if r.1 = .unreachable then
      emit (modPeer d q fun p => { p with asked := false }) (.alertManager (.road (meshRoad (pkgNum d) q 0)))
    else
      let d := forEach failed d askReplay
      flushUnsent (greet (if lostRelay then resend d q else d) q)

/-- ROUTE_RECOMPUTE (R232). -/
def execRouteRecompute (s : State) : Host.Outcome State Fault Refusal :=
  onCtl s fun d =>
    let peers := (List.range 32).filter fun q => q != pkgNum d && (routeTo d q) != ((getPeer d q).route, (getPeer d q).via)
    if peers.isEmpty then d else internalStep d .package fun d _ => forEach peers d reroute

/-! ### Timers (R224, R227, R237, R384) -/

/-- PEER_SILENCE_TIMEOUT (R237): 20 µs without an accepted block of a peer whose roads have trained, on a route that needs no relay;
an UNREACHABLE one needs none (07_roads_rack.md, Edges). -/
def execPeerSilenceTimeout (q : Fin 32) (s : State) : Host.Outcome State Fault Refusal :=
  onCtl s fun d =>
    let p := getPeer d q.val
    let near := p.route != .relaySrc && p.route != .relayDst
    if near && p.known && !p.lost && decide (p.lastBlock + us 20 ≤ now d) then peerLost d q.val St.roadTimeout else d

/-- LIVE_TIMER (R237): LIVE to the peers on relay routes; those silent for 20 µs are lost. -/
def execLiveTimer (s : State) : Host.Outcome State Fault Refusal :=
  onCtl s fun d =>
    let peers := (livePeers d).filter fun q => let r := (getPeer d q).route; r == .relaySrc || r == .relayDst
    let d := forEach peers d fun d q => sendCtrl d 0x3C q 0 0 0
    forEach (peers.filter fun q => decide ((getPeer d q).lastLive + us 20 ≤ now d)) d fun d q => peerLost d q St.roadTimeout

/-- REQUEST_TIMEOUT (R224): a request unanswered for 20 µs ends its command; a COMMIT does not (R168). -/
def execRequestTimeout (h : Fin 32) (ttag : W16) (s : State) : Host.Outcome State Fault Refusal :=
  onCtl s fun d =>
    match d.requests.find? fun q => q.hamlet == h.val && q.ttag == ttag.toNat && !q.deferred && decide (q.time + us 20 ≤ now d) with
    | some q => settled (discard d q.cmd St.roadTimeout)
    | none => d

/-- A tenant's largest nonce counter. -/
def topNonce (d : Ctl) (t : Tenant) : Nat :=
  d.nonces.foldl (fun a e => if e.1 % 65536 = t.ident.toNat then max a e.2 else a) 0

/-- EPOCH_ROTATION (R227): a nonce counter has reached 2^47. -/
def execEpochRotation (t : Fin 32) (s : State) : Host.Outcome State Fault Refusal :=
  onCtl s fun d =>
    match Tbl.find? d.tenants t.val with
    | none => d
    | some x => match x.roadCur with
      | none => d
      | some k =>
        if x.joined ∧ x.barrier = none ∧ 2 ^ 47 ≤ topNonce d x then
          internalStep d (.tenant x.ident.toNat) fun d _ => startBarrier d t.val 0 (k.gen + 1) 0x31
        else d

/-- TTAG_QUARANTINE_EXPIRY (R384): a retired tag may be used again after 40 µs. -/
def execTtagQuarantineExpiry (h : Fin 32) (ttag : W16) (s : State) : Host.Outcome State Fault Refusal :=
  onCtl s fun d =>
    match Tbl.find? (getHam d h.val).retiredTtags ttag.toNat with
    | some t =>
      if t + us 40 ≤ now d then modHam d h.val fun x => { x with retiredTtags := Tbl.erase x.retiredTtags ttag.toNat } else d
    | none => d

end Sys2Proof.Machine
end

