-- ==== Sys2Proof/Machine/Roads.lean ====
section
/-! DEFINITION. Road messages: the receive checks, relaying, and what each message does (R161 to R182, R222 to R237,
R315, R384, R397, R398, R413). -/

namespace Sys2Proof.Machine
open Sys2Proof

/-! ### Receive checks and relaying (R229, R231, R234) -/

/-- The road a relayed message leaves on (R234). -/
def relayRoad (d : Ctl) (r : Nat) (m : RoadMsg) : Option Nat :=
  let q := endPkg m.dst.toNat
  if !m.relayed || q = pkgNum d then none
  else if isReserve r then meshFor d q m.src.toNat m.dst.toNat
  else if q = neighbour (pkgNum d) then reserveRoad d
  else none

/-- The tally a SYNC message toward the Hearth names. -/
def syncTally (m : RoadMsg) : Nat := m.addr.toNat % 2 ^ 32

/-- The SYNC messages a Hearth endpoint may take: a tally operation or wait names a tally of its own package's Hearth in a block of
the tenant; a set's COMMIT or DISCARD and a MARK name none and are taken from a tenant that holds a block (log 14). -/
def hearthTakes (d : Ctl) (op t : Nat) (m : RoadMsg) : Bool :=
  let n := syncTally m
  if op = 0x25 ∨ op = 0x26 then
    tallyIsHearth n && tallyPkg n == pkgNum d && Tbl.find? d.tallyBlocks (tallyIndex n / 16) == some t
  else (op == 0x23 || op == 0x24 || op == 0x0F) && !(tenantBlocks d t).isEmpty

/-- Check 2: the tenant owns the destination, or a Hearth endpoint may take the message. -/
def destOk (d : Ctl) (op : Nat) (m : RoadMsg) : Bool :=
  let dst := m.dst.toNat
  if endIsHearth dst then
    (m.cls == 3 && m.tenant == 0) ||
      (m.cls == 2 && (match tenantById d m.tenant.toNat with
        | some e => hearthTakes d op e.1 m
        | none => false))
  else m.tenant != 0 && Tbl.getD d.owners (bits dst 9 0) 0 == m.tenant

/-- Check 3: the epoch is the tenant's CURRENT or PREVIOUS, the tenant has joined here, or joined anew after a reset (R316), and it is not
marked removed on the source's package (R351); the management domain has none. -/
def epochOk (d : Ctl) (m : RoadMsg) : Bool :=
  m.tenant == 0 || (!d.removed.contains (m.tenant, endPkg m.src.toNat) && match tenantById d m.tenant.toNat with
    | some e => e.2.joined && (e.2.roadCur.toList ++ e.2.roadPrev.toList).any fun k => epochOf k.gen == m.epoch.toNat
    | none => false)

/-- Check 4: the plaintext of a message whose tag verifies. -/
def openMsg (d : Ctl) (op : Nat) (m : RoadMsg) : Option Bytes :=
  (messageKey d m).bind fun k => gcmOpen k (roadNonce m) (headAad op m) m.data m.tag

/-- Check 5: the message's job generation is declared dead. -/
def isDead (d : Ctl) (m : RoadMsg) : Bool :=
  m.job != 0 && d.jobs.any fun j => j.2.ident == m.job.toNat && j.2.dead.contains m.jgen.toNat

/-- Check 6: an answer carries the requester's hamlet generation of another time. -/
def isStale (d : Ctl) (m : RoadMsg) : Bool :=
  m.cls == 1 && !endIsHearth m.dst.toNat && m.hgen != (getHam d (endHamlet m.dst.toNat)).gen

/-- The road whose hop sequence a message that came on road `r` continues: that road; for a REPLAYED message the failed one, which
its origin road names where it leads here, or the other road of the pair; none on a relay that a replay of a direct road only
passes (DEDUCED, log 48). -/
def seqRoad (p r : Nat) (m : RoadMsg) : Option Nat :=
  let q := roadPeer (endPkg m.src.toNat) (m.oroad.toNat % 64)
  if !m.replayed then some r
  else if q = p then some (farRoadOf (m.oroad.toNat % 64))
  else if q = endPkg m.dst.toNat then none
  else some (partnerRoad r)

/-- Check 7: a REPLAYED message already delivered from the failed road. -/
def isDuplicate (d : Ctl) (r : Nat) (m : RoadMsg) : Bool :=
  m.replayed && (match (seqRoad (pkgNum d) r m).bind fun k => (getRoad d k).hseqLast with
    | some h => m.hseq == h || (m.hseq - h).msb
    | none => false)

/-- The first failed check of R229, or the plaintext. -/
def receiveCheck (d : Ctl) (r op : Nat) (m : RoadMsg) : Except Nat Bytes :=
  if endPkg m.dst.toNat ≠ pkgNum d then .error 1
  else if !destOk d op m then .error 2
  else if !epochOk d m then .error 3
  else match openMsg d op m with
    | none => .error 4
    | some p =>
      if isDead d m then .error 5
      else if isStale d m then .error 6
      else if isDuplicate d r m then .error 7
      else .ok p

/-- The message's flits leave the receive buffer, and their credits are due to the far end (R220). -/
def consume (d : Ctl) (r op : Nat) (m : RoadMsg) : Ctl :=
  let n := (msgFlits op m).length
  modRoad d r fun x => { x with
    rxFlits := x.rxFlits.drop n, creditDue := Tbl.modify x.creditDue m.cls.toNat 0 (· + n), linkDue := true }

/-- The message stands at the front of what accepted blocks of road `r` brought (R214). -/
def arrived (d : Ctl) (r op : Nat) (m : RoadMsg) : Bool :=
  let fs := msgFlits op m
  (getRoad d r).rxFlits.take fs.length == fs

/-- Road `r` takes the message: it is UP, and an accepted block brought it. -/
def roadTakes (d : Ctl) (r op : Nat) (m : RoadMsg) : Bool := roadUp d r && arrived d r op m

/-- The road's peer or the message's source package is declared lost: the message carries an old package generation (R237). -/
def fromLost (d : Ctl) (r : Nat) (m : RoadMsg) : Bool :=
  (getPeer d (roadPeer (pkgNum d) r)).lost || (getPeer d (endPkg m.src.toNat)).lost

/-- The opcode of the message that an answer ends (R219). -/
def answers (op sent : Nat) : Bool :=
  match op with
  | 0x13 => sent == 0x23
  | 0x16 => sent == 0x25
  | 0x17 => sent != 0x23 && sent != 0x25
  | 0x18 => sent == 0x25
  | _ => false

/-- An answer ends the wait of the message it answers, which leaves room for another (R219, R224). -/
def acked (d : Ctl) (op : Nat) (m : RoadMsg) : Ctl :=
  let ends (e : Nat × RoadMsg) : Bool := e.2.src == m.dst && e.2.dst == m.src && e.2.ttag == m.ttag && answers op e.1
  if (getPeer d (endPkg m.src.toNat)).unacked.any ends then
    flushUnsent (modPeer d (endPkg m.src.toNat) fun p => { p with unacked := p.unacked.filter fun e => !ends e })
  else d

/-- A message under a newer generation than CURRENT shows that its package sends with it: this one does too (R227 step 2; log 18). -/
def adoptKey (d : Ctl) (m : RoadMsg) : Ctl :=
  match tenantById d m.tenant.toNat with
  | none => d
  | some (i, x) => match x.roadCur, x.roadPrev with
    | some k, some p => if m.tenant ≠ 0 ∧ k.gen < p.gen ∧ epochOf p.gen = m.epoch.toNat then switchKey d i x p else d
    | _, _ => d

/-- The message leaves the buffer, and its hop sequence is the last one delivered (R230, R231). -/
def sequenced (d : Ctl) (r op : Nat) (m : RoadMsg) : Ctl :=
  match seqRoad (pkgNum d) r m with
  | some k => modRoad (consume d r op m) k fun x =>
    if m.replayed then { x with hseqLast := some m.hseq } else { x with hseqRx := some m.hseq }
  | none => consume d r op m

/-- A message passed every check. -/
def received (d : Ctl) (r op : Nat) (m : RoadMsg) : Ctl := acked (adoptKey (sequenced d r op m) m) op m

/-- A relayed message goes on: with a new hop sequence, or as it is where it replays the direct road of its domain; a
duplicate of this hop is dropped (R229, R231, R234). -/
def forward (d : Ctl) (r op : Nat) (m : RoadMsg) : Ctl :=
  match relayRoad d r m with
  | none => countRoad (consume d r op m) r 3 1
  | some k =>
    if isDuplicate d r m then countRoad (consume d r op m) r 9 1
    else if (seqRoad (pkgNum d) r m).isNone then queueMsg (sequenced d r op m) k op m
    else queueMsg (sequenced d r op m) k op { m with replayed := false }

/-- A failed check is counted; checks 3 and 4 raise an event with the tenant masked (R229). -/
def dropMsg (d : Ctl) (r k : Nat) (m : RoadMsg) : Ctl :=
  let d := countRoad d r (k + 2) 1
  if k = 3 ∨ k = 4 then
    roadEvent d r 1 (((tenantById d m.tenant.toNat).map fun e => e.2.handle.toNat).getD 0)
  else d

/-- A message that accepted blocks of an UP road brought is forwarded, dropped, or handled by `f` with its plaintext data; of a lost
package it is dropped (R214, R229, R237). -/
def receive (d : Dev) (r op : Nat) (m : RoadMsg) (f : Dev → Bytes → Dev) : Dev :=
  if !roadTakes d.toCtl r op m then d
  else if fromLost d.toCtl r m then withCtl d fun d => consume d r op m
  else if (relayRoad d.toCtl r m).isSome then withCtl d fun d => forward d r op m
  else match receiveCheck d.toCtl r op m with
    | .error 1 => withCtl d fun d => countRoad (consume d r op m) r 3 1
    | .error k => withCtl d fun d => dropMsg (consume d r op m) r k m
    | .ok p => f (withCtl d fun d => received d r op m) (sub p 0 m.len.toNat)

/-- The control part of `receive`, for a message that touches no memory. -/
def receiveCtl (d : Ctl) (r op : Nat) (m : RoadMsg) (f : Ctl → Bytes → Ctl) : Ctl :=
  if !roadTakes d r op m then d
  else if fromLost d r m then consume d r op m
  else if (relayRoad d r m).isSome then forward d r op m
  else match receiveCheck d r op m with
    | .error 1 => countRoad (consume d r op m) r 3 1
    | .error k => dropMsg (consume d r op m) r k m
    | .ok p => f (received d r op m) (sub p 0 m.len.toNat)

/-! ### Answers -/

/-- An answer to a message, from its destination to its source. -/
def reply (d : Ctl) (m : RoadMsg) (op : Nat) (operand : W64) (len : W32) (data : Bytes) : Ctl :=
  sendMsg d op {
    cls := 1, epoch := 0, tenant := m.tenant, src := m.dst, dst := m.src, hgen := m.hgen, jgen := m.jgen, job := m.job
    ttag := m.ttag, addr := m.addr, len := len, operand := operand, data := data }

def nackWith (d : Ctl) (m : RoadMsg) (k : Nat) : Ctl := reply d m 0x18 (BitVec.ofNat 64 k) 0 []

/-- The destination hamlet is fenced by a reset (R397). -/
def resetting (d : Ctl) (h : Nat) : Bool := (getHam d h).reset.isSome || d.pkg.warm.isSome

/-- A remote access addresses the destination hamlet within limits, windows and mapped pages (R222, R223). -/
def accessOk (d : Ctl) (m : RoadMsg) (write : Bool) : Bool :=
  let h := endHamlet m.dst.toNat
  let x := getHam d h
  let off := addrOffset m.addr.toNat
  let n := m.len.toNat
  addrValid m.addr.toNat && m.addr.toNat / 2 ^ 43 == bits m.dst.toNat 9 0 && decide (1 ≤ n) && decide (n ≤ 1024) &&
    decide (off % 4096 + n ≤ 4096) && inWindow x off n write && mapped x off n && !(pagesOf off n).any (isLoading d h)

/-! ### Requests from other packages -/

/-- RD (R161, R222, R223, R397): committed bytes, or NACK. -/
def execRd (r : Fin 64) (m : RoadMsg) (s : State) : Host.Outcome State Fault Refusal :=
  onCtl s fun d => receiveCtl d r.val 0x01 m fun d _ =>
    let h := endHamlet m.dst.toNat
    if resetting d h then nackWith d m 3
    else if !accessOk d m false then nackWith d m 2
    else
      let off := addrOffset m.addr.toNat
      if isPoisoned s.poison h off m.len.toNat then nackWith (poisonRead s.poison d h off m.len.toNat) m 2
      else loadDraw (reply d m 0x11 0 m.len (loadBytes s.mem d h off m.len.toNat [])) off

/-- The set of (source, ttag) in hamlet `h`. -/
def findSet (d : Ctl) (h src ttag : Nat) : Option StagedSet :=
  (getHam d h).sets.find? fun s => s.src == src && s.ttag == ttag

/-- Bytes a set uses: its data, and 64 for each tally operation (R180). -/
def setUsed (s : StagedSet) : Nat := s.writes.foldl (fun a w => a + w.2.length) (64 * s.tallyOps.length)

/-- The set of (source, ttag) in hamlet `h` changed. -/
def modSet (d : Ctl) (h src ttag : Nat) (f : StagedSet → StagedSet) : Ctl :=
  modHam d h fun x => { x with sets := x.sets.map fun s => if s.src = src ∧ s.ttag = ttag then f s else s }

/-- WR_STAGE (R164, R222, R223, R397): staged within the source's reservation, named by operand [15:0]. -/
def execWrStage (r : Fin 64) (m : RoadMsg) (s : State) : Host.Outcome State Fault Refusal :=
  onCtl s fun d => receiveCtl d r.val 0x02 m fun d p =>
    let h := endHamlet m.dst.toNat
    let t := m.operand.toNat % 65536
    if resetting d h then nackWith d m 3
    else if !accessOk d m true then nackWith d m 2
    else match findSet d h m.src.toNat t with
      | none => nackWith d m 1
      | some y =>
        if y.granted < setUsed y + p.length then nackWith d m 1
        else reply (modSet d h m.src.toNat t fun y => { y with
            writes := y.writes ++ [(memKey h (addrOffset m.addr.toNat), p)] }) m 0x12 0 0 []

/-- MARK (R235): every earlier message of its domain has arrived; MARK_SEEN goes to the source's Reeve. Its operand is
the model's own (log 14): source, destination, class. -/
def execMark (r : Fin 64) (m : RoadMsg) (s : State) : Host.Outcome State Fault Refusal :=
  onCtl s fun d => receiveCtl d r.val 0x0F m fun d _ =>
    sendCtrl d 0x37 (endPkg m.src.toNat) 0
      (BitVec.ofNat 64 (m.src.toNat + 2 ^ 16 * m.dst.toNat + 2 ^ 32 * m.cls.toNat)) 0

/-- RESERVE (R164, R397): GRANT, DEFERRED, or NACK for a request larger than the partition. -/
def execReserve (r : Fin 64) (m : RoadMsg) (s : State) : Host.Outcome State Fault Refusal :=
  onCtl s fun d => receiveCtl d r.val 0x21 m fun d _ =>
    let h := endHamlet m.dst.toNat
    let x := getHam d h
    let n := m.len.toNat
    if remoteBytes x < n then nackWith d m 4
    else if canGrant x n && !resetting d h then
      reply (holdSpace d h m.src.toNat m.ttag.toNat x.tenant n) m 0x14 0 0 []
    else
      let d := modHam d h fun x => { x with
        deferred := x.deferred ++ [{ src := m.src.toNat, ttag := m.ttag.toNat, tenant := x.tenant, bytes := n }] }
      reply d m 0x15 0 0 []

/-- UNRESERVE (R219): the reservation ends; a second copy finds none. -/
def execUnreserve (r : Fin 64) (m : RoadMsg) (s : State) : Host.Outcome State Fault Refusal :=
  onCtl s fun d => receiveCtl d r.val 0x22 m fun d _ =>
    settled (reply (dropSet d (endHamlet m.dst.toNat) m.src.toNat m.ttag.toNat) m 0x17 0 0 [])

/-- The Hearth's set of (source, ttag) is applied (R166, R180). -/
def applyHearthSet (d : Ctl) (src ttag : Nat) : Ctl :=
  let mine (s : StagedSet) : Bool := s.src == src && s.ttag == ttag
  let d' := { d with hearthSets := d.hearthSets.filter fun s => !mine s }
  (d.hearthSets.filter mine).foldl (fun d x => x.tallyOps.foldl (fun d o =>
    applyTally d o.1.toNat o.2.1 {
      pkg := endPkg x.src, slice := o.2.2.1 % 256, gen := BitVec.ofNat 8 (o.2.2.1 / 256), context := o.2.2.1 / 65536
      cmd := o.2.2.2 / 65536, inst := o.2.2.2 % 65536 }) d) d'

/-- COMMIT (R167, R170, R180): the set is applied as a unit and APPLIED answered; a second copy is only answered. -/
def execCommit (r : Fin 64) (m : RoadMsg) (s : State) : Host.Outcome State Fault Refusal :=
  onDev s fun d => receive d r.val 0x23 m fun d _ =>
    let h := endHamlet m.dst.toNat
    let d :=
      if endIsHearth m.dst.toNat then withCtl d fun d => applyHearthSet d m.src.toNat m.ttag.toNat
      else match findSet d.toCtl h m.src.toNat m.ttag.toNat with
        | some y => applySet d h y
        | none => d
    withCtl d fun d => settled (reply d m 0x13 0 0 [])

/-- The answer that a DISCARD of (source, ttag) had while its tag is not used again (R219, R384). -/
def discardAnswer (d : Ctl) (m : RoadMsg) : Option Nat :=
  ((getPeer d (endPkg m.src.toNat)).discards.find? fun e =>
    e.1 == m.src.toNat && e.2.1 == m.ttag.toNat && decide (now d < e.2.2.2 + us 40)).map fun e => e.2.2.1

/-- A DISCARD is answered, and the answer kept for a second copy. -/
def answerDiscard (d : Ctl) (m : RoadMsg) (v : Nat) : Ctl :=
  reply (modPeer d (endPkg m.src.toNat) fun p => { p with
    discards := (p.discards.filter fun e => decide (now d < e.2.2.2 + us 40)) ++ [(m.src.toNat, m.ttag.toNat, v, now d)] })
    m 0x17 (BitVec.ofNat 64 v) 0 []

/-- A receiver's DISCARD reaches the source (R398): the command without a token is discarded; the answer tells, and a second copy is
answered as the first was (R219). -/
def discardedByReceiver (d : Ctl) (m : RoadMsg) : Ctl :=
  let h := endHamlet m.dst.toNat
  let holds (c : Cmd) : Bool := homeHamlet d c == h && c.grants.any fun g => g.dest == m.src.toNat && g.ttag == m.ttag.toNat
  match discardAnswer d m, List.find? (fun (e : Nat × Cmd) => holds e.2) d.cmds with
  | some v, _ => reply d m 0x17 (BitVec.ofNat 64 v) 0 []
  | none, none => answerDiscard d m 0
  | none, some e => if e.2.token then answerDiscard d m 1 else answerDiscard (discard d e.1 St.hamletReset) m 0

/-- DISCARD (R169, R398): the source drops its set here, or a receiver its set for a command here (operand bit 0, the
model's own, log 14). -/
def execDiscardMessage (r : Fin 64) (m : RoadMsg) (s : State) : Host.Outcome State Fault Refusal :=
  onCtl s fun d => receiveCtl d r.val 0x24 m fun d _ =>
    settled (
      if m.operand.getLsbD 0 then discardedByReceiver d m
      else if endIsHearth m.dst.toNat then
        reply { d with
          hearthSets := d.hearthSets.filter fun s => !(s.src == m.src.toNat && s.ttag == m.ttag.toNat) } m 0x17 0 0 []
      else reply (dropSet d (endHamlet m.dst.toNat) m.src.toNat m.ttag.toNat) m 0x17 0 0 [])

/-- The owner a remote operation names (log 14). -/
def msgOwner (m : RoadMsg) : Owner :=
  let a := m.addr.toNat
  let o := m.operand.toNat
  { pkg := endPkg m.src.toNat, slice := bits a 39 32, gen := BitVec.ofNat 8 (bits a 47 40)
    context := bits a 63 48 + 65536 * bits o 40 40, cmd := bits o 60 41, inst := m.len.toNat / 65536 }

/-- A tally result as an operand. -/
def resultOperand (x : TallyResult) : W64 := BitVec.ofNat 64 (resultValue x + 2 ^ 32 * resultCode x)

/-- A staged operation joins the source's set: the one its len names, or in the Hearth one of its own (R180). -/
def stageRemote (d : Ctl) (m : RoadMsg) (n t : Nat) (e : TallyEffect) : Option Ctl :=
  let h := endHamlet m.dst.toNat
  let src := m.src.toNat
  let ttag := m.len.toNat % 65536
  let o := packOwner (msgOwner m)
  let op := (BitVec.ofNat 32 n, e, o.1, o.2)
  if endIsHearth m.dst.toNat then
    let mine (s : StagedSet) : Bool := s.src == src && s.ttag == ttag
    let base : StagedSet := { src := src, ttag := ttag, dest := m.dst.toNat, tenant := t, granted := 2 ^ 32 }
    let sets := if d.hearthSets.any mine then d.hearthSets else d.hearthSets ++ [base]
    some { d with
      hearthSets := sets.map fun s => if mine s then { s with tallyOps := s.tallyOps ++ [op] } else s }
  else match findSet d h src ttag with
    | some y =>
      if y.granted < setUsed y + 64 || !takesTallyOps (getHam d h) then none
      else some (modSet d h src ttag fun y => { y with tallyOps := y.tallyOps ++ [op] })
    | none => none

/-- The waiter of a message of another package. -/
def remoteWaiter (m : RoadMsg) (k : WaitKind) : Waiter := { kind := k, cmd := none, remote := some (m.src.toNat, m.ttag.toNat) }

/-- A tally operation at this package for another: staged, or at once with its result. -/
def tallyForPeer (d : Ctl) (m : RoadMsg) (t : Nat) : Ctl :=
  let n := syncTally m
  let v := BitVec.ofNat 32 (m.operand.toNat)
  match operandOp m.operand with
  | none => nackWith d m 1
  | some op =>
    if !tallyNamed n ∨ tallyEndpoint n ≠ m.dst.toNat then nackWith d m 2
    else if !tallyOpen d t n then reply d m 0x16 (resultOperand .denied) 0 []
    else
      let a := tallyAt d n op v (msgOwner m) (remoteWaiter m)
      match a.1 with
      | some x =>
        if op = .release ∧ x = .owner then
          (match stageRemote a.2 m n t .release with
           | some d => reply d m 0x16 (resultOperand x) 0 []
           | none => nackWith d m 2)
        else reply a.2 m 0x16 (resultOperand x) 0 []
      | none => match effectOf op v with
        | some e => (match stageRemote a.2 m n t e with
          | some d => reply d m 0x12 0 0 []
          | none => nackWith d m 2)
        | none => a.2

/-- TALLY_OP (R175, R177, R180, R397). -/
def execTallyOp (r : Fin 64) (m : RoadMsg) (s : State) : Host.Outcome State Fault Refusal :=
  onCtl s fun d => receiveCtl d r.val 0x25 m fun d _ =>
    let hearth := endIsHearth m.dst.toNat
    if !hearth && resetting d (endHamlet m.dst.toNat) then nackWith d m 3
    else tallyForPeer d m (((tenantById d m.tenant.toNat).map Prod.fst).getD 32)

/-- A wait that is over when it is registered is notified at once. -/
def notify (d : Ctl) (m : RoadMsg) (x : TallyResult) : Ctl :=
  sendMsg d 0x27 {
    cls := 2, epoch := 0, tenant := m.tenant, src := m.dst, dst := m.src, ttag := m.ttag, addr := m.addr
    operand := resultOperand x }

/-- WAIT_REGISTER (R176, R180, R397): SYNC_ACK, and a waiter at the tally. -/
def execWaitRegister (r : Fin 64) (m : RoadMsg) (s : State) : Host.Outcome State Fault Refusal :=
  onCtl s fun d => receiveCtl d r.val 0x26 m fun d _ =>
    let n := syncTally m
    let v := BitVec.ofNat 32 (m.operand.toNat)
    let t := ((tenantById d m.tenant.toNat).map Prod.fst).getD 32
    let d := reply d m 0x17 0 0 []
    match operandOp m.operand with
    | none => d
    | some op =>
      if !tallyNamed n ∨ tallyEndpoint n ≠ m.dst.toNat ∨ !tallyOpen d t n then notify d m .denied
      else
        let a := tallyAt d n op v (msgOwner m) (remoteWaiter m)
        match a.1 with
        | some x => notify a.2 m x
        | none => a.2

/-! ### Answers from other packages -/

/-- The request of hamlet `h` an answer is for; an answer for a retired tag is counted (R384). -/
def answered (d : Ctl) (m : RoadMsg) (f : Ctl → Request → Ctl) : Ctl :=
  let h := endHamlet m.dst.toNat
  match d.requests.find? fun q => q.hamlet == h && q.ttag == m.ttag.toNat with
  | some q => f d q
  | none =>
    if (Tbl.find? (getHam d h).retiredTtags m.ttag.toNat).isSome then
      modHam d h fun x => { x with staleRsp := addCount x.staleRsp 1 }
    else d

/-- A request is no longer outstanding, and its room is another message's (R224). -/
def dropRequest (d : Ctl) (q : Request) : Ctl := flushUnsent { d with requests := d.requests.filter (· != q) }

/-- The tile that waited for a remote answer goes on. -/
def endWait (d : Ctl) (q : Request) : Ctl :=
  match q.tile with
  | some t => modCmd d q.cmd fun c => { c with waits := c.waits.erase (.remote t q.ttag) }
  | none => d

/-- The grants of a command toward an endpoint changed. -/
def modGrantsTo (d : Ctl) (id dest : Nat) (f : Grant → Grant) : Ctl :=
  modCmd d id fun c => { c with grants := c.grants.map fun g => if g.dest = dest then f g else g }

/-- RD_DATA (R222). -/
def execRdData (r : Fin 64) (m : RoadMsg) (s : State) : Host.Outcome State Fault Refusal :=
  onCtl s fun d => receiveCtl d r.val 0x11 m fun d p => answered d m fun d q =>
    if q.opcode = 0x01 then seeTile (emit (endWait (dropRequest d q) q) (.readData q.cmd p)) q.cmd (q.tile.getD ⟨0, 0⟩) [p] else d

/-- STAGED_ACK (R165): one write or tally operation of the command is staged. -/
def execStagedAck (r : Fin 64) (m : RoadMsg) (s : State) : Host.Outcome State Fault Refusal :=
  onCtl s fun d => receiveCtl d r.val 0x12 m fun d _ => answered d m fun d q =>
    if q.opcode = 0x02 ∨ q.opcode = 0x25 then
      modGrantsTo (endWait (dropRequest d q) q) q.cmd m.src.toNat fun g => { g with acks := g.acks - 1 }
    else d

/-- APPLIED (R168): the receiver has applied the set; the last one makes the command DONE. -/
def execApplied (r : Fin 64) (m : RoadMsg) (s : State) : Host.Outcome State Fault Refusal :=
  onCtl s fun d => receiveCtl d r.val 0x13 m fun d _ => answered d m fun d q =>
    if q.opcode = 0x23 then
      finishCommit (modGrantsTo (dropRequest d q) q.cmd m.src.toNat fun g => { g with applied := false }) q.cmd
    else d

/-- GRANT (R164): the reservation is held; the command asks for its next. -/
def execGrant (r : Fin 64) (m : RoadMsg) (s : State) : Host.Outcome State Fault Refusal :=
  onCtl s fun d => receiveCtl d r.val 0x14 m fun d _ => answered d m fun d q =>
    if q.opcode = 0x21 then
      shareUp d (settled (modGrantsTo (dropRequest d q) q.cmd m.src.toNat fun g => { g with held := true }))
    else d

/-- DEFERRED (R164, R224): the request is answered; its GRANT comes later. -/
def execDeferred (r : Fin 64) (m : RoadMsg) (s : State) : Host.Outcome State Fault Refusal :=
  onCtl s fun d => receiveCtl d r.val 0x15 m fun d _ => answered d m fun d q =>
    if q.opcode = 0x21 then
      { d with requests := d.requests.map fun k => if k = q then { k with deferred := true } else k }
    else d

/-- The operation a request carried (log 14). -/
def requestTally (q : Request) : Nat := q.addr.toNat % 2 ^ 32

/-- The space of a staged operation that staged nothing returns to its grant (R180). -/
def returnSpace (d : Ctl) (q : Request) (dest : Nat) (op : TallyOp) (x : TallyResult) : Ctl :=
  let staged := op == .add || op == .set || op == .release
  let none_ := x == .notOwner || x == .badMode || x == .denied
  if staged then modGrantsTo d q.cmd dest fun g => { g with
    used := if none_ then g.used - 64 else g.used, acks := if op == .release then g.acks else g.acks - 1 }
  else d

/-- TALLY_RESULT (R175, R180): the operation that was asked is known from the request. -/
def execTallyResult (r : Fin 64) (m : RoadMsg) (s : State) : Host.Outcome State Fault Refusal :=
  onCtl s fun d => receiveCtl d r.val 0x16 m fun d _ => answered d m fun d q =>
    match q.opcode, operandOp q.operand with
    | 0x25, some op =>
      let x := resultOf (bits m.operand.toNat 39 32) (m.operand.toNat % 2 ^ 32)
      let d := returnSpace (endWait (dropRequest d q) q) q m.src.toNat op x
      tellTile d q.cmd (requestTally q) (q.tile.getD ⟨0, 0⟩) (if op = .release then .read else op) x
    | _, _ => d

/-- SYNC_ACK of a source to a receiver's DISCARD (R398): bit 0 tells that the token had issued. -/
def syncAnswer (d : Dev) (h : Nat) (m : RoadMsg) (y : StagedSet) : Dev :=
  let d := if m.operand.getLsbD 0 then applySet d h y else withCtl d fun d => dropSet d h y.src y.ttag
  withCtl d fun d => modHam d h fun x => { x with reset := x.reset.map fun r => { r with answers := r.answers - 1 } }

/-- SYNC_ACK (R219, R398). -/
def execSyncAck (r : Fin 64) (m : RoadMsg) (s : State) : Host.Outcome State Fault Refusal :=
  onDev s fun d => receive d r.val 0x17 m fun d _ =>
    let h := endHamlet m.dst.toNat
    match (getHam d.toCtl h).sets.find? fun y => y.src == m.src.toNat && y.ttag == m.ttag.toNat && y.discardSent with
    | some y => syncAnswer d h m y
    | none => withCtl d fun d => answered d m fun d q =>
      if q.opcode = 0x26 then
        { d with requests := d.requests.map fun k => if k = q then { k with deferred := true } else k }
      else d

/-- The status a NACK ends its command with (R164, R219, R223, R397). -/
def nackStatus (k : Nat) : Status := if k = 3 then St.hamletReset else if k = 4 then St.program else St.memory

/-- NACK (R169, R219). -/
def execNack (r : Fin 64) (m : RoadMsg) (s : State) : Host.Outcome State Fault Refusal :=
  onCtl s fun d => receiveCtl d r.val 0x18 m fun d _ => answered d m fun d q =>
    settled (discard (dropRequest d q) q.cmd (nackStatus (m.operand.toNat % 256)))

/-- WAIT_NOTIFY (R176, R180): the waiting tile is released; a second copy finds no wait. -/
def execWaitNotify (r : Fin 64) (m : RoadMsg) (s : State) : Host.Outcome State Fault Refusal :=
  onCtl s fun d => receiveCtl d r.val 0x27 m fun d _ =>
    let d := reply d m 0x17 0 0 []
    let h := endHamlet m.dst.toNat
    match d.requests.find? fun q => q.hamlet == h && q.ttag == m.ttag.toNat && q.opcode == 0x26 with
    | none => d
    | some q =>
      let x := resultOf (bits m.operand.toNat 39 32) (m.operand.toNat % 2 ^ 32)
      tellTile (endWait (dropRequest d q) q) q.cmd (requestTally q) (q.tile.getD ⟨0, 0⟩)
        (if x = .granted ∨ x = .priorLost then .claimWait else .waitGe) x

/-! ### CTRL messages -/

/-- The tenant an epoch message names. -/
def epochTenant (d : Ctl) (m : RoadMsg) : Option (Nat × Tenant) := tenantById d (bits m.operand.toNat 47 32)

/-- EPOCH_ACK with the CURRENT generation and the salt digest, 0 for a tenant that is not here (R315); its len returns the barrier's
mark (log 14). -/
def sendEpochAck (d : Ctl) (m : RoadMsg) : Ctl :=
  let q := endPkg m.src.toNat
  match epochTenant d m with
  | some e =>
    let g := (e.2.roadCur.map RoadKey.gen).getD 0
    let a := if e.2.roadSalt.isEmpty then 0 else saltDigest e.2
    sendCtrl d 0x33 q a (epochOperand e.2 g) m.len
  | none => sendCtrl d 0x33 q 0 (BitVec.ofNat 64 (2 ^ 32 * bits m.operand.toNat 47 32)) m.len

/-- EPOCH_INSTALL (R227, R315): the key of generation G is installed for reception; G = 0 only asks. The new key stands
beside CURRENT until the old one is retired (DEDUCED, log 18). -/
def execEpochInstall (r : Fin 64) (m : RoadMsg) (s : State) : Host.Outcome State Fault Refusal :=
  onCtl s fun d => receiveCtl d r.val 0x31 m fun d _ =>
    let g := m.operand.toNat % 2 ^ 32
    let d := match epochTenant d m with
      | some e =>
        let held := (e.2.roadCur.toList ++ e.2.roadPrev.toList).any fun k => k.gen == g
        let d := { d with removed := d.removed.filter (· != (e.2.ident, endPkg m.src.toNat)) }
        if g = 0 ∨ held ∨ e.2.state ≠ .claimed then d
        else modTenant d e.1 fun x => { x with roadPrev := some ⟨g, roadKeyOf x g⟩ }
      | none => d
    sendEpochAck d m

/-- Generation `g` of a tenant is no longer accepted or sent with: a newer key that stands beside it is CURRENT first, so that what
waits here is sealed under it before the peer is answered (R227, R228). -/
def retireKey (d : Ctl) (i g : Nat) (x : Tenant) : Ctl :=
  let d := match x.roadCur, x.roadPrev with
    | some k, some p => if k.gen < p.gen then switchKey d i x p else d
    | _, _ => d
  let d := modTenant d i fun x => { x with
    roadCur := x.roadCur.filter fun k => k.gen != g, roadPrev := x.roadPrev.filter fun k => k.gen != g }
  resealAll d i

/-- A tenant is removed from package `q` (R351): its epochs toward `q` are marked retired, and what it has there or
from there ends. -/
def removalMark (d : Ctl) (i q : Nat) (x : Tenant) : Ctl :=
  let mine (c : Cmd) : Bool := (getSlice d c.slice).tenant == i
  let ids := (d.requests.filter fun k => k.peer == q).map Request.cmd
  let d := { d with
    removed := if d.removed.contains (x.ident, q) then d.removed else d.removed ++ [(x.ident, q)]
    hamlets := Tbl.mapVal d.hamlets fun _ (y : Hamlet) => if y.tenant = i then dropLostSets y q else y
    hearthSets := d.hearthSets.filter fun s => !(endPkg s.src == q && s.tenant == i && !s.commit) }
  let d := discardWhere d (fun id c => mine c && ids.contains id) St.fencedSignal
  let blocks := tenantBlocks d i
  let theirs (n : Nat) : Bool :=
    if tallyIsHearth n then blocks.contains (tallyIndex n / 16) else (getHam d (tallyHamlet n)).tenant == i
  settled { d with
    tallies := d.tallies.map fun (e : Nat × Tally) => match e.2.owner with
      | some o => if e.2.claim = .claimed ∧ o.pkg = q ∧ theirs e.1 then (e.1, passClaim (wakes d e.1) e.2 true) else e
      | none => e }

/-- EPOCH_RETIRE (R228, R351): operand bit 48 marks a removal. -/
def execEpochRetire (r : Fin 64) (m : RoadMsg) (s : State) : Host.Outcome State Fault Refusal :=
  onCtl s fun d => receiveCtl d r.val 0x32 m fun d _ =>
    let d := match epochTenant d m with
      | some e =>
        if m.operand.getLsbD 48 then removalMark d e.1 (endPkg m.src.toNat) e.2
        else retireKey d e.1 (m.operand.toNat % 2 ^ 32) e.2
      | none => d
    sendEpochAck d m

/-- EPOCH_ACK (R227, R228, R315): the peer has acknowledged; a differing salt digest marks SALT_MISMATCH in a join. -/
def execEpochAck (r : Fin 64) (m : RoadMsg) (s : State) : Host.Outcome State Fault Refusal :=
  onCtl s fun d => receiveCtl d r.val 0x33 m fun d _ =>
    match epochTenant d m with
    | none => d
    | some (i, x) => match x.barrier with
      | none => d
      | some b =>
        let q := endPkg m.src.toNat
        if !b.awaited.contains q || m.len != barrierMark b then d
        else
          let g := m.operand.toNat % 2 ^ 32
          let bad := (b.kind == 2 || b.kind == 4) && m.addr != 0 && m.addr != saltDigest x
          let e := modTenant d i fun x => { x with
            saltMismatch := x.saltMismatch || bad, barrier := some { b with largest := max b.largest g } }
          barrierStep d x (ackBarrier e i q)

/-- ORPHAN_NOTICE (R179): claims of a context or slice of the sending package become ORPHANED. -/
def execOrphanNotice (r : Fin 64) (m : RoadMsg) (s : State) : Host.Outcome State Fault Refusal :=
  onCtl s fun d => receiveCtl d r.val 0x34 m fun d _ =>
    let v := m.operand.toNat
    orphanWhere d fun o => o.pkg == endPkg m.src.toNat && o.slice == v % 256 && o.gen.toNat == bits v 15 8 &&
      (bitOf v 33 || o.context == bits v 32 16)

/-- A job generation is declared dead on this package (R387, R413): the order of its effects. -/
def jobDies (d : Ctl) (job jgen : Nat) : Ctl :=
  match List.find? (fun (e : Nat × Job) => e.2.ident == job) d.jobs with
  | none => d
  | some (n, j) =>
    if j.dead.contains jgen then d
    else
      let d := { d with jobs := Tbl.set d.jobs n { j with dead := j.dead ++ [jgen] } }
      let d := discardWhere d (fun _ c => c.job == job && c.jgen == jgen) St.jobDead
      if j.abort then j.slices.foldl (fun d i => forEach (sliceContexts d i) d fun d k => tearDown d i k) d else d

/-- JOB_DEAD (R413): job in operand [15:0], generation in [23:16]. -/
def execJobDead (r : Fin 64) (m : RoadMsg) (s : State) : Host.Outcome State Fault Refusal :=
  onCtl s fun d => receiveCtl d r.val 0x35 m fun d _ =>
    let job := m.operand.toNat % 65536
    settled (mirrorStep d (.job job) 0 (jobDies d job (bits m.operand.toNat 23 16)))

/-- ROUTE_NOTICE (R232): the peer's mesh roads and reserve road. -/
def execRouteNotice (r : Fin 64) (m : RoadMsg) (s : State) : Host.Outcome State Fault Refusal :=
  onCtl s fun d => receiveCtl d r.val 0x36 m fun d _ =>
    modPeer d (endPkg m.src.toNat) fun p => { p with
      reportsMesh := BitVec.ofNat 32 m.operand.toNat, reportsReserve := m.operand.getLsbD 32 }

/-- The held messages of the domains without awaited MARKs leave on the direct road, in order. -/
def releaseHeld (d : Ctl) (q : Nat) : Ctl :=
  let p := getPeer d q
  let waits (m : RoadMsg) : Bool := p.marks.any fun k => k.1 == m.src.toNat && k.2.1 == m.dst.toNat
  let d := modPeer d q fun p => { p with held := p.held.filter fun e => waits e.2 }
  (p.held.filter fun e => !waits e.2).foldl (fun d e =>
    match roadFor d e.2.src.toNat e.2.dst.toNat with
    | some (r, _) => queueMsg d r e.1 e.2
    | none => d) d

/-- MARK_SEEN (R235). -/
def execMarkSeen (r : Fin 64) (m : RoadMsg) (s : State) : Host.Outcome State Fault Refusal :=
  onCtl s fun d => receiveCtl d r.val 0x37 m fun d _ =>
    let q := endPkg m.src.toNat
    let v := m.operand.toNat
    releaseHeld (modPeer d q fun p => { p with marks := p.marks.erase (bits v 15 0, bits v 31 16, bits v 33 32) }) q

/-- The last hop sequence delivered from a road that its far end says has failed: of its present life where it delivered any. -/
def lastDelivered (x : Road) : Option W32 := if x.state = .up then x.hseqRx.or x.hseqLast else x.hseqLast

/-- REPLAY_QUERY (R230): the hop sequence of the last message delivered from the failed road; REPLAYED messages continue it (R231). -/
def execReplayQuery (r : Fin 64) (m : RoadMsg) (s : State) : Host.Outcome State Fault Refusal :=
  onCtl s fun d => receiveCtl d r.val 0x38 m fun d _ =>
    let f := m.operand.toNat % 64
    let h := lastDelivered (getRoad d (farRoadOf f))
    let d := modRoad d (farRoadOf f) fun x => { x with hseqLast := h }
    sendCtrl d 0x39 (endPkg m.src.toNat) 0
      (BitVec.ofNat 64 ((h.map BitVec.toNat).getD 0 + 2 ^ 32 * b2n h.isSome + 2 ^ 40 * f)) 0

/-- The failed road's undelivered messages are resent REPLAYED on the present path, in order and as credits allow, then those that
waited behind them (R220, R230, R231); time probes have no replay (R239). -/
def replayRoad (d : Ctl) (f : Nat) (last : Option W32) : Ctl :=
  let x := getRoad d f
  let later (h : W32) : Bool := match last with | some l => h != l && !(h - l).msb | none => true
  let d := modRoad d f fun x => { x with replayPending := false, failed := [], behind := [] }
  let put (replayed : Bool) (d : Ctl) (e : Nat × RoadMsg) : Ctl :=
    match roadFor d e.2.src.toNat e.2.dst.toNat with
    | some (r, rel) => queueMsg d r e.1 { e.2 with replayed := replayed, relayed := rel }
    | none => d
  let d := (x.failed.filter fun e => e.1 != 0x3A && e.1 != 0x3B && later e.2.hseq).foldl (put true) d
  x.behind.foldl (put false) d

/-- REPLAY_REPLY (R230, R231). -/
def execReplayReply (r : Fin 64) (m : RoadMsg) (s : State) : Host.Outcome State Fault Refusal :=
  onCtl s fun d => receiveCtl d r.val 0x39 m fun d _ =>
    let v := m.operand.toNat
    let f := bits v 45 40
    if (getRoad d f).replayPending && roadPeer (pkgNum d) f == endPkg m.src.toNat then
      replayRoad d f (if bitOf v 32 then some (BitVec.ofNat 32 v) else none)
    else d

/-- LIVE (R237). -/
def execLive (r : Fin 64) (m : RoadMsg) (s : State) : Host.Outcome State Fault Refusal :=
  onCtl s fun d => receiveCtl d r.val 0x3C m fun d _ => modPeer d (endPkg m.src.toNat) fun p => { p with lastLive := now d }

end Sys2Proof.Machine
end

