-- ==== Sys2Proof/Machine/Reset.lean ====
section
/-! DEFINITION. What every reset shares: FENCED roads, the reset history, package fabric faults, the state a full reset
starts from, lost models, and the contexts a hamlet holds (R46, R236, R366, R399, R404, R408). -/

namespace Sys2Proof.Machine
open Sys2Proof

/-! ### The package (R236, R366, R404, R408) -/

/-- FENCED goes into every link word of every road that is UP; it carries no further flits (R207, R236). -/
def fenceRoads (d : Ctl) : Ctl :=
  forEach ((List.range 64).filter (roadUp d)) d fun d r =>
    sendBlock (modRoad d r fun x => { x with state := .fenced, fencedTx := true }) r none

/-- A road at the end of FENCED: DOWN, with nothing sent or received before (R207, R236). -/
def dropRoad (x : Road) : Road :=
  if x.state = .disabled then x
  else { x with
    state := .down, trainStart := none, replay := [], waiting := [], rxFlits := [], replayPending := false, failed := []
    behind := [], hseqLast := none, fencedTx := false, fencedRx := false, credits := [], creditDue := [], linkDue := false }

/-- What a peer is known by before its roads train again. -/
def forgetPeer (p : Peer) : Peer :=
  { p with
    route := .unreachable, via := 0, reportsMesh := 0, reportsReserve := false, relayed := [], marks := [], held := [], unacked := []
    unsent := [], asked := false }

/-- The package's roads drop, at least 20 µs after they were FENCED: peers are to be learned anew, and every tenant queries its epochs
before its messages pass again; a barrier in progress ends but a removal's (R207, R213, R228, R236, R316). -/
def dropRoads (d : Ctl) : Ctl :=
  { d with
    roads := Tbl.mapVal d.roads fun _ x => dropRoad x
    peers := Tbl.mapVal d.peers fun _ p => forgetPeer p
    tenants := Tbl.mapVal d.tenants fun _ (t : Tenant) => { t with joined := false, barrier := t.barrier.filter fun b => b.kind == 3 } }

/-- A record of the reset history (R408, R520, R521): kind 0 warm, 1 full, 2 power cycle. -/
def pushHistory (d : Ctl) (kind cause : Nat) (counted : Bool) : Ctl :=
  modPkg d fun k =>
    let r : HistoryRecord := {
      seq := k.nextHistory, time := if d.time.state = .unset then 0 else devNow d, kind := kind, cause := cause
      counted := counted, nonce := d.reeve.bootNonce }
    { k with
      history := (if 8192 ≤ k.history.length then k.history.drop 128 else k.history) ++ [r], nextHistory := k.nextHistory + 1 }

/-- The package is powered and out of reset. -/
def awake (d : Ctl) : Bool :=
  match d.pkg.life with
  | .off | .aux | .inReset => false
  | _ => true

/-- A package fabric fault (R46, R366): record, FENCED, FAULT_N, and a full reset to come; one found while that reset is to
come is recorded and starts none (R378, R381). -/
def failPackage (d : Ctl) (detector unit sub : Nat) : Ctl :=
  if !awake d then d
  else if d.pkg.life = .failed then faultRecord d detector 9 2 unit sub 0 0xFFFF 0
  else
    let d := faultRecord d detector 9 2 unit sub 0 0xFFFF 0
    let d := pushHistory (fenceRoads d) 1 detector true
    modPkg d fun k => { k with life := .failed, fullStart := now d, warm := none }

/-- What is left of the package in state `life` after a full reset, PKG_RESET_N or loss of power (R404, R473): straps,
pins, flash, fuses, the latches of VDD_AUX, and which hamlets left service until they are returned (R203, R371, R409).
Package generation and boot nonce are new (R213, R429); the nonce counters of the rack management key, which stays the same, go on
(R319). -/
def clearedCtl (d : Ctl) (life : PkgLife) : Ctl :=
  let k := d.pkg
  let pkg : Package := {
    life := life, vddAux := k.vddAux, pwrOk := k.pwrOk, resetN := k.resetN, refclk := k.refclk, tray := k.tray
    slot := k.slot, latch := k.latch, latchCode := k.latchCode, thermtrip := k.thermtrip, gen := k.gen + 1
    history := k.history, nextHistory := k.nextHistory, countFrom := k.countFrom, copyA := k.copyA, copyB := k.copyB
    firmwareA := k.firmwareA, firmwareB := k.firmwareB, fusedSvn := k.fusedSvn, jtag := k.jtag, boundary := k.boundary }
  { ({} : Ctl) with
    fresh := d.fresh + 1, out := d.out, pkg := pkg
    nonces := d.nonces.filter fun (e : Nat × Nat) => e.1 % 65536 == 0
    portA := { perst := d.portA.perst }, portB := { perst := d.portB.perst }
    reeve := { bootNonce := Config.freeWord d.fresh }
    hamlets := (d.hamlets.filter fun (e : Nat × Hamlet) => e.2.outOfService).map fun (e : Nat × Hamlet) =>
      (e.1, { outOfService := true, run := .outOfService }) }

/-- The package enters reset in state `life`; memory contents are lost (R203, R404). -/
def clearedDev (d : Dev) (life : PkgLife) : Dev :=
  { d with
    toCtl := clearedCtl d.toCtl life, mem := [], poison := [] }

/-- A full reset that software or a latched condition starts (R404): history, FENCED, then self-test. -/
def fullReset (d : Dev) (cause : Nat) (counted : Bool) : Dev :=
  clearedDev (withCtl d fun d => pushHistory (fenceRoads d) 1 cause counted) .selftest

/-- READY is asserted (R473, R528). -/
def isReady (d : Ctl) : Bool := d.pkg.life == .operating && d.pkg.warm.isNone && !d.pkg.outOfService

/-! ### Models and contexts of a hamlet (R88, R197, R202, R344, R399) -/

/-- The pages of context `k` of slice `i` in a record's hamlet, within the model's context region. -/
def pagesIn (i k h : Nat) (m : Model) (r : Placement) : List Nat :=
  let g := regionOf m r 2
  ((Config.contextPages i k h r.hamlet).filter (· < g.2)).map (· + g.1)

/-- The pages of hamlet `h` that hold the state of the context of key `k` (R110, R186). -/
def contextPagesIn (d : Ctl) (k h : Nat) : List Nat :=
  match (Tbl.find? d.contexts k).bind fun x => (Tbl.find? d.models x.model.toNat).map fun m => (x.model.toNat, m) with
  | some (n, m) => (m.records.filter fun r => r.hamlet == h).flatMap (pagesIn (k / 65536) (k % 65536) n m)
  | none => []

/-- The contexts with a context page in hamlet `h` that satisfies `p`. -/
def contextsOn (d : Ctl) (h : Nat) (p : Nat → Bool) : List Nat :=
  (d.contexts.filter fun (e : Nat × Context) => (contextPagesIn d e.1 h).any p).map Prod.fst

/-- The contexts of a list of keys are torn down. -/
def tearKeys (d : Ctl) (ks : List Nat) : Ctl := forEach ks d fun d k => tearDown d (k / 65536) (k % 65536)

/-- The slices of tenant index `t` that exist. -/
def tenantSlices (d : Ctl) (t : Nat) : List Nat := slicesWhere d fun s => s.tenant == t

/-- A model is unloaded by the device: MODEL_LOST on lane 0 of every slice of its tenant, its commands discarded with
`st`, its contexts torn down (R88, R116, R197). -/
def loseModel (d : Ctl) (h : Nat) (st : Status) : Ctl :=
  match Tbl.find? d.models h with
  | none => d
  | some m =>
    let d := discardWhere d (fun _ c => (if c.ranModel = 0 then c.model else c.ranModel).toNat == h && c.lane != 0 &&
      (c.phase == .admitted || c.phase == .running)) st
    let d := tearKeys d ((d.contexts.filter fun (e : Nat × Context) => e.2.model.toNat == h).map Prod.fst)
    let d := dropModel d h
    forEach (tenantSlices d m.tenant) d fun d i => sliceEvent d i 6 0 h

/-- The models whose records satisfy `p` are lost. -/
def loseModels (d : Ctl) (p : Model → Bool) (st : Status) : Ctl :=
  forEach ((d.models.filter fun (e : Nat × Model) => p e.2).map Prod.fst) d fun d h => loseModel d h st

/-- A model has a record in hamlet `h`. -/
def modelIn (m : Model) (h : Nat) : Bool := m.records.any fun r => r.hamlet == h

/-- The loads in progress that name hamlet `h` are given up (R328). -/
def dropLoads (d : Ctl) (h : Nat) (st : Status) : Ctl :=
  (d.loads.filter fun (e : Nat × Load) => modelIn e.2.model h).foldl (fun d e =>
    adminFail (dropLoad d e.2.cmd) e.2.cmd st) d

/-- Every context with state in hamlet `h` is torn down (R399, R401). -/
def tearHamlet (d : Ctl) (h : Nat) : Ctl :=
  tearKeys d ((d.contexts.filter fun (e : Nat × Context) => contextIn d e.1 h).map Prod.fst)

/-- The admitted commands with a part in hamlet `h`, or waiting to enter it. -/
def inHamlet (d : Ctl) (h : Nat) (c : Cmd) : Bool :=
  (c.parts.any fun p => p.1 == h) ||
    (c.phase == .admitted && (match cmdModel d c, cmdEntry d c with
      | some m, some e => (entryHamlets m e).contains h
      | _, _ => false))

/-- Logical crofts in which a bound or parked command of hamlet `h` holds or held cores (R411). -/
def heldCrofts (d : Ctl) (h : Nat) : List Nat :=
  let cores := (inStates d h [.bound, .parked]).flatMap fun e =>
    if e.2.2.state = .bound then e.2.2.cores else e.2.2.lastCores
  (List.range 12).filter fun k => cores.any fun c => croftOfCore c == k

/-- Scratchpad of hamlet `h` set to 0, then the resident ranges of its models from their shadow pages (R187, R204). -/
def restoreShadows (d : Dev) (h : Nat) : Dev :=
  let key := memKey h aliasBase
  let d := { d with
    mem := Mem.zero d.mem key (48 * 2 ^ 20), poison := d.poison.filter fun b => !(decide (key ≤ b) && decide (b < key + 48 * 2 ^ 20)) }
  d.models.foldl (fun d e => (e.2.records.filter fun r => r.hamlet == h).foldl (fun d r =>
    let bytes := readHbm d.mem d.toCtl h (4096 * (regionOf e.2 r 1).1) (4096 * r.shadowPages)
    (packed r.residents bytes).foldl (fun d w => storeBytes d h (aliasBase + w.1) w.2) d) d) d

end Sys2Proof.Machine
end

