-- ==== Sys2Proof/Machine/Lifecycle.lean ====
section
/-! DEFINITION. Tenants, hamlet assignment, slices: creation, configuration, reset, destruction, removal (02, 08, 10, 11). -/

namespace Sys2Proof.Machine
open Sys2Proof

/-! ### Tenants (R330, R337, R342, R350, R514) -/

/-- The numbers 0 to 31 of a mask argument at byte `off`. -/
def maskAt (a : Bytes) (off : Nat) : List Nat := bitList 32 (fld a off 4)

/-- A handle no tenant has, not 0: a draw, or the lowest free value (R514). -/
def newTenantHandle (d : Ctl) : Nat :=
  let bad (h : Nat) : Bool := h == 0 || d.tenants.any fun e => e.2.handle.toNat == h
  let h := leNat (drawBytes d 2)
  if bad h then ((List.range 34).find? fun k => !bad (k + 1)).getD 0 + 1 else h

/-- The lowest way of a cache that no tenant holds. -/
def freeWay (d : Ctl) (f : Tenant → W32) : Option Nat :=
  (List.range 32).find? fun w => !(d.tenants.any fun e => (f e.2).getLsbD w)

/-- The tenants' local indices in use are not all taken: the lowest free one. -/
def freeIndex (d : Ctl) : Option Nat := (List.range 32).find? fun t => (Tbl.find? d.tenants t).isNone

def wayBit (w : Nat) : W32 := BitVec.ofNat 32 (2 ^ w)

/-- MB_TENANT_CREATE arguments out of form. -/
def tenantMaskBad (a : Bytes) : Bool := badArgs a 8 [2, 3] || fld a 0 2 == 0 || fld a 4 4 == 0

/-- A hamlet is assigned to a tenant, and the owner map says so (R342). -/
def giveHamlet (d : Ctl) (ident : W16) (t h : Nat) : Ctl :=
  let d := modHam d h fun y => { y with assign := .assigned, tenant := t }
  { d with owners := Tbl.set d.owners (rackHamlet d h) ident }

/-- A tenant is created at local index `t` with its ways and hamlets (R342, R514). -/
def createTenant (d : Ctl) (id t : Nat) (desc atc lane : W32) (hs : List Nat) : Ctl :=
  let x : Tenant := {
    ident := BitVec.ofNat 16 id, handle := BitVec.ofNat 16 (newTenantHandle d), wayDesc := desc, wayAtc := atc, wayLane := lane }
  forEach hs (drawn { d with tenants := Tbl.set d.tenants t x }) fun d h => giveHamlet d (BitVec.ofNat 16 id) t h

/-- MB_TENANT_CREATE. -/
def mbTenantCreateBody : Body := fun d o =>
  let id := fld o.args 0 2
  let hs := maskAt o.args 4
  if d.pkg.debugUnlocked then refuse 0x20 d
  else if (tenantById d id).isSome || hs.any fun h => (getHam d h).assign != .unassigned then refuse 0x22 d
  else match freeIndex d, freeWay d Tenant.wayDesc, freeWay d Tenant.wayAtc, freeWay d Tenant.wayLane with
    | some t, some a, some b, some c =>
      ok (leBytes 2 (newTenantHandle d) ++ leBytes 1 t) (createTenant d id t (wayBit a) (wayBit b) (wayBit c) hs)
    | _, _, _, _ => refuse 0x23 d

/-- MB_TENANT_CREATE (R330, R337, R342). -/
def execMbTenantCreate (src : OrderSource) (s : State) : Host.Outcome State Fault Refusal :=
  onCtl s fun d => order d src 0x0100 (.ok []) (fun _ a => tenantMaskBad a) mbTenantCreateBody

/-- A hamlet is set to reset values for its tenant before its zero-fill (R329, R343). -/
def startFill (d : Ctl) (h : Nat) : Ctl :=
  let d := modHam d h fun x => { x with
    hbmKey := ((Tbl.find? d.tenants x.tenant).map Tenant.hbmKey).getD []
    assign := .filling, almanac := {}, pendingAlmanac := none, entryInForce := 0, entryStart := devNow d, windows := []
    sets := [], deferred := [], remoteUsed := 0, preempting := none, retiredTtags := [], nextTtag := 0, coreFlags := [], coreStore := []
    spadOpen := [] }
  { d with
    tallies := d.tallies.filter fun (e : Nat × Tally) =>
      !(!tallyIsHearth e.1 && tallyPkg e.1 == pkgNum d && tallyHamlet e.1 == h) }

/-- MB_HAMLET_ASSIGN. -/
def mbHamletAssignBody : Body := fun d o =>
  let hs := maskAt o.args 4
  match tenantById d (fld o.args 0 2) with
  | none => refuse 0x21 d
  | some (t, x) =>
    if x.state = .removing then refuse 0x20 d
    else if hs.any fun h => (getHam d h).assign != .unassigned then refuse 0x22 d
    else
      ok [] (forEach hs d fun d h =>
        if x.state = .claimed then startFill (giveHamlet d x.ident t h) h else giveHamlet d x.ident t h)

/-- MB_HAMLET_ASSIGN (R343). -/
def execMbHamletAssign (src : OrderSource) (s : State) : Host.Outcome State Fault Refusal :=
  onCtl s fun d => order d src 0x0103 (.ok []) (fun _ a => tenantMaskBad a) mbHamletAssignBody

/-- Every block of hamlet `h` holds zeros under the key of its memory controllers, its scratchpad reads 0, and none is poisoned
(R195, R196). -/
def zeroHamlet (d : Dev) (h : Nat) : Dev :=
  let d := withCtl d fun d => modHam d h fun x => { x with sealedUnder := x.hbmKey }
  let key := memKey h 0
  let mine (a : Nat) : Bool := decide (key ≤ a) && decide (a < key + 2 ^ 43)
  { d with mem := Mem.zeroWhere d.mem mine, poison := d.poison.filter fun b => !mine b }

/-- Remote window 0 of a hamlet at grant: the whole offset space, READ_WRITE (R223, R508). -/
def grantWindow : Window := { base := 0, limit := 2 ^ 43 - 1, perm := 2 }

/-- A hamlet whose zero-fill is over is GRANTED to its tenant, with its remote windows as at grant and an almanac of 0 entries
(R223, R248, R343). -/
def grantHamlet (d : Ctl) (h : Nat) : Ctl :=
  modHam d h fun y => { y with
    assign := .granted, windows := [(0, grantWindow)], almanac := {}, pendingAlmanac := none, entryInForce := 0
    entryStart := devNow d }

/-- ZERO_FILL_DONE (R196, R223, R343): the hamlet's HBM and scratchpad read 0 and it is GRANTED. A fill that a reset of the hamlet or
of the package cut restarts after it, so no pass ends during one. -/
def execZeroFillDone (h : Fin 32) (s : State) : Host.Outcome State Fault Refusal :=
  onDev s fun d =>
    let x := getHam d.toCtl h.val
    if x.assign ≠ .filling ∨ d.pkg.warm.isSome ∨ x.reset.isSome then d
    else withCtl (zeroHamlet d h.val) fun d => mirrorStep d (.hamlet h.val) 0 (grantHamlet d h.val)

/-- The reset state of a hamlet whose tenant leaves it (R344). -/
def releaseReset (d : Ctl) (j : Nat) : HamletReset :=
  { jseq := j, start := now d, fault := false, reason := 0x80, release := true }

/-- A hamlet becomes RELEASING and is fenced; a reset in progress there is absorbed. -/
def startRelease (d : Ctl) (j h : Nat) : Ctl :=
  modHam d h fun x => { closeChannels x with
    assign := .releasing, run := .draining, reset := some (releaseReset d j), retirement := none
    badCrofts := x.badCrofts ++ ((x.retirement.map Retirement.crofts).getD []).filter fun c => !x.badCrofts.contains c
    croftResets := [] }

/-- MB_HAMLET_RELEASE. -/
def mbHamletReleaseBody : Body := fun d o =>
  let hs := maskAt o.args 4
  match tenantById d (fld o.args 0 2) with
  | none => refuse 0x21 d
  | some (t, _) =>
    let mine (h : Nat) : Bool := (getHam d h).tenant == t && (getHam d h).assign != .unassigned
    if !hs.all mine then refuse 0x21 d
    else if (keptHamlets d t).all hs.contains || hs.any fun h => (getHam d h).reservedMode then refuse 0x22 d
    else (.pending [], forEach hs d fun d h => startRelease d o.jseq h)

/-- MB_HAMLET_RELEASE (R344). -/
def execMbHamletRelease (src : OrderSource) (s : State) : Host.Outcome State Fault Refusal :=
  onCtl s fun d => order d src 0x0104 (.ok []) (fun _ a => tenantMaskBad a) mbHamletReleaseBody

/-- DISCARD for the sets without COMMIT that other packages staged in a hamlet (R398). -/
def discardSets (d : Ctl) (h : Nat) : Ctl :=
  let away := (getHam d h).sets.filter fun y => !y.commit && endPkg y.src != pkgNum d
  away.foldl (fun d y => sendMsg d 0x24 {
    cls := 2, epoch := 0, tenant := ((Tbl.find? d.tenants y.tenant).map Tenant.ident).getD 0
    src := BitVec.ofNat 16 (rackHamlet d h), dst := BitVec.ofNat 16 y.src, ttag := BitVec.ofNat 16 y.ttag, operand := 1 }) d

/-- The commands of this package with a set staged in hamlet `h`. -/
def stagersOf (d : Ctl) (h : Nat) (c : Cmd) : Bool :=
  c.grants.any fun g => g.asked && g.dest == rackHamlet d h

/-- The squash and the end of a hamlet release (R344, R395). -/
def finishRelease (d : Ctl) (h j : Nat) : Ctl :=
  let x := getHam d h
  let d := discardWhere d (fun _ c => inHamlet d h c || stagersOf d h c) St.fenced
  let d := discardSets d h
  let d := dropLoads d h St.fenced
  let d := loseModels d (fun m => modelIn m h) St.fenced
  let d := mirrorStep d (.hamlet h) j (unassign d h)
  let d := { d with
    gleanings := trimGleanings (partitionSize d x.tenant) x.tenant d.gleanings.length d.gleanings }
  let left := (List.range 32).any fun k => (match (getHam d k).reset with | some r => r.release && r.jseq == j | none => false)
  settled (if left then d else completeOrder d j 0 [])

/-- MB_TENANT_REMOVE arguments out of form. -/
def identBad (a : Bytes) : Bool := a.length != 2 || fld a 0 2 == 0

/-- The reservations of a tenant end. -/
def endTenantResv (d : Ctl) (t : Nat) : Ctl :=
  forEach ((d.reservations.filter fun (e : Nat × Reservation) => e.2.tenant == t).map Prod.fst) d endResv

/-- The commands of a slice without a token are discarded as its tenant goes (R350 step 2). -/
def squashForRemoval (d : Ctl) (i : Nat) : Ctl := squashSlice d i St.fenced

/-- A tenant's removal begins: steps 1 and 2 of R350 but their 100 µs. -/
def startRemoval (d : Ctl) (t j : Nat) : Ctl :=
  let d := modTenant d t fun x => { x with
    state := .removing, permitStrict := false, permitMigration := false, removeJseq := j, removeStep := 1
    removeStart := now d }
  let d := forEach (tenantSlices d t) d fun d i =>
    modSlice (fenceSlice d i (some { kind := .removal, jseq := j, start := now d })) i fun s => { s with arm := none }
  let d := forEach (tenantHamlets d t) d fun d h => startRelease d 0 h
  forEach (tenantSlices d t) (endTenantResv d t) squashForRemoval

/-- MB_TENANT_REMOVE. -/
def mbTenantRemoveBody : Body := fun d o =>
  match tenantById d (fld o.args 0 2) with
  | none => refuse 0x21 d
  | some (t, x) =>
    if x.state = .removing then refuse 0x20 d else (.pending [], startRemoval d t o.jseq)

/-- MB_TENANT_REMOVE (R350). -/
def execMbTenantRemove (src : OrderSource) (s : State) : Host.Outcome State Fault Refusal :=
  onCtl s fun d => order d src 0x0101 (.ok []) (fun _ a => identBad a) mbTenantRemoveBody

/-- The tenant's sheaves are disposed of: lanes are torn down and the removal barrier begins (R350 steps 2 and 3). -/
def removalBarrier (d : Ctl) (t : Nat) : Ctl :=
  match Tbl.find? d.tenants t with
  | none => d
  | some x =>
    let busy := d.sheaves.any fun e => e.2.tenant == t
    if x.state ≠ .removing ∨ x.removeStep ≠ 2 ∨ busy then d
    else
      let is := tenantSlices d t
      let d := forEach is d orphanSlice
      let d := { d with
        cmds := d.cmds.filter fun (e : Nat × Cmd) => !is.contains e.2.slice }
      let d := forEach is d fun d i => modSlice d i fun s => { s with lanes := [] }
      mirrorStep d (.tenant x.ident.toNat) x.removeJseq (startBarrier (modTenant d t fun x => { x with removeStep := 3 }) t 3 0 0x32)

/-- The 100 µs of step 2 are over: every remaining sheaf of the tenant is squashed (R350). -/
def squashTenant (d : Ctl) (t : Nat) : Ctl :=
  let d := squashWhere d fun x => x.tenant == t
  removalBarrier (modTenant d t fun x => { x with removeStep := 2 }) t

/-- MB_TENANT_PERMIT arguments out of form. -/
def permitBad (a : Bytes) : Bool :=
  let g := fld a 2 1
  let w := fld a 3 1
  a.length != 4 || fld a 0 2 == 0 || decide (4 ≤ g) || decide (4 ≤ w) || g &&& w != 0

/-- Permissions of a tenant granted by mask `g` and withdrawn by mask `w`: bit 0 STRICT, bit 1 MIGRATION (R332, R352). -/
def setPermits (d : Ctl) (t g w : Nat) : Ctl :=
  modTenant d t fun x => { x with
    permitStrict := (x.permitStrict || bitOf g 0) && !bitOf w 0
    permitMigration := (x.permitMigration || bitOf g 1) && !bitOf w 1 }

/-- The arms of a tenant's slices that are not FROZEN are erased (R352). -/
def dropArms (d : Ctl) (t : Nat) : Ctl :=
  forEach (tenantSlices d t) d fun d i => modSlice d i fun s => { s with arm := if s.state = .frozen then s.arm else none }

/-- MB_TENANT_PERMIT. -/
def mbTenantPermitBody : Body := fun d o =>
  let g := fld o.args 2 1
  let w := fld o.args 3 1
  match tenantById d (fld o.args 0 2) with
  | none => refuse 0x21 d
  | some (t, x) =>
    let d' := setPermits d t g w
    if bitOf g 0 && !x.permitStrict then
      (match overBooked d true with
       | some r => (.done 0x24 (leBytes 4 r), d)
       | none => ok [] d')
    else if bitOf w 1 then ok [] (dropArms d' t)
    else ok [] d'

/-- MB_TENANT_PERMIT (R283, R332, R352). -/
def execMbTenantPermit (src : OrderSource) (s : State) : Host.Outcome State Fault Refusal :=
  onCtl s fun d => order d src 0x0102 (.ok []) (fun _ a => permitBad a) mbTenantPermitBody

/-! ### Hamlet settings, owner map, ways, tally blocks -/

/-- The settings of a hamlet that the flags of MB_HAMLET_CONFIG name: granary split, backfill, step wait (R163). -/
def configHamlet (a : Bytes) (x : Hamlet) : Hamlet :=
  let fl := fld a 1 1
  { x with
    split := if bitOf fl 0 then fld a 2 1 else x.split, backfill := if bitOf fl 1 then bitOf (fld a 3 1) 0 else x.backfill
    stepWait := if bitOf fl 2 then fld a 4 2 else x.stepWait }

/-- MB_HAMLET_CONFIG. -/
def mbHamletConfigBody : Body := fun d o =>
  let h := fld o.args 0 1
  let fl := fld o.args 1 1
  let n := fld o.args 2 1
  let x := getHam d h
  if bitOf fl 0 && (decide (n * 524288 < localUsed d h) || decide ((16 - n) * 524288 < x.remoteUsed)) then refuse 0x20 d
  else ok [] (settled (modHam d h (configHamlet o.args)))

/-- MB_HAMLET_CONFIG arguments out of form. -/
def hamletConfigBad (a : Bytes) : Bool :=
  let fl := fld a 1 1
  a.length != 6 || decide (32 ≤ fld a 0 1) || decide (8 ≤ fl) ||
    (bitOf fl 0 && (decide (fld a 2 1 < 1) || decide (15 < fld a 2 1))) || decide (2 ≤ fld a 3 1) ||
    (bitOf fl 2 && decide (1000 < fld a 4 2))

/-- MB_HAMLET_CONFIG (R163, R519). -/
def execMbHamletConfig (src : OrderSource) (s : State) : Host.Outcome State Fault Refusal :=
  onCtl s fun d => order d src 0x0106 (.ok []) (fun _ a => hamletConfigBad a) mbHamletConfigBody

/-- MB_OWNER_MAP_SET. -/
def mbOwnerMapSetBody : Body := fun d o =>
  let rh := fld o.args 0 2
  let t := fld o.args 2 2
  if rh / 32 = pkgNum d then refuse 0x21 d
  else ok [] { d with
    owners := if t = 0 then Tbl.erase d.owners rh else Tbl.set d.owners rh (BitVec.ofNat 16 t) }

/-- MB_OWNER_MAP_SET (R225, R342). -/
def execMbOwnerMapSet (src : OrderSource) (s : State) : Host.Outcome State Fault Refusal :=
  onCtl s fun d => order d src 0x0107 (.ok []) (fun _ a => a.length != 4 || decide (1024 ≤ fld a 0 2)) mbOwnerMapSetBody

/-- Lane states in the ways `w` of the lane state cache are invalidated; their lanes become unpinned (R134, R330). -/
def dropLanes (d : Ctl) (w : W32) : Ctl :=
  let gone (ln : Lane) : Bool := (ln.way.map fun k => w.getLsbD k).getD false
  { d with
    slices := Tbl.mapVal d.slices fun _ (s : Slice) => { s with
      lanes := Tbl.mapVal s.lanes fun _ (ln : Lane) => if gone ln then { ln with way := none, pinned := false } else ln } }

/-- Translations in the ways `w` are invalidated on both ports. -/
def dropAtc (d : Ctl) (w : W32) : Ctl :=
  let drop (x : PortState) : PortState := { x with atc := x.atc.filter fun e => !w.getLsbD e.way }
  modPort (modPort d .ha drop) .hb drop

/-- Descriptors in the ways `w` of the descriptor cache are invalidated. -/
def dropDescs (d : Ctl) (w : W32) : Ctl :=
  { d with
    cmds := Tbl.mapVal d.cmds fun _ (c : Cmd) => { c with descWay := c.descWay.filter fun k => !w.getLsbD k } }

/-- A tenant's ways of the descriptor, translation and lane state caches become `x`, `y`, `z`: its entries in the ways it loses, and
every entry in the ways it gains, are invalidated first (R330). -/
def setWays (d : Ctl) (t : Nat) (old : Tenant) (x y z : W32) : Ctl :=
  let d := dropLanes (dropAtc (dropDescs d (old.wayDesc ^^^ x)) (old.wayAtc ^^^ y)) (old.wayLane ^^^ z)
  modTenant d t fun u => { u with wayDesc := x, wayAtc := y, wayLane := z }

/-- MB_WAY_MASK (R330). -/
def mbWayMaskBody : Body := fun d o =>
  let m (k : Nat) : W32 := BitVec.ofNat 32 (fld o.args k 4)
  match tenantById d (fld o.args 0 2) with
  | none => refuse 0x21 d
  | some (t, x) =>
    let held := d.tenants.any fun e => e.1 != t &&
      (e.2.wayDesc &&& m 4 != 0 || e.2.wayAtc &&& m 8 != 0 || e.2.wayLane &&& m 12 != 0)
    if held then refuse 0x22 d else ok [] (setWays d t x (m 4) (m 8) (m 12))

/-- MB_WAY_MASK (R330). -/
def execMbWayMask (src : OrderSource) (s : State) : Host.Outcome State Fault Refusal :=
  onCtl s fun d => order d src 0x0108 (.ok [])
    (fun _ a => badArgs a 16 [2, 3] || fld a 0 2 == 0 || fld a 4 4 == 0 || fld a 8 4 == 0 || fld a 12 4 == 0) mbWayMaskBody

/-- MB_TALLY_ALLOC. -/
def mbTallyAllocBody : Body := fun d o =>
  let bs := maskAt o.args 4
  match tenantById d (fld o.args 0 2) with
  | none => refuse 0x21 d
  | some (t, _) =>
    if fld o.args 2 1 = 0 then
      (if bs.any fun b => (Tbl.find? d.tallyBlocks b).isSome then refuse 0x22 d
       else ok [] { d with tallyBlocks := bs.foldl (fun m b => Tbl.set m b t) d.tallyBlocks })
    else if bs.any fun b => (Tbl.find? d.tallyBlocks b).any (· != t) then refuse 0x21 d
    else ok [] (freeBlocks d (bs.filter fun b => Tbl.find? d.tallyBlocks b == some t))

/-- MB_TALLY_ALLOC (R173, R329). -/
def execMbTallyAlloc (src : OrderSource) (s : State) : Host.Outcome State Fault Refusal :=
  onCtl s fun d => order d src 0x0109 (.ok []) 
    (fun _ a => badArgs a 8 [3] || fld a 0 2 == 0 || decide (1 < fld a 2 1)) mbTallyAllocBody

/-! ### Slices (R50 to R56, R59, R75, R117, R345, R522) -/

/-- The fields of one port in MB_SLICE_CREATE: PASID, vector base and count, ring bases. -/
structure PortArgs where
  pasid : Nat
  base : Nat
  count : Nat
  sq : Nat
  cq : Nat

def portArgs (a : Bytes) (hb : Bool) : PortArgs :=
  let k := b2n hb
  ⟨fld a (8 + 4 * k) 4, fld a (16 + 4 * k) 2, fld a (18 + 4 * k) 2, fld a (24 + 16 * k) 8, fld a (32 + 16 * k) 8⟩

/-- A port's fields are out of form: of a bound port out of range, of an unbound one not 0. -/
def portArgsBad (x : PortArgs) (bound : Bool) : Bool :=
  if bound then
    x.pasid == 0 || decide (0xFFFFF < x.pasid) || x.count == 0 || decide (64 < x.count) || decide (2048 < x.base + x.count) ||
      x.sq % 4096 != 0 || x.cq % 4096 != 0
  else x.pasid != 0 || x.base != 0 || x.count != 0 || x.sq != 0 || x.cq != 0

/-- MB_SLICE_CREATE arguments out of form (R50, R59, R75, R117, R522). -/
def sliceCreateBad (a : Bytes) : Bool :=
  let fl := fld a 4 1
  let lim := fld a 1 1
  let sq := fld a 5 1
  let cq := fld a 6 1
  a.length != 56 || fld a 2 2 == 0 || decide (8 ≤ fl) || fld a 7 1 != 0 || !(bitOf fl 0 || bitOf fl 1) || !bitOf fl (b2n (bitOf fl 2)) ||
    decide (lim < 1) || decide (64 < lim) || decide (sq < 4) || decide (16 < sq) || decide (cq < 6) || decide (16 < cq) ||
    decide (cq < sq) || portArgsBad (portArgs a false) (bitOf fl 0) || portArgsBad (portArgs a true) (bitOf fl 1)

/-- A slice bound on port `p` holds the PASID or a vector of the range. -/
def portTaken (d : Ctl) (p : Port) (x : PortArgs) : Bool :=
  x.base == 0 || !(slicesWhere d fun s =>
    let vb := match p with | .ha => s.vecBaseA | .hb => s.vecBaseB
    let vc := match p with | .ha => s.vecCountA | .hb => s.vecCountB
    boundOn s p && ((pasidOn s p).toNat == x.pasid || (decide (vb < x.base + x.count) && decide (x.base < vb + vc)))).isEmpty

/-- Sum of the lane limits (R51). -/
def laneSum (d : Ctl) : Nat := (slicesWhere d fun _ => true).foldl (fun a i => a + (getSlice d i).laneLimit) 0

/-- The slice MB_SLICE_CREATE makes, for tenant index `t`. -/
def newSlice (d : Ctl) (a : Bytes) (t : Nat) : Slice :=
  let x := portArgs a false
  let y := portArgs a true
  let fl := fld a 4 1
  let home := portOf (b2n (bitOf fl 2))
  let lane : Lane := {
    state := .fenced, sqBaseA := BitVec.ofNat 64 x.sq, cqBaseA := BitVec.ofNat 64 x.cq, sqBaseB := BitVec.ofNat 64 y.sq
    cqBaseB := BitVec.ofNat 64 y.cq, sqLog := fld a 5 1, cqLog := fld a 6 1
    irqCtl := 0x100 }
  { state := .bound, tenant := t, home := home
    cur := if bitOf fl 0 && bitOf fl 1 && !(getPort d home).linkUp && (getPort d (otherPort home)).linkUp then otherPort home else home
    boundA := bitOf fl 0, boundB := bitOf fl 1, pasidA := BitVec.ofNat 20 x.pasid, pasidB := BitVec.ofNat 20 y.pasid
    vecBaseA := x.base, vecCountA := x.count, vecBaseB := y.base, vecCountB := y.count, laneLimit := fld a 1 1
    incarnation := d.incarnations + 1, features := mandatory, lanes := [(0, lane)] }

/-- Slice `i` is created for tenant index `t`, and zeros go over lane 0's completion ring (R345). -/
def createSlice (d : Ctl) (i : Nat) (a : Bytes) (t : Nat) : Ctl :=
  let s := newSlice d a t
  let d := setSlice { d with incarnations := d.incarnations + 1 } i s
  let ln := getLane d i 0
  sliceWrite d i 0 false (cqBase ln s.cur) (zeros (32 * cqSize ln))

/-- MB_SLICE_CREATE: refusals in the order of R522, then the slice and zeros over lane 0's completion ring. -/
def mbSliceCreateBody : Body := fun d o =>
  let a := o.args
  let i := fld a 0 1
  let fl := fld a 4 1
  if 4096 < laneSum d + fld a 1 1 then refuse 0x23 d
  else if (getSlice d i).state ≠ .free || (bitOf fl 0 && portTaken d .ha (portArgs a false)) ||
      (bitOf fl 1 && portTaken d .hb (portArgs a true)) then refuse 0x22 d
  else match tenantById d (fld a 2 2) with
    | none => refuse 0x21 d
    | some (t, x) =>
      if x.state = .removing then refuse 0x20 d
      else ok (leBytes 4 (d.incarnations + 1).toNat ++ leBytes 1 0) (createSlice d i a t)

/-- MB_SLICE_CREATE (R345, R522). -/
def execMbSliceCreate (src : OrderSource) (s : State) : Host.Outcome State Fault Refusal :=
  onCtl s fun d => order d src 0x0200 (.ok []) (fun _ a => sliceCreateBad a) mbSliceCreateBody

/-- MB_SLICE_DESTROY. -/
def mbSliceDestroyBody : Body := fun d o =>
  let i := fld o.args 0 1
  if !sliceIn d i then refuse 0x20 d
  else (.pending [], fenceSlice d i (some { kind := .destroy, jseq := o.jseq, start := now d }))

/-- MB_SLICE_DESTROY (R346). -/
def execMbSliceDestroy (src : OrderSource) (s : State) : Host.Outcome State Fault Refusal :=
  onCtl s fun d => order d src 0x0201 (.ok []) (fun _ a => a.length != 1) mbSliceDestroyBody

/-- A slice reset begins; a freeze that runs or stands ends, with its arm (R348). -/
def startSliceReset (d : Ctl) (i j : Nat) : Ctl :=
  let s := getSlice d i
  let frozen := s.state == .frozen
  let d := if frozen then restoreCmds d i else d
  let d := fenceSlice d i (some { kind := .reset, jseq := j, start := now d })
  if frozen then modSlice d i fun s => { s with arm := none, saved := false } else d

/-- MB_SLICE_RESET. -/
def mbSliceResetBody : Body := fun d o =>
  let i := fld o.args 0 1
  let s := getSlice d i
  let lost := s.state == .portLost && !((s.boundA && d.portA.linkUp) || (s.boundB && d.portB.linkUp))
  if s.state = .free ∨ s.state = .bound ∨ lost then refuse 0x20 d
  else (.pending [], startSliceReset d i o.jseq)

/-- MB_SLICE_RESET (R348, R53). -/
def execMbSliceReset (src : OrderSource) (s : State) : Host.Outcome State Fault Refusal :=
  onCtl s fun d => order d src 0x0202 (.ok []) (fun _ a => a.length != 1) mbSliceResetBody

/-- MB_SLICE_SET_PORT. -/
def mbSliceSetPortBody : Body := fun d o =>
  let i := fld o.args 0 1
  let p := portOf (fld o.args 1 1)
  if !dualHomed (getSlice d i) ∨ !(getPort d p).linkUp then refuse 0x20 d
  else if (getSlice d i).cur = p then ok [] d
  else ok [] (redeliver (leaveFast (modSlice d i fun s => { s with cur := p }) i) i)

/-- MB_SLICE_SET_PORT (R79, R118). -/
def execMbSliceSetPort (src : OrderSource) (s : State) : Host.Outcome State Fault Refusal :=
  onCtl s fun d => order d src 0x0203 (.ok []) (fun _ a => a.length != 2 || decide (1 < fld a 1 1)) mbSliceSetPortBody

/-- The response of MB_SLICE_STATS: the accounting block with the tenant handle in bytes 5 and 6. -/
def sliceStatsReport (d : Ctl) (i : Nat) (lane : Option Nat) (st : Stats) : Bytes :=
  overlay (statsBlock d i lane st) 5 (leBytes 2 (handleOf d (getSlice d i).tenant))

/-- MB_SLICE_STATS: the accounting block with the tenant handle in bytes 5 and 6 (R270, R519). -/
def mbSliceStatsBody : Body := fun d o =>
  let i := fld o.args 0 1
  let l := fld o.args 1 1
  let s := getSlice d i
  let lane : Option Nat := if l = 0xFF then none else some l
  if s.state = .free then refuse 0x20 d
  else
    let st := match lane with | some k => (getLane d i k).stats | none => s.stats
    ok (sliceStatsReport d i lane st) d

/-- A lane that a slice in use does not have: it lies beyond the lane limit. -/
def badLane (d : Ctl) (i l : Nat) : Bool := (getSlice d i).state != .free && decide ((getSlice d i).laneLimit ≤ l)

/-- MB_SLICE_STATS (R270). -/
def execMbSliceStats (src : OrderSource) (s : State) : Host.Outcome State Fault Refusal :=
  onCtl s fun d => order d src 0x0008 (.ok [])
    (fun d a => a.length != 2 || (fld a 1 1 != 0xFF && (decide (64 ≤ fld a 1 1) || badLane d (fld a 0 1) (fld a 1 1))))
    mbSliceStatsBody

end Sys2Proof.Machine
end

