-- ==== Sys2Proof/Machine/Recovery.lean ====
section
/-! DEFINITION. Recovery: gleanings records, hamlet resets, croft resets and retirement, channel retirement, package warm
and full resets, reset counting, fence deadlines and escalation (06, 12, 13). -/

namespace Sys2Proof.Machine
open Sys2Proof

/-! ### Shared by every recovery -/

/-- An internal journal step over the whole package with its memory. -/
def internalDev (d : Dev) (obj : Obj) (f : Dev → Nat → Dev) : Dev :=
  let j := d.reeve.nextJseq
  let e := withCtl d fun d =>
    enter d { master := 0, source := .internal, opcode := 0, obj := obj, arrival := mclk d, state := .executing }
  let g := f e j
  withCtl g fun c => closeEntry (stamp j e.toCtl c) j 0

/-- A later step of order `j`, or where `j` is 0 an internal step; `f` sees the step's sequence. -/
def resetStep (d : Dev) (obj : Obj) (j : Nat) (f : Dev → Nat → Dev) : Dev :=
  if j = 0 then internalDev d obj f else withCtl (f d j) fun c => stamp j d.toCtl c

/-- A reset of hamlet `h`, other than its release, is in progress. -/
def hamResetting (d : Ctl) (h : Nat) : Bool :=
  match (getHam d h).reset with
  | some r => !r.release
  | none => false

/-- The hamlet leaves service (R203, R371, R409), with its record; `hard` where only a full reset clears the cause. -/
def leaveService (d : Ctl) (h detector jseq : Nat) (hard : Bool) : Ctl :=
  let d := modHam d h fun x => { x with outOfService := true, hardOut := x.hardOut || hard, run := .outOfService }
  faultRecord d detector 4 2 h 0xFF (hamHandle d h) 0xFFFF jseq

/-- The stamps of a limit's window. -/
def inWindowOf (d : Ctl) (l : ResetLimit) (ts : List Nat) : List Nat := within d (sec l.window) ts

/-! ### Gleanings (R388 to R391, R411) -/

/-- The gleanings key of a tenant (R305). -/
def gleaningsKey (t : Tenant) : Bytes := tenantKey t "pyvan gleanings" t.claimSalt

/-- A tally's entry in a gleanings record (R389). -/
def gleanTally (y : Tally) : Bytes :=
  let c := match y.claim with | .free => 0 | .claimed => 1 | .orphaned => 2
  leBytes 4 y.value.toNat ++ leBytes 1 (b2n y.claimMode + 2 * c) ++
    leBytes 1 ((y.owner.map Owner.slice).getD 0) ++ leBytes 1 ((y.owner.map fun o => o.gen.toNat).getD 0) ++ [0]

/-- The name of Field tally `i` of package hamlet `h` (R174). -/
def fieldTally (d : Ctl) (h i : Nat) : Nat := pkgNum d * 2 ^ 24 + hamField h * 2 ^ 22 + hamLocal h * 2 ^ 19 + i

/-- A core's entry (R389). -/
def gleanCore (core : Nat) (c : CoreSample) : Bytes :=
  leBytes 2 core ++ leBytes 1 c.state.toNat ++ leBytes 1 c.flags.toNat ++ leBytes 4 c.pc.toNat ++ leBytes 4 c.seq.toNat ++
    leBytes 1 c.slice.toNat ++ leBytes 1 c.lane.toNat ++ leBytes 2 c.cycles.toNat

/-- The body of a record over the logical crofts `ks`. -/
def gleanBody (d : Ctl) (h : Nat) (ks : List Nat) (g : GleaningsSample) : Bytes :=
  let core (n : Nat) : CoreSample := ((List.find? (fun e => e.1 == n) g.cores).map Prod.snd).getD ⟨0, 0, 0, 0, 0, 0, 0⟩
  let pad (k : Nat) : Bytes := padTo 4096 (((List.find? (fun e => e.1 == k) g.samples).map Prod.snd).getD [])
  (List.range 256).flatMap (fun i => gleanTally (getTally d (fieldTally d h i))) ++
    ks.flatMap (fun k => (List.range 72).flatMap fun c => gleanCore (72 * k + c) (core (72 * k + c))) ++ ks.flatMap pad

/-- Bytes of a record of `n` crofts. -/
def gleanSize (n : Nat) : Nat := 2096 + 5248 * n

/-- The crofts a partition of `size` bytes leaves room for: the highest are left out (R390). -/
def gleanFit (size : Nat) : Nat → List Nat → List Nat
  | 0, ks => ks
  | n + 1, ks => if gleanSize ks.length ≤ size then ks else gleanFit size n ks.dropLast

/-- A gleanings record of hamlet `h` is stored in its tenant's partition and becomes readable. -/
def storeGleanings (d : Ctl) (h scope reason : Nat) (ks : List Nat) (g : GleaningsSample) : Ctl :=
  let x := getHam d h
  match Tbl.find? d.tenants x.tenant with
  | none => d
  | some t =>
    let size := partitionSize d x.tenant
    let kept := gleanFit size ks.length ks
    if x.assign = .unassigned ∨ t.state ≠ .claimed ∨ ks.isEmpty ∨ size < gleanSize kept.length then d
    else
      let body := gleanBody d h kept g
      let header := leBytes 4 t.nextGleanings ++ leBytes 1 reason ++ leBytes 1 scope ++ leBytes 1 h ++ leBytes 1 x.gen.toNat ++
        leBytes 8 (devNow d).toNat ++ leBytes 2 (ofBitList kept) ++ leBytes 1 (ks.length - kept.length) ++
        leBytes 1 (min 255 g.badWords) ++ leBytes 4 body.length ++ zeros 8
      let box := gcmSeal (gleaningsKey t) (leBytes 4 t.nextGleanings ++ zeros 8) header body
      let r : GleaningsRecord := { tenant := x.tenant, index := t.nextGleanings, header := header, body := box.1, tag := box.2 }
      let d := modTenant d x.tenant fun t => { t with nextGleanings := t.nextGleanings + 1 }
      let l := d.gleanings ++ [r]
      let d := { d with gleanings := trimGleanings size x.tenant l.length l }
      forEach (tenantSlices d x.tenant) d fun d i =>
        if (getSlice d i).state = .active then sliceEvent d i 9 t.nextGleanings 0 else d

/-- Gleanings of hamlet `h` are kept for its tenant: it is CLAIMED. -/
def gleans (d : Ctl) (h : Nat) : Bool :=
  let x := getHam d h
  x.assign != .unassigned && (match Tbl.find? d.tenants x.tenant with | some t => t.state == .claimed | none => false)

/-- A record over the sampled crofts of hamlet `h` is still to be collected (R411). -/
def gleanDue (d : Ctl) (h : Nat) : Bool := gleans d h && !(getHam d h).sampled.isEmpty

/-- GLEANINGS_COLLECTED (R389, R411): the record of the reset, retirement or croft reset that waits for it. -/
def execGleaningsCollected (h : Fin 32) (g : GleaningsSample) (s : State) : Host.Outcome State Fault Refusal :=
  onCtl s fun d =>
    let h := h.val
    let x := getHam d h
    let done (d : Ctl) : Ctl := modHam d h fun x => { x with sampled := [], run := .resetting }
    match d.pkg.warm, x.reset, x.retirement, List.find? (fun (e : Nat × CroftReset) => !e.2.collected) x.croftResets with
    | some w, _, _, _ =>
      if w.squashed && !x.sampled.isEmpty then done (storeGleanings d h 4 w.cause x.sampled g) else d
    | none, some r, _, _ =>
      if r.squashed && !r.release && !x.sampled.isEmpty then done (storeGleanings d h 3 r.reason x.sampled g) else d
    | none, none, some r, _ =>
      if r.collected then d
      else modHam (storeGleanings d h 2 r.reason (r.crofts.filterMap (logCroft x)) g) h fun x => { x with
        retirement := x.retirement.map fun r => { r with collected := true } }
    | none, none, none, some e =>
      modHam (storeGleanings d h 1 e.2.reason ((logCroft x e.1).toList) g) h fun x => { x with
        croftResets := Tbl.set x.croftResets e.1 { e.2 with collected := true } }
    | none, none, none, none => d

/-! ### Package warm reset: start (R365, R403) -/

/-- A package warm reset begins, or is absorbed into the one that runs (R381). -/
def startWarm (d : Ctl) (w : WarmReset) : Ctl :=
  match d.pkg.warm with
  | some v =>
    modPkg d fun k => { k with
      warm := some { v with
        retire := v.retire ++ w.retire, leave := v.leave ++ w.leave
        returning := v.returning || w.returning, absorbed := if w.jseq = 0 then v.absorbed else v.absorbed ++ [w.jseq] } }
  | none =>
    if d.pkg.life ≠ .operating then d
    else
      let d := fenceRoads (pushHistory d 0 w.cause w.counted)
      let d := forEach (Tbl.keys d.slices) d abortMig
      let retire := (List.range 32).flatMap fun h => ((getHam d h).retirement.map Retirement.crofts).getD [] |>.map fun c => (h, c)
      let d := { d with
        hamlets := Tbl.mapVal d.hamlets fun _ (x : Hamlet) => { x with
          run := if x.outOfService then .outOfService else .draining, retirement := none, channelRetiring := none
          channelWaiting := [], croftResets := []
          reset := x.reset.filter HamletReset.release } }
      modPkg d fun k => { k with
        gen := k.gen + 1
        warm := some { w with start := now d, retire := w.retire ++ retire } }

/-- The warm reset a fault starts under the PACKAGE policy or by escalation. -/
def faultWarm (d : Ctl) (cause h : Nat) (policy : Bool) (retire : List (Nat × Nat)) (leave : List Nat) : Ctl :=
  startWarm d {
    jseq := 0, start := now d, policy := policy, counted := true, cause := cause, hamlet := some h, retire := retire
    leave := leave }

/-! ### Hamlet reset (R395 to R402) -/

/-- A hamlet reset begins (R401 step 1); with one in progress, or a warm reset, it is that one (R381). -/
def startHamletReset (d : Ctl) (h j reason : Nat) (fault : Bool) : Ctl :=
  if (getHam d h).reset.isSome ∨ d.pkg.warm.isSome then d
  else modHam d h fun x => { x with
    reset := some { jseq := j, start := now d, fault := fault, reason := reason }, run := .draining, preempting := none
    channelWaiting := x.channelRetiring.toList ++ x.channelWaiting, channelRetiring := none, croftResets := [] }

/-- A HAMLET detection or escalation (R365, R368): the hamlet resets, the package under PACKAGE. -/
def hamletFault (d : Ctl) (h reason : Nat) : Ctl :=
  if d.pkg.policyPackage && reason != 0x81 then faultWarm d reason h true [] []
  else startHamletReset d h 0 reason true

/-- MB_HAMLET_RESET orders on hamlet `h` that run complete OK, with those that joined it. -/
def endHamletOrders (d : Ctl) (h : Nat) : Ctl :=
  let mine := d.reeve.journal.filter fun (e : Nat × JEntry) =>
    (e.2.opcode == 0x0105 || e.2.opcode == 0x0603) && e.2.obj == .hamlet h && e.2.state == .executing
  mine.foldl (fun d e => completeOrder d e.1 0 []) d

/-- An order that waits for a reset of its hamlet joins it: it is answered PENDING (13, "Two orders reset the same
hamlet"). -/
def joinResets (d : Ctl) : Ctl :=
  let late := d.reeve.journal.filter fun (e : Nat × JEntry) =>
    e.2.opcode == 0x0105 && e.2.state == .waiting &&
      (match e.2.obj with | .hamlet h => hamResetting d h || d.pkg.warm.isSome | _ => false)
  late.foldl (fun d e => answer (modEntry d e.1 fun x => { x with state := .executing }) e.2.source e.2.opcode 1 e.1 []) d

/-- MB_HAMLET_RESET. -/
def mbHamletResetBody : Body := fun d o =>
  let h := fld o.args 0 1
  let x := getHam d h
  if x.assign = .unassigned ∨ x.outOfService ∨ x.assign = .releasing then refuse 0x20 d
  else (.pending [], startHamletReset d h o.jseq 0x80 false)

/-- MB_HAMLET_RESET (R401, R519). -/
def execMbHamletReset (src : OrderSource) (s : State) : Host.Outcome State Fault Refusal :=
  onCtl s fun d => joinResets (order d src 0x0105 (.ok []) (fun _ a => a.length != 1 || decide (32 ≤ fld a 0 1)) mbHamletResetBody)

/-- The squash of a hamlet reset (R398, R401 step 3): commands without a token end, sets without COMMIT get DISCARD. -/
def squashHamlet (d : Ctl) (h : Nat) : Ctl :=
  let held := heldCrofts d h
  let d := discardWhere d (fun _ c => inHamlet d h c || stagersOf d h c) St.hamletReset
  let d := discardSets (dropLoads d h St.hamletReset) h
  modHam d h fun x =>
    let away (y : StagedSet) : Bool := !y.commit && endPkg y.src != pkgNum d
    { x with
      sampled := if gleans d h then held else [], run := .squashing
      sets := x.sets.map fun y => if away y then { y with discardSent := true } else y
      reset := x.reset.map fun r => { r with squashed := true, answers := (x.sets.filter away).length } }

/-! ### Croft retirement (R29, R45, R369, R371, R543) -/

/-- The spare of a hamlet has not taken over and is good. -/
def hasSpare (x : Hamlet) : Bool := decide (12 < (goodCrofts x).length)

/-- A poisoned scratchpad block takes its resident content from the shadow pages, or is working scratchpad (R369 step 5). -/
def repairBlock (d : Dev) (h b : Nat) : Dev :=
  let off := b - memKey h aliasBase
  let d := { d with poison := d.poison.filter (· != b) }
  d.models.foldl (fun d e => (e.2.records.filter fun r => r.hamlet == h).foldl (fun d r =>
    let bytes := readHbm d.mem d.toCtl h (4096 * (regionOf e.2 r 1).1) (4096 * r.shadowPages)
    (packed r.residents bytes).foldl (fun d w =>
      if w.1 ≤ off ∧ off < w.1 + w.2.length then storeBytes d h (aliasBase + off) (sub w.2 (off - w.1) 64) else d) d) d) d

/-- A model of hamlet `h` has a resident or live range at or above scratchpad offset `lim` (R543). -/
def usesAbove (m : Model) (h lim : Nat) : Bool :=
  let above (l : List Range) : Bool := l.any fun r => decide (0 < r.len) && decide (lim < r.off + r.len)
  m.records.any fun r => r.hamlet == h && (above r.residents || m.entries.any fun e => (entryHamlets m e).contains h && above e.ranges)

/-- The loads in progress of models that satisfy `p` complete REFUSED/RESOURCE (R543). -/
def refuseLoads (d : Ctl) (p : Model → Bool) : Ctl :=
  (d.loads.filter fun (e : Nat × Load) => p e.2.model).foldl (fun d e => adminFail (dropLoad d e.2.cmd) e.2.cmd St.resource) d

/-- The crofts `cs` leave the croft map of hamlet `h` (R369 steps 5 and 6): every logical croft keeps its content at its
alias offsets; a shorter map loses the top croft's (R543), and fewer than 8 crofts the hamlet (R371). -/
def removeCrofts (d : Dev) (h : Nat) (cs : List Nat) (detector j : Nat) : Dev :=
  let x := getHam d.toCtl h
  let lost := cs.filterMap (logCroft x)
  let key := memKey h aliasBase
  let inLost (b : Nat) : Bool := decide (key ≤ b) && decide (b < key + 48 * 2 ^ 20) && lost.contains ((b - key) / 4194304)
  let d := (d.poison.filter inLost).foldl (fun d b => repairBlock d h b) d
  let d := withCtl d fun d => modHam (openAll d h) h fun x => { x with
    badCrofts := x.badCrofts ++ cs.filter fun c => !x.badCrofts.contains c }
  let n := croftCount (getHam d.toCtl h)
  if croftCount x ≤ n then d
  else
    let lim := 4194304 * n
    let d := withCtl d fun d => refuseLoads (loseModels d (fun m => usesAbove m h lim) St.compute) fun m => usesAbove m h lim
    let gone (a : Nat) : Bool := decide (key + lim ≤ a) && decide (a < key + 48 * 2 ^ 20)
    let d := { d with mem := Mem.zeroWhere d.mem gone, poison := d.poison.filter fun b => !gone b }
    if n < 8 then withCtl d fun d => leaveService d h detector j true else d

/-- Every command bound in hamlet `h` but `culprit` is killed, uncounted, and runs again (R369 step 2). -/
def killBound (d : Ctl) (h : Nat) : Ctl :=
  (inStates d h [.bound]).foldl (fun d e => if unsettled e.2.1 then requeue d e.1 else d) d

/-- The commands with a bound core in a logical croft. -/
def inCroft (d : Ctl) (h k : Nat) : List (Nat × Cmd × Part) :=
  (inStates d h [.bound]).filter fun e => e.2.2.cores.any fun c => croftOfCore c == k

/-- Physical croft `c` of hamlet `h` is to be retired (R369 steps 1 and 2): the hamlet pauses; a larger recovery that runs
does it instead (R381), and an unused spare is only marked. -/
def startRetirement (d : Ctl) (h c reason : Nat) : Ctl :=
  let x := getHam d h
  if x.badCrofts.contains c then d
  else if d.pkg.warm.isSome ∨ (d.pkg.policyPackage ∧ reason ≠ 0x81) then faultWarm d reason h true [(h, c)] []
  else if !(inService x).contains c then
    mirrorStep d (.hamlet h) 0 (modHam d h fun x => { x with badCrofts := x.badCrofts ++ [c] })
  else
    let old := (x.retirement.map Retirement.crofts).getD []
    let r : Retirement := { crofts := if old.contains c then old else old ++ [c], start := now d, reason := reason }
    let d := if x.reset.isSome then d else killBound d h
    settled (modHam d h fun x => { x with retirement := some r, croftResets := Tbl.erase x.croftResets c, preempting := none })

/-- SPARE_BIST_DONE (R369 step 4). -/
def execSpareBistDone (h : Fin 32) (pass : Bool) (s : State) : Host.Outcome State Fault Refusal :=
  onCtl s fun d =>
    let x := getHam d h.val
    match x.retirement with
    | some r =>
      if r.spareOk.isNone && hasSpare x then
        modHam d h.val fun x => { x with retirement := some { r with spareOk := some pass } }
      else d
    | none => d

/-- The crofts a retirement removes: with the spare where it failed BIST. -/
def retired (r : Retirement) : List Nat := r.crofts ++ (if r.spareOk = some false then [12] else [])

/-! ### Channel retirement (R202, R203) -/

/-- A model has pages in hamlet `h`: its own, or tenant data. -/
def hasPages (m : Model) (h : Nat) : Bool := !(heldPages m h).isEmpty || !(dataPages m h).isEmpty

/-- The pages of a model in hamlet `h` have mirror copies. -/
def mirroredIn (m : Model) (h : Nat) : Bool := m.records.any fun r => r.hamlet == h && recordMirrored m r

/-- What the loss of a channel takes from hamlet `h` (R202 step 3, R203): the contexts with pages there and the models not mirrored
there; at a second loss every context and every model there. -/
def channelTakes (d : Ctl) (h : Nat) (second : Bool) : List Nat × (Model → Bool) :=
  if second then ((d.contexts.filter fun (e : Nat × Context) => contextIn d e.1 h).map Prod.fst, fun m => modelIn m h)
  else (contextsOn d h fun _ => true, fun m => hasPages m h && !mirroredIn m h)

/-- A RETIRING channel of hamlet `h` is retired (R202 steps 1 to 3): the hamlet pauses, commands end FAULT/MEMORY, what is not
mirrored is lost; with another failed channel the hamlet leaves service (R203). A load there completes ABORTED (10_trust.md, Edges;
log 16). -/
def failChannel (d : Ctl) (h c : Nat) : Ctl :=
  let x := getHam d h
  let second := threeChannel x || (List.range 4).any fun k => k != c && chanState x k == .retiring
  let d := modHam d h fun x => { x with
    channels := Tbl.set x.channels c .retiring, channelRetiring := some c, channelWaiting := [], preempting := none }
  let d := discardWhere d (fun _ k => k.parts.any fun p => p.1 == h &&
    (p.2.state == .bound || p.2.state == .staged || p.2.state == .reserving || p.2.state == .parked)) St.memory
  let t := channelTakes d h second
  let d := discardWhere d (fun _ k => k.phase == .running && isContextOp k.opcode && t.1.contains (ctxKey k.slice k.context)) St.memory
  let d := dropLoads (tearKeys d t.1) h St.hamletReset
  let d := loseModels d t.2 St.memory
  if second then leaveService (modHam d h closeChannels) h 7 0 true else settled d

/-- The HBM of hamlet `h` after a channel failed: only the pages of its surviving models keep their content (R202). -/
def keepMirrored (d : Dev) (h : Nat) : Dev :=
  let own := (d.models.filter fun (e : Nat × Model) => modelIn e.2 h).flatMap fun (e : Nat × Model) =>
    (e.2.records.filter fun r => r.hamlet == h).flatMap fun r => [regionOf e.2 r 0, regionOf e.2 r 1]
  let kept (a : Nat) : Bool := own.any fun g => decide (g.1 ≤ a / 4096) && decide (a / 4096 < g.1 + g.2)
  let key := memKey h 0
  let gone (a : Nat) : Bool := decide (key ≤ a) && decide (a < key + aliasBase) && !kept (a - key)
  { d with
    mem := Mem.zeroWhere d.mem gone, poison := d.poison.filter fun b => !(decide (key ≤ b) && decide (b < key + aliasBase)) }

/-- The channel is RETIRED and the hamlet resumes on the three-channel map (R202 steps 4 to 6): rebuilt pages keep their
offsets and carry one copy. -/
def endChannel (d : Dev) (h : Nat) : Dev :=
  let d := withCtl d fun d => modHam (openAll d h) h fun x => { closeChannels x with writeBacks := [] }
  let d := withCtl d fun d => { d with
    models := Tbl.mapVal d.models fun _ (m : Model) => { m with
      records := m.records.map fun r => if r.hamlet == h then { r with single := true } else r } }
  keepMirrored d h

/-- The channel failures that waited for a croft retirement or reset of their hamlet are handled now. -/
def nextChannel (d : Ctl) (h : Nat) : Ctl :=
  match (getHam d h).channelWaiting with
  | c :: _ => failChannel d h c
  | [] => d

/-- The RETIRING channels of hamlet `h` are retired within a package warm reset (R365, R381). -/
def retireChannels (d : Dev) (h : Nat) : Dev :=
  match (List.range 4).find? fun c => chanState (getHam d.toCtl h) c == .retiring with
  | some c => endChannel (withCtl d fun d => failChannel d h c) h
  | none => d

/-- A retirement ends: its crofts leave the map, and a channel failure that waited for it is handled (R369, R381). -/
def endRetirement (h : Nat) (r : Retirement) (d : Dev) (j : Nat) : Dev :=
  let d := withCtl d fun d => modHam d h fun x => { x with retirement := none }
  withCtl (removeCrofts d h (retired r) r.reason j) fun d => settled (nextChannel d h)

/-- CROFT_REMAP_DONE (R369 steps 5 and 6): one journal step writes the new croft map and the hamlet resumes. -/
def execCroftRemapDone (h : Fin 32) (s : State) : Host.Outcome State Fault Refusal :=
  onDev s fun d =>
    let h := h.val
    let x := getHam d.toCtl h
    match x.retirement with
    | none => d
    | some r =>
      if (hasSpare x && r.spareOk.isNone) || (gleans d.toCtl h && !r.collected) || x.reset.isSome || d.reeve.takeover then d
      else internalDev d (.hamlet h) (endRetirement h r)

/-- CHANNEL_REBUILD_DONE (R202). -/
def execChannelRebuildDone (h : Fin 32) (s : State) : Host.Outcome State Fault Refusal :=
  onDev s fun d =>
    let h := h.val
    if (getHam d.toCtl h).channelRetiring.isNone || (getHam d.toCtl h).reset.isSome || d.reeve.takeover then d
    else internalDev d (.hamlet h) fun d _ => withCtl (endChannel d h) settled

/-! ### End of a hamlet reset (R401 steps 6 to 8, R402, R407, R409) -/

/-- The crofts, scheduler, tags and sticky flags of a hamlet after a reset of it or of the package. -/
def resetHamlet (x : Hamlet) : Hamlet :=
  { x with
    gen := x.gen + 1, reset := none, retirement := none, croftResets := [], sampled := [], preempting := none
    retiredTtags := [], coreFlags := [], coreStore := [], spadOpen := [], weakRows := [], writeBacks := []
    run := if x.outOfService then .outOfService else .running }

/-- HAMLET_RESET_DONE (R181, R401): resident ranges restored, a new generation, deferred requests granted, waits evaluated again, the hamlet resumes or,
at its limit, leaves service. -/
def endHamletReset (d : Dev) (h : Nat) (r : HamletReset) (j : Nat) : Dev :=
  let gone := (((getHam d.toCtl h).retirement.map retired).getD [])
  let d := withCtl d fun d => tearHamlet d h
  let d := removeCrofts d h gone r.reason j
  let d := restoreShadows d h
  withCtl d fun d =>
    let d := modHam d h fun x => { resetHamlet x with
      resetTimes := if r.fault then inWindowOf d d.pkg.hamletLimit x.resetTimes ++ [now d] else x.resetTimes }
    let d := faultRecord d r.reason 4 (if r.fault then 2 else 0) h 0xFF (hamHandle d h) 0xFFFF j
    let full := r.fault && decide (d.pkg.hamletLimit.limit ≤ (getHam d h).resetTimes.length)
    let d := if full && !(getHam d h).outOfService then leaveService d h r.reason j false else d
    settled (nextChannel (wakeTallies (endHamletOrders d h) h) h)

/-- HAMLET_RESET_DONE (R385, R401): no earlier than 100 µs after the fence. -/
def execHamletResetDone (h : Fin 32) (s : State) : Host.Outcome State Fault Refusal :=
  onDev s fun d =>
    let h := h.val
    match (getHam d.toCtl h).reset with
    | none => d
    | some r =>
      if r.release || !r.squashed || r.answers != 0 || gleanDue d.toCtl h || decide (now d.toCtl < r.start + us 100) ||
          d.reeve.takeover then d
      else resetStep d (.hamlet h) r.jseq fun d j => endHamletReset d h r j

/-! ### Croft reset (R394, R400, R406) -/

/-- A croft reset begins (R400 steps 1 and 2); a larger recovery of the hamlet absorbs it. -/
def startCroftReset (d : Ctl) (h c reason : Nat) : Ctl :=
  let x := getHam d h
  match logCroft x c with
  | none => d
  | some k =>
    if x.reset.isSome ∨ d.pkg.warm.isSome ∨ x.retirement.isSome ∨ (Tbl.find? x.croftResets c).isSome then d
    else
      let d := (inCroft d h k).foldl (fun d e => if unsettled e.2.1 then requeue d e.1 else d) d
      let d := modHam d h fun x => { x with
        croftResets := Tbl.set x.croftResets c { start := now d, reason := reason, collected := !gleans d h } }
      settled (faultRecord d reason 2 2 h c (hamHandle d h) 0xFFFF 0)

/-- CORE_IDLE_TIMEOUT (R394, R399, R406): cores did not go idle within 5 µs of a discard. -/
def execCoreIdleTimeout (h : Fin 32) (croft : Fin 13) (s : State) : Host.Outcome State Fault Refusal :=
  onCtl s fun d => if d.pkg.life = .operating then startCroftReset d h.val croft.val 0x81 else d

/-- A croft reset ends and is counted (R400, R407): the croft returns, or at a failed check or its limit it is retired. -/
def endCroftReset (h c : Nat) (pass : Bool) (d : Ctl) : Ctl :=
  let d := modHam (openAll d h) h fun x => { x with
    croftResets := Tbl.erase x.croftResets c
    croftResetTimes := Tbl.modify x.croftResetTimes c [] fun ts => inWindowOf d d.pkg.croftLimit ts ++ [now d] }
  let n := (Tbl.getD (getHam d h).croftResetTimes c []).length
  if pass && decide (n < d.pkg.croftLimit.limit) then settled d else startRetirement d h c 0x81

/-- The hamlet resets and is past its squash, or the whole package is: the crofts run their self-checks there (R401 step 6, R403). -/
def checksCrofts (d : Ctl) (h : Nat) : Bool :=
  match d.pkg.warm, (getHam d h).reset with
  | some w, _ => w.squashed
  | none, some r => r.squashed && !r.release
  | none, none => false

/-- CROFT_SELF_CHECK_DONE (R400 steps 5 and 6, R401 step 6, R403, R407): the croft returns, or it is retired; one that fails within a
reset of its hamlet or of the package is retired inside it. -/
def execCroftSelfCheckDone (h : Fin 32) (croft : Fin 13) (pass : Bool) (s : State) : Host.Outcome State Fault Refusal :=
  onCtl s fun d =>
    let h := h.val
    let c := croft.val
    match Tbl.find? (getHam d h).croftResets c with
    | none => if !pass && checksCrofts d h then startRetirement d h c 0x81 else d
    | some r =>
      if !r.collected then d
      else internalStep d (.hamlet h) fun d _ => endCroftReset h c pass d

/-! ### Hang timeout (R392 to R394) -/

/-- The hang timeout of a command in units of interval time. -/
def hangLimit (d : Ctl) (c : Cmd) : Nat :=
  max (us c.timeout) (ns (2 * c.predictedCost * d.pkg.hangMult / 3) + us 20)

/-- HANG_TIMEOUT (R392 to R394): the command completes TIMEOUT/HANG. -/
def execHangTimeout (c : Nat) (s : State) : Host.Outcome State Fault Refusal :=
  onCtl s fun d =>
    match Tbl.find? d.cmds c with
    | none => d
    | some k =>
      if k.phase ≠ .running || !unsettled k || !hangRuns k || decide (now d < k.bindTime + (hangLimit d k - k.hangRun)) then d
      else
        let h := homeHamlet d k
        let i := k.slice
        settled (advanceSlice (faultRecord (discard d c St.hang) 8 1 2 h 0xFF (handleOf d (getSlice d i).tenant) i 0) i)

/-! ### Package warm reset: squash and end (R403, R407 to R410) -/

/-- A command whose token has issued completes without waiting for other packages (R403). -/
def releaseTokens (d : Ctl) : Ctl :=
  (d.cmds.filter fun (e : Nat × Cmd) => e.2.token && e.2.phase == .running).foldl (fun d e =>
    finishCommit (modCmd d e.1 fun c => { c with grants := c.grants.map fun g => { g with applied := false } }) e.1) d

/-- The roads of a warm reset drop where they have sent FENCED for 20 µs (R236). -/
def dropFenced (d : Ctl) : Ctl :=
  match d.pkg.warm with
  | some w =>
    if w.dropped ∨ now d < w.start + us 20 then d
    else modPkg (dropRoads d) fun k => { k with warm := some { w with dropped := true } }
  | none => d

/-- The squash of a package warm reset (R403). -/
def squashPackage (d : Ctl) : Ctl :=
  let d := { d with
    hamlets := Tbl.mapVal d.hamlets fun h (x : Hamlet) => { x with sampled := if gleans d h then heldCrofts d h else [] } }
  let d := discardWhere d (fun _ c => c.phase == .admitted || c.phase == .running) St.hamletReset
  let d := releaseTokens (forEach (List.range 32) d fun d h => dropLoads d h St.hamletReset)
  let away (src : Nat) : Bool := endPkg src != pkgNum d
  let d := { d with
    requests := [], hearthSets := d.hearthSets.filter fun y => !away y.src
    hamlets := Tbl.mapVal d.hamlets fun _ (x : Hamlet) =>
      let out := x.sets.filter fun y => away y.src
      { x with
        sets := x.sets.filter fun y => !away y.src, deferred := x.deferred.filter fun y => !away y.src
        remoteUsed := x.remoteUsed - out.foldl (fun a y => a + y.granted) 0
        run := if x.outOfService then .outOfService else .squashing } }
  dropFenced (modPkg d fun k => { k with warm := k.warm.map fun w => { w with squashed := true } })

/-- Every Field tally of the package is 0 and FREE in its mode (R181). -/
def clearFieldTallies (d : Ctl) : Ctl :=
  { d with
    tallies := Tbl.mapVal d.tallies fun n (y : Tally) =>
      if tallyIsHearth n || tallyPkg n != pkgNum d then y else { claimMode := y.claimMode } }

/-- The package enters out of service (R409): every slice FENCED, with its record. -/
def packageOut (d : Ctl) (cause j : Nat) : Ctl :=
  let d := forEach (slicesWhere d fun s => s.state == .active || s.state == .frozen) d fun d i =>
    let d := abortMig d i
    fenceSlice d i (getSlice d i).proc
  faultRecord (modPkg d fun k => { k with outOfService := true }) cause 10 2 0xFFFF 0xFF 0 0xFFFF j

/-- A returned package takes its slices back through slice resets (R410). -/
def returnSlices (d : Ctl) : Ctl :=
  forEach (slicesWhere d fun s => s.state == .fenced && s.proc.isNone) d fun d i => startSliceReset d i 0

/-- Counting at the end of a warm reset (R407, R409). -/
def countWarm (d : Ctl) (w : WarmReset) (j : Nat) : Ctl :=
  let d := match w.hamlet with
    | some h =>
      if w.policy && w.counted then
        let d := modHam d h fun x => { x with resetTimes := inWindowOf d d.pkg.hamletLimit x.resetTimes ++ [now d] }
        if decide (d.pkg.hamletLimit.limit ≤ (getHam d h).resetTimes.length) && !(getHam d h).outOfService then
          leaveService d h w.cause j false
        else d
      else d
    | none => d
  if w.counted && d.time.everLocked && decide (d.pkg.packageLimit.limit ≤ pkgResetCount d) then packageOut d w.cause j else d

/-- The query of R316 that a tenant has yet to run ends at once where no peer is live. -/
def queryEpochs (d : Ctl) (i : Nat) : Ctl :=
  match Tbl.find? d.tenants i with
  | some x => if x.state = .claimed ∧ !x.joined ∧ !x.saltMismatch then startBarrier d i 4 0 0x31 else d
  | none => d

/-- The package returns from a warm reset (R403): Fields reset, resident ranges restored, every hamlet generation new. -/
def finishWarm (d : Dev) (w : WarmReset) (j : Nat) : Dev :=
  let d := withCtl d fun d =>
    let d := forEach (Tbl.keys d.contexts) d fun d k => tearDown d (k / 65536) (k % 65536)
    clearFieldTallies (dropFenced d)
  let d := w.retire.foldl (fun d e => removeCrofts d e.1 [e.2] w.cause j) d
  let d := (List.range 32).foldl retireChannels d
  let d := withCtl d fun d => w.leave.foldl (fun d h => leaveService d h w.cause j false) d
  let d := (List.range 32).foldl restoreShadows d
  withCtl d fun d =>
    let d := { d with
      hamlets := (List.range 32).foldl (fun t h => Tbl.set t h (let x := getHam d h; { resetHamlet x with reset := x.reset.filter HamletReset.release })) d.hamlets
      nonces := Tbl.mapVal d.nonces fun _ (n : Nat) => ceilDiv n 65536 * 65536 }
    let d := forEach (Tbl.keys d.tenants) d queryEpochs
    let d := modPkg d fun k => { k with warm := none }
    let d := faultRecord d w.cause 10 (if w.counted then 2 else 0) 0xFFFF 0xFF 0 0xFFFF j
    let d := countWarm d w j
    let d := if w.returning then
        returnSlices (modPkg d fun k => { k with outOfService := false, countFrom := k.nextHistory })
      else d
    let d := forEach (List.range 32) (completeOrder d w.jseq 0 []) endHamletOrders
    settled (w.absorbed.foldl (fun d j => completeOrder d j 0 []) d)

/-- The work of a warm reset is done: squashed, no gleanings due. -/
def warmReady (d : Ctl) (w : WarmReset) : Bool :=
  w.squashed && decide (w.start + ms 2 ≤ now d) && !((List.range 32).any (gleanDue d))

/-- PACKAGE_WARM_RESET_DONE (R365, R403): under PACKAGE the Fields stay fenced until 180 ms have passed. -/
def execPackageWarmResetDone (s : State) : Host.Outcome State Fault Refusal :=
  onDev s fun d =>
    match d.pkg.warm with
    | none => d
    | some w =>
      if !warmReady d.toCtl w then d
      else if w.policy then
        withCtl d fun d => modPkg d fun k => { k with warm := some { w with workDone := true } }
      else resetStep d .package w.jseq fun d j => finishWarm d w j

/-- WARM_RESET_HOLD_EXPIRY (R365): 180 ms after its journal step a warm reset under PACKAGE ends. -/
def execWarmResetHoldExpiry (s : State) : Host.Outcome State Fault Refusal :=
  onDev s fun d =>
    match d.pkg.warm with
    | none => d
    | some w =>
      if w.policy && w.workDone && decide (w.start + ms 180 ≤ now d.toCtl) then resetStep d .package w.jseq fun d j => finishWarm d w j
      else d

/-- MB_PKG_RESET: kind 0 WARM, 1 FULL, 2 POWER_CYCLE. -/
def mbPkgResetBody : Body := fun d o =>
  match fld o.args 0 1 with
  | 0 =>
    if d.pkg.life ≠ .operating then refuse 0x20 d
    else (.pending [], startWarm d { jseq := o.jseq, start := now d, policy := false, counted := false, cause := 0x80 })
  | 1 => (.last, modPkg d fun k => { k with fullJseq := o.jseq })
  | _ =>
    (.last, raiseIbi (modPkg (pushHistory d 2 0x80 false) fun k => { k with powerCycle := true }) 0x10)

/-- A full reset that an order or an escalation has called for takes place. -/
def runFullReset (d : Dev) : Dev := if d.pkg.fullJseq = 0 then d else fullReset d 0x80 false

/-- MB_PKG_RESET (R403 to R405, R516). -/
def execMbPkgReset (src : OrderSource) (s : State) : Host.Outcome State Fault Refusal :=
  onDev s fun d => runFullReset (withCtl d fun d =>
    order d src 0x0602 (.ok []) (fun _ a => a.length != 1 || decide (2 < fld a 0 1)) mbPkgResetBody)

/-! ### Deadlines and escalation (R395, R396, R406) -/

/-- The fence deadline after `start` has come. -/
def fenced (d : Ctl) (start : Nat) : Bool := decide (start + us d.pkg.fenceDeadline ≤ now d)

/-- FENCE_DEADLINE (R344, R346, R348, R350, R395): the squash of the fenced domain. -/
def execFenceDeadline (scope : FenceScope) (s : State) : Host.Outcome State Fault Refusal :=
  onCtl s fun d =>
    match scope with
    | .slice i =>
      (match (getSlice d i.val).proc with
       | some p =>
         if !p.squashed && (p.kind == .reset || p.kind == .destroy) && fenced d p.start then
           advanceSlice (squashSlice d i.val St.fenced) i.val
         else d
       | none => d)
    | .hamlet h =>
      (match (getHam d h.val).reset with
       | some r =>
         if r.squashed || !fenced d r.start then d
         else if r.release then (if r.jseq = 0 then d else finishRelease d h.val r.jseq)
         else squashHamlet d h.val
       | none => d)
    | .package =>
      (match d.pkg.warm with
       | some w => if !w.squashed && fenced d w.start then squashPackage d else d
       | none => d)
    | .tenant t =>
      (match Tbl.find? d.tenants t.val with
       | some x => if x.state = .removing ∧ x.removeStep = 1 ∧ x.removeStart + us 100 ≤ now d then squashTenant d t.val else d
       | none => d)

/-- The package asks its tray controller for a power cycle (R405). -/
def askPowerCycle (d : Ctl) : Ctl :=
  if d.pkg.powerCycle then d
  else
    let d := pushHistory d 2 0x81 true
    raiseIbi (modPkg d fun k => { k with powerCycle := true }) 0x10

/-- A full reset has not asserted READY within 9 s and has not entered lantern state (R405). -/
def fullLate (d : Ctl) : Bool :=
  (d.pkg.life == .selftest || d.pkg.life == .failed) && decide (d.pkg.fullStart + sec 9 ≤ now d)

/-- FULL_RESET_TIMEOUT (R405): a package after a fabric fault enters reset, one whose self-test does not end asks for a
power cycle. -/
def execFullResetTimeout (s : State) : Host.Outcome State Fault Refusal :=
  onCtl s fun d => if fullLate d then askPowerCycle d else d

/-- Time by which the fence deadline exceeds its default, added to the targets of R382 (R396). -/
def fenceExcess (d : Ctl) : Nat := us (d.pkg.fenceDeadline - 100)

/-- RESET_TARGET_EXPIRY (R382, R406): the step that contains the late one starts. A context teardown ends in the step that
begins it, so it is never late. -/
def execResetTargetExpiry (scope : ResetScope) (s : State) : Host.Outcome State Fault Refusal :=
  onDev s fun d =>
    match scope with
    | .context _ _ => d
    | .croft h c =>
      (match Tbl.find? (getHam d.toCtl h.val).croftResets c.val with
       | some r =>
         if r.start + us 20 ≤ now d.toCtl then
           withCtl d fun d => startRetirement (modHam d h.val fun x => { x with croftResets := Tbl.erase x.croftResets c.val }) h.val c.val 0x81
         else d
       | none => d)
    | .retirement h =>
      (match (getHam d.toCtl h.val).retirement with
       | some r => if r.start + ms 5 ≤ now d.toCtl then withCtl d fun d => startHamletReset d h.val 0 0x81 true else d
       | none => d)
    | .hamlet h =>
      (match (getHam d.toCtl h.val).reset with
       | some r =>
         if !r.release && decide (r.start + ms 2 + fenceExcess d.toCtl ≤ now d.toCtl) then
           withCtl d fun d => faultWarm d 0x81 h.val false [] []
         else d
       | none => d)
    | .warm =>
      (match d.pkg.warm with
       | some w =>
         if !w.workDone && decide (w.start + ms 180 + fenceExcess d.toCtl ≤ now d.toCtl) then fullReset d 0x81 true else d
       | none => d)
    | .full => if fullLate d.toCtl then withCtl d askPowerCycle else d

/-! ### Settings and jobs (R363, R386, R387, R396, R407, R410, R413) -/

/-- MB_CONTAIN_POLICY. -/
def mbContainPolicyBody : Body := fun d o => ok [] (modPkg d fun k => { k with policyPackage := fld o.args 0 1 == 1 })

/-- MB_CONTAIN_POLICY (R363). -/
def execMbContainPolicy (src : OrderSource) (s : State) : Host.Outcome State Fault Refusal :=
  onCtl s fun d => order d src 0x0600 (.ok []) (fun _ a => a.length != 1 || decide (1 < fld a 0 1)) mbContainPolicyBody

/-- A reset limit of five bytes: limit, window in s. -/
def argLimit (a : Bytes) (off : Nat) : ResetLimit := ⟨fld a off 1, fld a (off + 1) 4⟩

/-- A reset limit out of the ranges of R407. -/
def limitBad (l : ResetLimit) : Bool :=
  decide (l.limit < 1) || decide (15 < l.limit) || decide (l.window < 1) || decide (86400 < l.window)

/-- MB_RECOVERY_SET arguments out of form. -/
def recoverySetBad (a : Bytes) : Bool :=
  let fl := fld a 0 1
  a.length != 19 || decide (8 ≤ fl) || (bitOf fl 0 && (decide (fld a 1 1 < 1) || decide (64 < fld a 1 1))) ||
    (bitOf fl 1 && (decide (fld a 2 2 < 10) || decide (1000 < fld a 2 2))) ||
    (bitOf fl 2 && (limitBad (argLimit a 4) || limitBad (argLimit a 9) || limitBad (argLimit a 14)))

/-- The recovery settings that the flags of MB_RECOVERY_SET name (R392, R396, R407). -/
def setRecovery (a : Bytes) (k : Package) : Package :=
  let fl := fld a 0 1
  { k with
    hangMult := if bitOf fl 0 then fld a 1 1 else k.hangMult, fenceDeadline := if bitOf fl 1 then fld a 2 2 else k.fenceDeadline
    croftLimit := if bitOf fl 2 then argLimit a 4 else k.croftLimit
    hamletLimit := if bitOf fl 2 then argLimit a 9 else k.hamletLimit
    packageLimit := if bitOf fl 2 then argLimit a 14 else k.packageLimit }

/-- MB_RECOVERY_SET. -/
def mbRecoverySetBody : Body := fun d o => ok [] (modPkg d (setRecovery o.args))

/-- MB_RECOVERY_SET (R392, R396, R407). -/
def execMbRecoverySet (src : OrderSource) (s : State) : Host.Outcome State Fault Refusal :=
  onCtl s fun d => order d src 0x0601 (.ok []) (fun _ a => recoverySetBad a) mbRecoverySetBody

/-- A hamlet that only a full reset can return: too few crofts or channels (R203, R371). -/
def unfit (x : Hamlet) : Bool := x.hardOut || decide (croftCount x < 8) || decide ((chansInService x).length < 3)

/-- MB_RETURN_TO_SERVICE. -/
def mbReturnToServiceBody : Body := fun d o =>
  let h := fld o.args 1 1
  if fld o.args 0 1 = 0 then
    (if !(getHam d h).outOfService || unfit (getHam d h) then refuse 0x20 d
     else
       let d := modHam d h fun x => { x with outOfService := false, resetTimes := [] }
       (.pending [], startHamletReset d h o.jseq 0x80 false))
  else if !d.pkg.outOfService then refuse 0x20 d
  else
    (.pending [], startWarm d {
      jseq := o.jseq, start := now d, policy := false, counted := false, cause := 0x80, returning := true })

/-- MB_RETURN_TO_SERVICE (R410). -/
def execMbReturnToService (src : OrderSource) (s : State) : Host.Outcome State Fault Refusal :=
  onCtl s fun d => order d src 0x0603 (.ok []) (fun _ a =>
    a.length != 2 || decide (1 < fld a 0 1) || (fld a 0 1 == 0 && decide (32 ≤ fld a 1 1)) || (fld a 0 1 == 1 && fld a 1 1 != 0))
    mbReturnToServiceBody

/-- The job of an identity, with its slot. -/
def jobById (d : Ctl) (j : Nat) : Option (Nat × Job) := List.find? (fun (e : Nat × Job) => e.2.ident == j) d.jobs

/-- The slices of a 256-bit mask at byte 4. -/
def jobSlices (a : Bytes) : List Nat := (List.range 256).filter fun i => bitOf (fld a (4 + i / 8) 1) (i % 8)

/-- The slot of a job: its own, or the lowest free one. -/
def jobSlot (d : Ctl) (j : Nat) : Option Nat :=
  ((jobById d j).map Prod.fst).or ((List.range 64).find? fun k => (Tbl.find? d.jobs k).isNone)

/-- The job MB_JOB_SET describes: the generation set is not dead any more. -/
def argJob (d : Ctl) (a : Bytes) : Job :=
  let dead := (((jobById d (fld a 0 2)).map fun e => e.2.dead).getD []).filter (· != fld a 2 1)
  { ident := fld a 0 2, gen := fld a 2 1, abort := fld a 3 1 == 1, slices := jobSlices a, dead := dead }

/-- A slice of the arguments is in another job. -/
def jobClash (d : Ctl) (a : Bytes) : Bool :=
  d.jobs.any fun e => e.2.ident != fld a 0 2 && e.2.slices.any (jobSlices a).contains

/-- MB_JOB_SET. -/
def mbJobSetBody : Body := fun d o =>
  if jobClash d o.args then refuse 0x22 d
  else match jobSlot d (fld o.args 0 2) with
    | none => refuse 0x23 d
    | some k => ok [] { d with jobs := Tbl.set d.jobs k (argJob d o.args) }

/-- MB_JOB_SET (R386, R387). -/
def execMbJobSet (src : OrderSource) (s : State) : Host.Outcome State Fault Refusal :=
  onCtl s fun d => order d src 0x0604 (.ok []) (fun _ a => a.length != 36 || fld a 0 2 == 0 || decide (1 < fld a 3 1)) mbJobSetBody

/-- A job generation dies here and the other live packages are told (R413). -/
def declareDead (d : Ctl) (j g : Nat) : Ctl :=
  forEach (livePeers d) (jobDies d j g) fun d q => sendCtrl d 0x35 q 0 (BitVec.ofNat 64 (j + 65536 * g)) 0

/-- MB_JOB_DEAD: applied here and sent to every other live package. -/
def mbJobDeadBody : Body := fun d o =>
  let j := fld o.args 0 2
  let g := fld o.args 2 1
  match jobById d j with
  | none => refuse 0x20 d
  | some _ => ok [] (declareDead d j g)

/-- MB_JOB_DEAD (R413). -/
def execMbJobDead (src : OrderSource) (s : State) : Host.Outcome State Fault Refusal :=
  onCtl s fun d => order d src 0x0605 (.ok []) (fun _ a => a.length != 3 || fld a 0 2 == 0) mbJobDeadBody

/-- A command of the job is admitted or runs. -/
def jobBusy (d : Ctl) (j : Nat) : Bool :=
  d.cmds.any fun e => e.2.job == j && unsettled e.2 && (e.2.phase == .admitted || e.2.phase == .running)

/-- MB_JOB_CLEAR. -/
def mbJobClearBody : Body := fun d o =>
  let j := fld o.args 0 2
  match jobById d j with
  | none => refuse 0x20 d
  | some (k, _) =>
    if jobBusy d j then refuse 0x20 d
    else ok [] { d with jobs := Tbl.erase d.jobs k }

/-- MB_JOB_CLEAR (R387). -/
def execMbJobClear (src : OrderSource) (s : State) : Host.Outcome State Fault Refusal :=
  onCtl s fun d => order d src 0x0606 (.ok []) (fun _ a => a.length != 2 || fld a 0 2 == 0) mbJobClearBody

end Sys2Proof.Machine
end

