-- ==== Sys2Proof/Machine/Memory.lean ====
section
/-! DEFINITION. HBM error classes: what a read or a scrub finds, poison, weak rows, channel failure (R197 to R203). -/

namespace Sys2Proof.Machine
open Sys2Proof

/-! ### Blocks -/

/-- The other copy of a block, where it has two, is usable as far as the package knows (R198, R200, R201). -/
def goodCopy (d : Dev) (h block : Nat) : Bool :=
  match otherCopy d.toCtl h (64 * block) with
  | some x => !d.poison.contains (memKey h x)
  | none => false

/-- Channel of a 64 B block of hamlet `h`. -/
def blockChannel (d : Ctl) (h block : Nat) : Nat := channelOf (getHam d h) (64 * block)

/-- In-channel address of a 64 B block. -/
def blockAddr (d : Ctl) (h block : Nat) : Nat :=
  if threeChannel (getHam d h) then (threeMap (64 * block)).2 else (fourMap (64 * block)).2

/-! ### Classes -/

/-- CORRECTED (R197): counted, written back, its row marked at the third correction in 24 h. -/
def corrected (d : Ctl) (h block : Nat) : Ctl :=
  let ch := blockChannel d h block
  let row := 4 * Config.rowOf h ch (blockAddr d h block) + ch
  let times := within d (sec 86400) (Tbl.getD (getHam d h).rowCorrections row []) ++ [now d]
  let weak := decide (3 ≤ times.length) && !(getHam d h).weakRows.contains row
  let d := modHam d h fun x => { x with
    eccCe := addCount x.eccCe 1, writeBacks := if x.writeBacks.contains block then x.writeBacks else x.writeBacks ++ [block]
    rowCorrections := Tbl.set x.rowCorrections row times, weakRows := if weak then x.weakRows ++ [row] else x.weakRows }
  let d := countedFault d 7 h ch 1
  if weak then
    let f := fieldChannel h ch
    let line := row / 4
    emit (faultRecord d 7 8 1 h ch (hamHandle d h) 0xFFFF 0) (.rowWeak (f / 16) (f % 16) (Config.bankOf h ch line) line)
  else d

/-- CORRECTED_MIRROR, or the second copy of a spill block: the block is rewritten from its other copy (R197, R198); a mirror copy
the scrubber finds bad is rewritten from its primary (log 16, DEDUCED). -/
def correctedMirror (d : Ctl) (h block : Nat) : Ctl :=
  let d := modHam d h fun x => { x with eccCe := addCount x.eccCe 1 }
  faultRecord d 7 8 1 h (blockChannel d h block) (hamHandle d h) 0xFFFF 0

/-- A channel of hamlet `h` has failed (R188, R197, R202, R365): it is RETIRING, and its retirement begins or waits for a larger
recovery. -/
def channelFails (d : Ctl) (h c : Nat) : Ctl :=
  let x := getHam d h
  if chanState x c ≠ .inService then d
  else
    let pkg := d.pkg.policyPackage
    let d := faultRecord d 7 (if pkg then 10 else 3) 2 h c (hamHandle d h) 0xFFFF 0
    let d := emit d (.alertManager (.hamlet h))
    let d := modHam d h fun x => { x with channels := Tbl.set x.channels c .retiring }
    if d.pkg.warm.isSome ∨ pkg then faultWarm d 7 h true [] []
    else if x.retirement.isSome ∨ x.reset.isSome then modHam d h fun x => { x with channelWaiting := x.channelWaiting ++ [c] }
    else mirrorStep d (.hamlet h) 0 (failChannel d h c)

/-- Models and contexts that lose a page (R197): a model with its own page there, every model that maps the tenant-data
page, the contexts whose context page it is. -/
def losePage (d : Ctl) (h page : Nat) : Ctl :=
  let lost (m : Model) : Bool := inRegion m h 0 page || inRegion m h 1 page || mapsData m h page
  loseModels (tearKeys d (contextsOn d h (· == page))) lost St.memory

/-- UNCORRECTABLE (R197): the block is poisoned, its reader ends as `first` says, and what it held is lost; 16 blocks of a channel
found so within 60 s fail the channel. -/
def uncorrectable (d : Dev) (h block : Nat) (first : Ctl → Ctl) : Dev :=
  let key := memKey h (64 * block)
  let d := { d with poison := if d.poison.contains key then d.poison else d.poison ++ [key] }
  withCtl d fun d =>
    let ch := blockChannel d h block
    let times := (Tbl.getD (getHam d h).ueTimes ch []).filter fun e => e.1 != block && decide (now d < e.2 + sec 60)
    let times := times ++ [(block, now d)]
    let d := modHam (ueEvent d h (64 * block)) h fun x => { x with ueTimes := Tbl.set x.ueTimes ch times }
    let d := losePage (first d) h (64 * block / 4096)
    settled (if 16 ≤ times.length then channelFails d h ch else d)

/-- Resident range content of a shadow block that no copy holds is written back to it from the scratchpad (R201). -/
def shadowIntact (d : Dev) (h block : Nat) : Option Bytes :=
  let off := 64 * block
  d.models.findSome? fun e => (e.2.records.filter fun r => r.hamlet == h).findSome? fun r =>
    let base := 4096 * (regionOf e.2 r 1).1
    (packed r.residents (zeros (4096 * r.shadowPages))).findSome? fun w =>
      let at_ := base + (((r.residents.takeWhile fun g => g.off != w.1).map Range.len).foldl (· + ·) 0)
      let src := aliasBase + w.1 + (off - at_)
      if at_ ≤ off ∧ off + 64 ≤ at_ + w.2.length ∧ !isPoisoned d.poison h src 64 then
        some (Mem.readBytes d.mem (memKey h src) 64)
      else none

/-- What a read of a block finds is acted on (R197 to R201): the state, and whether the read failed; `first` is what then becomes of
its reader. A poisoned block stays UNCORRECTABLE. -/
def eccRead (d : Dev) (h block : Nat) (cls : EccClass) (first : Ctl → Ctl) : Dev × Bool :=
  if d.poison.contains (memKey h (64 * block)) then (uncorrectable d h block first, true)
  else match cls with
  | .clean => (d, false)
  | .linkRetried =>
    (withCtl d fun d => countedFault (modHam d h fun x => { x with eccLink := addCount x.eccLink 1 }) 7 h (blockChannel d h block) 1,
      false)
  | .corrected => (withCtl d fun d => corrected d h block, false)
  | .uncorrectable copyBad =>
    if goodCopy d h block && !copyBad then (withCtl d fun d => correctedMirror d h block, false)
    else match shadowIntact d h block with
      | some bs => (withCtl (storeBytes d h (64 * block) bs) fun d => corrected d h block, false)
      | none => (uncorrectable d h block first, true)

/-- The hamlet's memory is read: granted, and the block in its window. -/
def readable (d : Ctl) (h block : Nat) : Bool :=
  let x := getHam d h
  d.pkg.life == .operating && (x.assign == .granted || x.assign == .releasing) && decide (64 * block < hbmSize x)

/-- PATROL_SCRUB (R197, R199): no command reads. -/
def execPatrolScrub (h : Fin 32) (block : Nat) (cls : EccClass) (s : State) : Host.Outcome State Fault Refusal :=
  onDev s fun d => if readable d.toCtl h.val block then (eccRead d h.val block cls id).1 else d

/-- A committed command's spill block is lost in both copies (R198): the command completes FAULT/MEMORY; every context and
tenant-data range its set writes is torn down and every model it writes that is not mirrored is unloaded; the hamlet escalates to a
reset. -/
def loseSpill (d : Ctl) (h id : Nat) (c : Cmd) : Ctl :=
  let pages (q : Nat) : List Nat := c.writes.filterMap fun w => if w.1 / 2 ^ 43 = q then some (w.1 % 2 ^ 43 / 4096) else none
  let hit (m : Model) : Bool := (List.range 32).any fun q => (pages q).any fun p =>
    mapsData m q p || (!mirroredIn m q && (inRegion m q 0 p || inRegion m q 1 p))
  let own := if isContextOp c.opcode then [ctxKey c.slice c.context] else []
  let ks := own ++ ((List.range 32).flatMap fun q => contextsOn d q (pages q).contains).filter fun k => !own.contains k
  let d := modCmd d id fun c => { c with status := some St.memory, payload := none, resultLen := 0 }
  hamletFault (loseModels (tearKeys d ks) hit St.memory) h 7

/-- HBM_UNCORRECTABLE (R197, R198): a read, by a command or for another package. -/
def execHbmUncorrectable (h : Fin 32) (block : Nat) (cls : EccClass) (reader : Option Nat) (s : State) :
    Host.Outcome State Fault Refusal :=
  onDev s fun d =>
    if !readable d.toCtl h.val block then d
    else
      let spill := isSpill d.toCtl h.val (64 * block / 4096)
      match reader.bind fun c => (Tbl.find? d.cmds c).map fun k => (c, k) with
      | none => (eccRead d h.val block cls id).1
      | some (c, k) =>
        if k.token && spill then
          let r := eccRead d h.val block cls id
          if r.2 then withCtl r.1 fun d => loseSpill d h.val c k else r.1
        else (eccRead d h.val block cls fun d => settled (discard d c St.memory)).1

/-- CORRECTED_WRITEBACK (R197, R199): the corrected block is written back; a commit since then stands. -/
def execCorrectedWriteback (h : Fin 32) (block : Nat) (s : State) : Host.Outcome State Fault Refusal :=
  onCtl s fun d => modHam d h.val fun x => { x with writeBacks := x.writeBacks.filter (· != block) }

/-- CHANNEL_FAILURE (R197, R202, R203). -/
def execChannelFailure (h : Fin 32) (ch : Fin 4) (s : State) : Host.Outcome State Fault Refusal :=
  onCtl s fun d => if d.pkg.life = .operating then channelFails d h.val ch.val else d

end Sys2Proof.Machine
end

