-- ==== Sys2Proof/Machine/Faults.lean ====
section
/-! DEFINITION. Fault detectors and what each first does (R46, R47, R366 to R378, R534, R538, R539). -/

namespace Sys2Proof.Machine
open Sys2Proof

/-- Detectors of hamlets watch while the package operates. -/
def watching (d : Ctl) : Bool := d.pkg.life == .operating

/-- The action class of a detection a hamlet contains: 10 under PACKAGE (R365, R376). -/
def contained (d : Ctl) (action : Nat) : Nat := if d.pkg.policyPackage then 10 else action

/-- An ALERT record; repeats of one detector and unit within a second are folded (R378, R538). -/
def alertFault (d : Ctl) (detector unit sub : Nat) : Ctl :=
  let same (r : FaultRecord) : Bool :=
    r.severity == 1 && r.detector == detector && r.unit == unit && decide (now d < r.stamp + sec 1)
  if d.reeve.faultLog.any same then
    setAlert (modReeve d fun x => { x with
      faultLog := x.faultLog.map fun r => if same r then { r with count := satAdd 32 r.count 1 } else r }) 0x100
  else faultRecord d detector 8 1 unit sub 0 0xFFFF 0

/-! ### Croft detectors (R367, R369) -/

/-- The command bound to a logical core of hamlet `h`. -/
def cmdOnCore (d : Ctl) (h core : Nat) : Option (Nat × Cmd) :=
  ((inStates d h [.bound]).find? fun e => e.2.2.cores.contains core).map fun e => (e.1, e.2.1)

/-- A croft detection: its record, the culprit's end, and the croft's retirement (R368, R369). -/
def croftFault (d : Ctl) (detector h croft core : Nat) : Ctl :=
  let hit := (logicalCore (getHam d h) croft core).bind (cmdOnCore d h)
  let st := if d.pkg.policyPackage then St.hamletReset else St.compute
  let slice := (hit.map fun e => e.2.slice).getD 0xFFFF
  let d := faultRecord d detector (contained d 2) 2 h croft (hamHandle d h) slice 0
  let d := match hit with | some e => discard d e.1 st | none => d
  startRetirement d h croft detector

/-- CORE_ECC (R367). -/
def execCoreEcc (h : Fin 32) (croft : Fin 13) (core : Fin 72) (corrected : Bool) (s : State) :
    Host.Outcome State Fault Refusal :=
  onCtl s fun d =>
    if !watching d then d
    else if corrected then countedFault d 1 h croft 1 else croftFault d 1 h croft core

/-- MILL_RESIDUE (R367). -/
def execMillResidue (h : Fin 32) (croft : Fin 13) (core : Fin 72) (s : State) : Host.Outcome State Fault Refusal :=
  onCtl s fun d => if watching d then croftFault d 2 h croft core else d

/-- DISPATCH (R367). -/
def execDispatch (h : Fin 32) (croft : Fin 13) (core : Fin 72) (s : State) : Host.Outcome State Fault Refusal :=
  onCtl s fun d => if watching d then croftFault d 4 h croft core else d

/-- A bound command touches a scratchpad offset: a core of the croft is its own, or a range it names holds the offset. -/
def touches (d : Ctl) (k off : Nat) (e : Nat × Cmd × Part) : Bool :=
  let held (l : List Range) : Bool := l.any fun r => decide (r.off ≤ off) && decide (off < r.off + r.len)
  e.2.2.cores.any (fun c => croftOfCore c == k) || ((cmdEntry d e.2.1).map fun n => held n.ranges).getD false ||
    ((cmdModel d e.2.1).map fun m => m.records.any fun r => held r.residents).getD false

/-- The slice of the first of the commands a detection discards, for its fault record (R376; DESIGN CHOICE, log 55). -/
def sliceOf (d : Ctl) (ids : List Nat) : Nat := ((ids.head?.bind (Tbl.find? d.cmds)).map Cmd.slice).getD 0xFFFF

/-- An uncorrected scratchpad error at offset `at_` in logical croft `k`, physical croft `c` (R367, R369): the word is poisoned,
the commands touching it end, and the second error within 60 s retires the croft. -/
def spadLost (d : Dev) (h c k at_ : Nat) : Dev :=
  let key := memKey h (aliasBase + at_ / 64 * 64)
  let d := { d with poison := if d.poison.contains key then d.poison else d.poison ++ [key] }
  withCtl d fun d =>
    let times := within d (sec 60) (Tbl.getD (getHam d h).spadErrors c []) ++ [now d]
    let again := decide (2 ≤ times.length)
    let d := modHam d h fun x => { x with spadErrors := Tbl.set x.spadErrors c times }
    let hit := ((inStates d h [.bound]).filter (touches d k at_)).map Prod.fst
    let d := faultRecord d 3 (if again then contained d 2 else 1) 2 h c (hamHandle d h) (sliceOf d hit) 0
    let d := forEach hit d fun d c => discard d c St.compute
    if again then startRetirement d h c 3 else settled d

/-- SPAD_ECC (R367): the first uncorrected error of a croft ends the commands touching the word, the second within 60 s
retires the croft. -/
def execSpadEcc (h : Fin 32) (croft : Fin 13) (off : Nat) (corrected : Bool) (s : State) : Host.Outcome State Fault Refusal :=
  onDev s fun d =>
    let h := h.val
    let c := croft.val
    if !watching d.toCtl then d
    else if corrected then withCtl d fun d => countedFault d 3 h c 1
    else match logCroft (getHam d.toCtl h) c with
      | none => d
      | some k => spadLost d h c k (4194304 * k + off % 4194304)

/-! ### Hamlet detectors (R367, R368, R380) -/

/-- The commands of a list that stage in hamlet `h`: here, or under a grant of it. -/
def stagedAt (d : Ctl) (h : Nat) (l : List Nat) : List Nat :=
  l.filter fun c => ((Tbl.find? d.cmds c).map fun k => inHamlet d h k || stagersOf d h k).getD false

/-- GRANARY_ECC (R367): the commands staged in the word end; a hard bank takes the hamlet out of service. -/
def execGranaryEcc (h : Fin 32) (bank : Nat) (kind : GranaryError) (touched : List Nat) (s : State) :
    Host.Outcome State Fault Refusal :=
  onCtl s fun d =>
    let h := h.val
    if !watching d then d
    else match kind with
      | .corrected => countedFault d 5 h (bank % 256) 1
      | .uncorrected =>
        let hit := stagedAt d h touched
        let d := faultRecord d 5 1 2 h 0xFF (hamHandle d h) (sliceOf d hit) 0
        settled (forEach hit d fun d c => discard d c St.compute)
      | .hardBank =>
        if d.pkg.policyPackage then
          faultWarm (faultRecord d 5 10 2 h 0xFF (hamHandle d h) 0xFFFF 0) 5 h true [] [h]
        else
          let d := discardWhere d (fun _ c => inHamlet d h c || stagersOf d h c) St.hamletReset
          settled (internalStep d (.hamlet h) fun d j => leaveService d h 5 j false)

/-- TALLY_VOTE (R367): one wrong copy is rewritten; three different copies lose the tally, whose value is then open (log 19),
and reset the hamlet. -/
def execTallyVote (h : Fin 32) (idx : Fin 256) (allDiffer : Bool) (s : State) : Host.Outcome State Fault Refusal :=
  onCtl s fun d =>
    let h := h.val
    if !watching d then d
    else if !allDiffer then countedFault d 6 h 0xFF 1
    else
      let d := faultRecord d 6 (contained d 4) 2 h 0xFF (hamHandle d h) 0xFFFF 0
      let v : W32 := BitVec.ofNat 32 (leNat (drawBytes d 4))
      hamletFault (modTally (drawn d) (fieldTally d h idx) fun y => { y with value := v }) h 6

/-! ### Package fabric detectors (R46, R47, R366) -/

/-- BRIDGE (R367): a flit's retries are counted; the eighth that fails is a package fabric fault. -/
def execBridge (f : Fin 4) (retries : Nat) (s : State) : Host.Outcome State Fault Refusal :=
  onCtl s fun d =>
    if !awake d then d
    else
      let d := modPkg d fun k => { k with bridgeRetry := Tbl.modify k.bridgeRetry f.val 0 fun n => addCount n retries }
      if retries < 8 then countedFault d 0xA 0xFFFF 0xFF retries
      else failPackage (modPkg d fun k => { k with bridgeBad := k.bridgeBad ++ [f.val] }) 0xA 0xFFFF 0xFF

/-- FIELD_NET (R367). -/
def execFieldNet (f : Fin 4) (s : State) : Host.Outcome State Fault Refusal :=
  onCtl s fun d =>
    if awake d then failPackage (modPkg d fun k => { k with bridgeBad := k.bridgeBad ++ [8 + f.val] }) 0xB 0xFFFF 0xFF else d

/-- HEARTH_SRAM (R367): a cache entry is fetched again; anything else is a package fabric fault. -/
def execHearthSram (cache : Bool) (s : State) : Host.Outcome State Fault Refusal :=
  onCtl s fun d => if !awake d then d else if cache then alertFault d 0xF 0xFFFF 0xFF else failPackage d 0xF 0xFFFF 0xFF

/-- CRYPTO_KAT (R367): an engine's known-answer test failed. -/
def execCryptoKat (engine : Fin 16) (s : State) : Host.Outcome State Fault Refusal :=
  onCtl s fun d => failPackage d 0x10 0xFFFF engine.val

/-- CLOCK (R47, R479): the root PLL loses lock or REFCLK is absent for more than 1 µs; self-test only stops. -/
def execClock (s : State) : Host.Outcome State Fault Refusal :=
  onCtl s fun d =>
    let d := modPkg d fun k => { k with refclk := false }
    if d.pkg.life = .selftest then d else failPackage d 0x11 0xFFFF 0xFF

/-- RAIL (R477, R534). -/
def execRail (rail : Fin 9) (s : State) : Host.Outcome State Fault Refusal :=
  onCtl s fun d => failPackage d 0x12 0xFFFF rail.val

/-! ### Thermal detectors (R538, R539) -/

/-- Sensors of a die: 16 on a Field, 8 on the Hearth. -/
def sensorsOf (die : Nat) : Nat := if die < 4 then 16 else 8

/-- A reading in 1/16 °C is out of its die: below −40 °C, or more than 20 °C from the mean of the others. -/
def sensorOut (l : List (Nat × Int)) (e : Nat × Int) : Bool :=
  let others := l.filter fun x => x.1 != e.1
  let n : Int := others.length
  let sum := others.foldl (fun a x => a + x.2) 0
  decide (e.2 < -640) || (!others.isEmpty && decide (320 * n < (n * e.2 - sum).natAbs))

/-- THERMAL_SAMPLE (R538): readings of a die's sensors in 1/16 °C. -/
def thermalSample (d : Ctl) (die : Nat) (readings : List Int) : Ctl :=
  let kept := ((List.range (sensorsOf die)).zip readings).filter fun e => !d.pkg.excluded.contains (die, e.1)
  let out := kept.filter (sensorOut kept)
  let good := kept.filter fun e => !sensorOut kept e
  let d := modPkg d fun k => { k with excluded := k.excluded ++ out.map fun e => (die, e.1) }
  let d := if out.isEmpty then d else alertFault d 0x13 0xFFFF 0xFF
  let d := match good with
    | [] => d
    | a :: l => modPkg d fun k => { k with temps := Tbl.set k.temps die (l.foldl (fun m e => max m e.2) a.2) }
  let cool := d.pkg.temps.all fun e => decide (e.2 ≤ 1632)
  let hot := good.any fun e => decide (1680 < e.2)
  let since := d.pkg.coolSince.getD (now d)
  let d := modPkg d fun k => { k with
    coolSince := if cool && !hot then some since else none
    thermal := hot || (k.thermal && !(cool && decide (since + sec 1 ≤ now d))) }
  let d := if hot then alertFault d 0x13 0xFFFF 0xFF else d
  if 2 * (sensorsOf die - (d.pkg.excluded.filter fun e => e.1 == die).length) < sensorsOf die then failPackage d 0x13 0xFFFF 0xFF
  else d

/-- THERMAL_SAMPLE (R538). -/
def execThermalSample (die : Fin 5) (readings : List Int) (s : State) : Host.Outcome State Fault Refusal :=
  onCtl s fun d => if awake d && d.pkg.life != .failed then thermalSample d die.val readings else d

/-- THERMTRIP (R539): a package fabric fault that no self-test follows; latched until PWR_OK deasserts. With the dies already in
reset it is latched alone (18, "A THERMTRIP comparator trips while PKG_RESET_N is asserted"). -/
def execThermtrip (die : Fin 5) (s : State) : Host.Outcome State Fault Refusal :=
  onCtl s fun d =>
    if !awake d then (if d.pkg.pwrOk ∧ d.pkg.life ≠ .off then modPkg d fun k => { k with thermtrip := true } else d)
    else modPkg (failPackage d 0x14 0xFFFF die.val) fun k => { k with thermtrip := true }

/-! ### The Reeve pairs (R372 to R374) -/

def pairState (r : Reeve) (p : Nat) : PairState := if p = 0 then r.pair0 else r.pair1

def setPair (r : Reeve) (p : Nat) (v : PairState) : Reeve := if p = 0 then { r with pair0 := v } else { r with pair1 := v }

def failTimes (r : Reeve) (p : Nat) : List Nat := if p = 0 then r.failTimes0 else r.failTimes1

/-- Pair `p` fails: it runs its own BIST, or stays out at its third failure in 3,600 s. -/
def pairFails (d : Ctl) (p : Nat) : Ctl :=
  let ts := within d (sec 3600) (failTimes d.reeve p) ++ [now d]
  modReeve d fun r =>
    let r := setPair r p (if 3 ≤ ts.length then .out else .selftest)
    if p = 0 then { r with failTimes0 := ts } else { r with failTimes1 := ts }

/-- A detection on pair `p` (R372 to R374): takeover by the standby, its loss, or the last pair's. -/
def reeveFault (d : Ctl) (detector p : Nat) : Ctl :=
  match pairState d.reeve p with
  | .active =>
    if pairState d.reeve (1 - p) = .standby ∧ !d.reeve.takeover then
      modReeve (pairFails (faultRecord d detector 7 2 p 0xFF 0 0xFFFF 0) p) fun r => { r with takeover := true }
    else failPackage (pairFails d p) detector p 0xFF
  | .standby =>
    if d.reeve.takeover then failPackage (pairFails d p) detector p 0xFF
    else pairFails (faultRecord d detector 7 2 p 0xFF 0 0xFFFF 0) p
  | _ => d

/-- REEVE_LOCK (R372, R374). -/
def execReeveLock (pair : Fin 2) (s : State) : Host.Outcome State Fault Refusal :=
  onCtl s fun d => if awake d then reeveFault d 0xC pair.val else d

/-- REEVE_WDOG (R372, R374). -/
def execReeveWdog (pair : Fin 2) (s : State) : Host.Outcome State Fault Refusal :=
  onCtl s fun d => if awake d then reeveFault d 0xD pair.val else d

/-- REEVE_TAKEOVER_DONE (R372): the standby pair is active; the journal goes on. -/
def execReeveTakeoverDone (s : State) : Host.Outcome State Fault Refusal :=
  onCtl s fun d =>
    if !d.reeve.takeover then d
    else modReeve d fun r =>
      let p := 1 - r.active
      { setPair r p .active with active := p, takeover := false, takeovers := min 255 (r.takeovers + 1) }

/-- REEVE_PAIR_RETURN (R373): the failed pair's BIST ends; passed, it is standby. -/
def execReevePairReturn (pair : Fin 2) (pass : Bool) (s : State) : Host.Outcome State Fault Refusal :=
  onCtl s fun d =>
    if pairState d.reeve pair.val = .selftest then
      modReeve d fun r => setPair r pair.val (if pass then .standby else .out)
    else d

/-! ### Triplicated fields (R375) -/

/-- The hamlet a /T field belongs to; none for the Hearth's. -/
def fieldHamlet : TmrField → Option Nat
  | .hamletAssign h | .hamletGen h | .croftMap h | .channels h | .almanac h => some h.val
  | .containPolicy | .ownerMap _ | .wayMasks _ | .sliceBinding _ | .sliceGen _ | .strongboxSlots => none

/-- One finding: an odd copy is rewritten and counted; a lost field resets its hamlet, after which the Reeve rewrites it from
the journal, or is a package fabric fault. -/
def tmrFinding (d : Ctl) (f : TmrFinding) : Ctl :=
  let unit := (fieldHamlet f.field).getD 0xFFFF
  if !f.allDiffer then countedFault (modReeve d fun r => { r with tmrCorr := addCount r.tmrCorr 1 }) 0xE unit 0xFF 1
  else match fieldHamlet f.field with
    | some h => hamletFault (faultRecord d 0xE (contained d 4) 2 h 0xFF (hamHandle d h) 0xFFFF 0) h 0xE
    | none => failPackage d 0xE 0xFFFF 0xFF

/-- TMR_REREAD (R375). -/
def execTmrReread (odd : List TmrFinding) (s : State) : Host.Outcome State Fault Refusal :=
  onCtl s fun d => if watching d then odd.foldl tmrFinding d else d

end Sys2Proof.Machine
end

