-- ==== Sys2Proof/Machine/Charter.lean ====
section
/-! DEFINITION. The charter in flash: records, validity, the copy in force, the running values it gives, and firmware copies
(R483, R485 to R489). Layouts of the fields whose widths the spec does not give are the model's own (log 14). -/

namespace Sys2Proof.Machine
open Sys2Proof

/-! ### Records (R485, R486) -/

/-- Bytes a value fills with its padding. -/
def padded (n : Nat) : Nat := (n + 3) / 4 * 4

/-- `n` records from the front of a byte string that they fill exactly: tag, value. -/
def readRecords : Nat → Bytes → Option (List (Nat × Bytes))
  | 0, b => if b.isEmpty then some [] else none
  | n + 1, b =>
    let len := fld b 2 2
    if b.length < 4 + padded len then none
    else (readRecords n (b.drop (4 + padded len))).map fun l => (fld b 0 2, sub b 4 len) :: l

/-- A record's bytes. -/
def recordOf (r : Nat × Bytes) : Bytes := padTo (4 + padded r.2.length) (leBytes 2 r.1 ++ leBytes 2 r.2.length ++ r.2)

/-- A reset limit and window of R407. -/
def limitOk (v : Bytes) (off : Nat) : Bool :=
  let n := fld v off 1
  let w := fld v (off + 1) 4
  decide (1 ≤ n ∧ n ≤ 15 ∧ 1 ≤ w ∧ w ≤ 86400)

/-- PCIE_HA and PCIE_HB: width, 0 SRIS or 1 COMMON, highest rate in units of 0.5 GT/s. -/
def pcieOk (v : Bytes) : Bool :=
  v.length == 4 && (fld v 0 1 == 8 || fld v 0 1 == 16) && decide (fld v 1 1 ≤ 1) && [5, 10, 16, 32, 64, 128].contains (fld v 2 2)

/-- A first address byte of a unicast address. -/
def unicast (v : Bytes) : Bool := decide (1 ≤ fld v 0 1 ∧ fld v 0 1 ≤ 223)

/-- The ranges of PTP_PARAMS: domain, sdoId, delay mechanism, announceReceiptTimeout, transport. -/
def ptpOk (v : Bytes) : Bool :=
  v.length == 6 && decide (fld v 0 1 ≤ 127) && decide (fld v 3 1 ≤ 1) && decide (2 ≤ fld v 4 1 ∧ fld v 4 1 ≤ 10) &&
    decide (fld v 5 1 ≤ 1)

/-- The signed 32-bit number at byte `off`. -/
def signed32 (v : Bytes) (off : Nat) : Int := (BitVec.ofNat 32 (fld v off 4)).toInt

/-- Step threshold in µs, holdover limit in s and asymmetry in ps within their ranges (R460, R462, R465). -/
def servoOk (threshold holdover : Nat) (asym : Int) : Bool :=
  decide (1 ≤ threshold ∧ threshold ≤ 1000000 ∧ 1 ≤ holdover ∧ holdover ≤ 86400) &&
    decide (-100000 ≤ asym ∧ asym ≤ 100000)

/-- A value of a user charter field is in range; MGMT_KEY is stored as ciphertext and tag (R486, R489). -/
def fieldOk (tag : Nat) (v : Bytes) : Bool :=
  match tag with
  | 1 => v.length == 1 && decide (fld v 0 1 ≤ 1)
  | 2 => v.length == 1 && decide (1 ≤ fld v 0 1 ∧ fld v 0 1 ≤ 64)
  | 3 => v.length == 2 && decide (10 ≤ fld v 0 2 ∧ fld v 0 2 ≤ 1000)
  | 4 => v.length == 15 && limitOk v 0 && limitOk v 5 && limitOk v 10
  | 5 => v.length == 1 && decide (fld v 0 1 ≤ 3)
  | 6 => v.length == 1 && decide (fld v 0 1 ≤ 2)
  | 7 => ptpOk v
  | 8 => v.length == 14 && servoOk (fld v 0 4) (fld v 4 4) (signed32 v 10) && decide (fld v 8 1 ≤ 1 ∧ fld v 9 1 ≤ 1)
  | 9 => v.length == 9 && (allZero v || (unicast v && decide (fld v 4 1 ≤ 32)))
  | 10 => v.length == 48
  | 11 => pcieOk v
  | 12 => pcieOk v
  | _ => false

/-! ### Copies (R485, R487, R488) -/

/-- The region of a user copy: 256 KiB, of which 96 B are kept for a signature. -/
def charterMax : Nat := 256 * 1024 - 96

/-- CRC-32C of a copy over bytes 0 to 59 and 64 to its length. -/
def charterCrc (b : Bytes) (len : Nat) : W32 := crc32c (b.take 60 ++ sub b 64 (len - 64))

/-- The records of a user copy that is valid under R487. -/
def copyRecords (b : Bytes) : Option (List (Nat × Bytes)) :=
  let len := fld b 12 4
  if fld b 0 4 ≠ 0x52544843 ∨ fld b 4 2 ≠ 1 ∨ fld b 6 1 ≠ 1 ∨ fld b 7 1 ≠ 0 ∨ len < 64 ∨ charterMax < len ∨ len % 4 ≠ 0 ∨
      b.length < len ∨ fld b 24 8 ≠ Config.serial.toNat ∨ !allZero (sub b 32 28) ∨ fld b 60 4 ≠ (charterCrc b len).toNat then none
  else (readRecords (fld b 16 4) (sub b 64 (len - 64))).filter fun l =>
    l.all (fun r => fieldOk r.1 r.2) && (l.map Prod.fst).Nodup

/-- The copy in force: whether it is copy B, and its bytes; of two valid ones the higher sequence, A between equals. -/
def inForce (k : Package) : Option (Bool × Bytes) :=
  let a := k.copyA.bytes
  let b := k.copyB.bytes
  match (copyRecords a).isSome, (copyRecords b).isSome with
  | true, true => if fld a 8 4 < fld b 8 4 then some (true, b) else some (false, a)
  | true, false => some (false, a)
  | false, true => some (true, b)
  | false, false => none

/-- The records in force. -/
def recordsInForce (k : Package) : List (Nat × Bytes) := ((inForce k).bind fun c => copyRecords c.2).getD []

/-- The value in force of a tag, none where the factory value holds. -/
def charterValue (k : Package) (tag : Nat) : Option Bytes :=
  (List.find? (fun r => r.1 == tag) (recordsInForce k)).map Prod.snd

/-- A user copy of the records `l` under a sequence. -/
def buildCopy (seq : Nat) (l : List (Nat × Bytes)) : Bytes :=
  let recs := l.flatMap recordOf
  let hd := leBytes 4 0x52544843 ++ leBytes 2 1 ++ [1, 0] ++ leBytes 4 seq ++ leBytes 4 (64 + recs.length) ++
    leBytes 4 l.length ++ zeros 4 ++ leBytes 8 Config.serial.toNat ++ zeros 28
  hd ++ leBytes 4 (crc32c (hd ++ recs)).toNat ++ recs

/-- The key that wraps MGMT_KEY in flash, derived from the device identity seed (R489). -/
def charterKey : Bytes := hkdf (zeros 48) Config.identitySeed ("pyvan charter".toList.map fun c => BitVec.ofNat 8 c.toNat) 32

def wrapMgmt (key : Bytes) : Bytes :=
  let x := gcmSeal charterKey (zeros 12) [] key
  x.1 ++ x.2

def unwrapMgmt (v : Bytes) : Option Bytes := gcmOpen charterKey (zeros 12) [] (v.take 32) (v.drop 32)

/-! ### Running values at phase 3 (R480, R487 to R489) -/

def limitAt (v : Bytes) (off : Nat) : ResetLimit := ⟨fld v off 1, fld v (off + 1) 4⟩

def roleOf (n : Nat) : TimeRole :=
  match n with
  | 0 => .standalone
  | 1 => .leader
  | 2 => .backup
  | _ => .follower

def pcieOf (v : Bytes) : PcieOptions := ⟨fld v 0 1, fld v 2 2, fld v 1 1 == 1⟩

/-- PTP parameters: domain, sdoId, delay mechanism, announceReceiptTimeout, transport. -/
def setPtp (t : TimeUnit) (domain sdo delay timeout udp : Nat) : TimeUnit :=
  { t with
    domain := BitVec.ofNat 8 domain, sdoId := BitVec.ofNat 16 sdo, peerDelay := delay == 1, announceTimeout := timeout
    udp := udp == 1 }

/-- One field's value comes into force. -/
def applyField (d : Ctl) (r : Nat × Bytes) : Ctl :=
  let v := r.2
  match r.1 with
  | 1 => modPkg d fun k => { k with policyPackage := fld v 0 1 == 1 }
  | 2 => modPkg d fun k => { k with hangMult := fld v 0 1 }
  | 3 => modPkg d fun k => { k with fenceDeadline := fld v 0 2 }
  | 4 => modPkg d fun k => { k with croftLimit := limitAt v 0, hamletLimit := limitAt v 5, packageLimit := limitAt v 10 }
  | 5 => modTime d fun t => { t with role := roleOf (fld v 0 1) }
  | 6 => modTime d fun t => { t with config := fld v 0 1 }
  | 7 => modTime d fun t => setPtp t (fld v 0 1) (fld v 1 2) (fld v 3 1) (fld v 4 1) (fld v 5 1)
  | 8 => modTime d fun t => { t with
      stepThreshold := fld v 0 4, holdoverLimit := fld v 4 4, slewOnly := fld v 8 1 == 1, ppsOutEn := fld v 9 1 == 1
      asym := signed32 v 10 }
  | 9 => modPkg d fun k => { k with mgmtIp := v }
  | 10 => modPkg d fun k => { k with mgmtKey := unwrapMgmt v }
  | 11 => modPkg d fun k => { k with pcieA := pcieOf v }
  | 12 => modPkg d fun k => { k with pcieB := pcieOf v }
  | _ => d

/-- Phase 3: the values of the copy in force; a record with ALERT_N for an invalid copy (R480, R487). -/
def loadCharter (d : Ctl) : Ctl :=
  let bad (c : FlashCopy) : Bool := (copyRecords c.bytes).isNone
  let d := if bad d.pkg.copyA || bad d.pkg.copyB then faultRecord d 0x17 8 1 0xFFFF 0xFF 0 0xFFFF 0 else d
  match inForce d.pkg with
  | some c => ((copyRecords c.2).getD []).foldl applyField d
  | none => modPkg d fun k => { k with copiesInvalid := true }

/-! ### Firmware copies (R483) -/

/-- Header fields, in the order R483 lists them (log 14): magic, version, security version, body length, digest; the
signature lies in bytes 416 to 511. -/
def fwVersion (b : Bytes) : Nat := fld b 4 4

def fwSvn (b : Bytes) : Nat := fld b 8 4

def fwBody (b : Bytes) : Bytes := sub b 512 (fld b 12 4)

/-- A copy loads: magic, lengths, signature by the firmware key, digest, security version. -/
def fwLoads (fused : Nat) (b : Bytes) : Bool :=
  fld b 0 4 == 0x46575650 && decide (512 + fld b 12 4 ≤ b.length) && decide (fld b 12 4 ≤ 8 * 2 ^ 20 - 512) &&
    ecdsaVerify Config.firmwareKey (sha384 (b.take 416)) (sub b 416 96) && sha384 (fwBody b) == sub b 16 48 &&
    decide (fused ≤ fwSvn b)

/-- The copy the Hearth ROM loads: the higher version first among those whose magic is correct, A
between equal versions (DESIGN CHOICE, log 55). -/
def fwChoice (k : Package) : Option (Bool × Bytes) :=
  let a := k.firmwareA.bytes
  let b := k.firmwareB.bytes
  let first := fld b 0 4 == 0x46575650 && (fld a 0 4 != 0x46575650 || decide (fwVersion a < fwVersion b))
  let order := if first then [(true, b), (false, a)] else [(false, a), (true, b)]
  order.find? fun c => fwLoads k.fusedSvn c.2

end Sys2Proof.Machine
end

