-- ==== Sys2Proof/Machine/Migrate.lean ====
section
/-! DEFINITION. Migration of a slice (R352 to R361) and the end of a sheaf (R284, R327, R347). -/

namespace Sys2Proof.Machine
open Sys2Proof

/-! ### Freeze (R352, R353) -/

/-- 400 µs, the run-to-commit and stile window of a freeze. -/
def freezeWindow : Rat := 400000

/-- Remaining compiled time of a bound command, ns. -/
def remainingNs (d : Ctl) (c : Cmd) : Rat :=
  c.parts.foldl (fun a p => if p.2.state = .bound then max a (releaseIn d p.1 c p.2) else a) 0

/-- A claim on a tally of another package, held or staged. -/
def remoteClaim (d : Ctl) (c : Cmd) : Bool := c.claims.any fun k => tallyPkg k.name.toNat != pkgNum d

/-- What an image does not carry: remote grants, the writes staged under them, and remote claims (R355; DEDUCED, log 55). -/
def holdsRemote (d : Ctl) (c : Cmd) : Bool := !c.grants.isEmpty || remoteClaim d c

/-- Another command of the same model is on its way into the park area in hamlet `h`. -/
def areaTaken (d : Ctl) (h id : Nat) (c : Cmd) : Bool :=
  (inStates d h [.bound]).any fun e => e.1 != id && e.2.2.parkAt.isSome && runsModel e.2.1 == runsModel c

/-- The stile at which a freeze parks a bound command: within the window, with a free park area, and nothing remote held
(R353, R355). -/
def freezeStile (d : Ctl) (id : Nat) (c : Cmd) : Option (Nat × Stile) :=
  match c.parts, cmdEntry d c with
  | [(h, p)], some e =>
    if p.state ≠ .bound || holdsRemote d c || !parkFree d h c || areaTaken d h id c then none
    else
      let n := elapsedCycles d p
      ((nextStile e n).filter fun s => decide (cycNs (s.cycle - n) ≤ freezeWindow)).map fun s => (h, s)
  | _, _ => none

/-- The command stands at its stile and is being copied out. -/
def beingParked (c : Cmd) : Bool := c.parts.any fun p => p.2.parking && p.2.state == .bound

/-- A bound command of a freezing slice runs to its token, parks at its next stile, or is killed and withdrawn (R353). -/
def freezeBound (d : Ctl) (e : Nat × Cmd) : Ctl :=
  if remainingNs d e.2 ≤ freezeWindow ∨ (beingParked e.2 && !holdsRemote d e.2) then d
  else match freezeStile d e.1 e.2 with
    | some (h, s) => modPart d e.1 h fun p => { p with parkAt := some s, parking := false }
    | none => withdraw d e.1

/-- The slice may be frozen: ACTIVE, its tenant permitted, MIGRATION on, armed (R352). -/
def mayFreeze (d : Ctl) (i : Nat) : Bool :=
  let s := getSlice d i
  let permit := ((Tbl.find? d.tenants s.tenant).map Tenant.permitMigration).getD false
  s.state == .active && permit && featureOn s 10 && s.arm.isSome

/-- A freeze begins (R353): bound commands commit, park or are withdrawn, the others are withdrawn; a parked one that holds
something remote is killed, since an image does not carry it (R355). -/
def startFreeze (d : Ctl) (i j : Nat) : Ctl :=
  let d := shareUp d (modSlice d i fun s => { s with
    state := .frozen, saved := false, proc := some { kind := .freeze, jseq := j, start := now d } })
  let bound := d.cmds.filter fun (e : Nat × Cmd) =>
    e.2.slice == i && unsettled e.2 && e.2.parts.any fun p => p.2.state == .bound
  let d := bound.foldl freezeBound d
  let d := (d.cmds.filter fun (e : Nat × Cmd) => e.2.slice == i && unsettled e.2 && isParked e.2 && holdsRemote d e.2).foldl
    (fun d e => withdraw d e.1) d
  let d := withdrawWhere d i fun c => c.phase != .running || c.parts.any fun p => p.2.state != .staged
  advanceSlice (settled d) i

/-- MB_MIG_FREEZE. -/
def mbMigFreezeBody : Body := fun d o =>
  let i := fld o.args 0 1
  if mayFreeze d i then (.pending [], startFreeze d i o.jseq) else refuse 0x20 d

/-- MB_MIG_FREEZE (R352, R353). -/
def execMbMigFreeze (src : OrderSource) (s : State) : Host.Outcome State Fault Refusal :=
  onCtl s fun d => order d src 0x0700 (.ok []) (fun _ a => a.length != 1) mbMigFreezeBody

/-! ### What an image carries (R355) -/

/-- LANES: generation, enabled features, whether they were set, event sequence, lanes and their creations. -/
abbrev LanesBody := Byte × W64 × Bool × W32 × Tbl Lane × Tbl Nat
/-- PENDING: the withdrawn submissions. -/
abbrev PendingBody := List Cmd
/-- CONTEXTS: context, its record, and its pages by source hamlet. -/
abbrev ContextsBody := List (Nat × Context × List (Nat × List Bytes))
/-- PARKED: command, and its live state by source hamlet. -/
abbrev ParkedBody := List (Cmd × List (Nat × Bytes))
/-- TALLIES: hamlet, index, tally. -/
abbrev TalliesBody := List (Nat × Nat × Tally)
/-- ALMANAC: hamlet, its entries. -/
abbrev AlmanacBody := List (Nat × List AlmanacEntry)
/-- MODELS: handle, body tag. -/
abbrev ModelsBody := List (W32 × Bytes)

/-- The commands of a slice that were withdrawn, in the order they were accepted. -/
def pendingOf (d : Ctl) (i : Nat) : PendingBody :=
  sortBy acceptedBefore ((d.cmds.filter fun (e : Nat × Cmd) => e.2.slice == i && e.2.phase == .withdrawn).map Prod.snd)

/-- The parked commands of a slice. -/
def parkedOf (d : Ctl) (i : Nat) : List Cmd :=
  (d.cmds.filter fun (e : Nat × Cmd) => e.2.slice == i && unsettled e.2 && isParked e.2).map Prod.snd

/-- One context with the contents of its pages. -/
def contextItem (mem : List Host.Cell) (d : Ctl) (i k : Nat) (x : Context) : Nat × Context × List (Nat × List Bytes) :=
  let recs := ((Tbl.find? d.models x.model.toNat).map fun m => m.records.map fun r =>
    (r.hamlet, (pagesIn i k x.model.toNat m r).map fun g => readHbm mem d r.hamlet (4096 * g) 4096)).getD []
  (k, x, recs)

def contextsOf (mem : List Host.Cell) (d : Ctl) (i : Nat) : ContextsBody :=
  (d.contexts.filter fun (e : Nat × Context) => e.1 / 65536 == i).map fun e => contextItem mem d i (e.1 % 65536) e.2

/-- A parked command with the live state in its park areas. -/
def parkedItem (mem : List Host.Cell) (d : Ctl) (c : Cmd) : Cmd × List (Nat × Bytes) :=
  (c, c.parts.filterMap fun p =>
    (cmdModel d c).bind fun m => (parkBase m p.1).map fun b => (p.1, readHbm mem d p.1 b p.2.live))

/-- The Field tallies of a hamlet that are not at their reset values. -/
def talliesIn (d : Ctl) (h : Nat) : TalliesBody :=
  (List.range 256).filterMap fun n => (Tbl.find? d.tallies (fieldTally d h n)).map fun y => (h, n, { y with waiters := [] })

/-- The handles that the image's content names. -/
def modelsOf (d : Ctl) (i : Nat) : ModelsBody :=
  let used := (pendingOf d i ++ parkedOf d i).flatMap (fun c => [c.model, c.ranModel, c.policy]) ++
    ((d.contexts.filter fun (e : Nat × Context) => e.1 / 65536 == i).map fun e => e.2.model) ++
    (getSlice d i).lanes.map fun (e : Nat × Lane) => e.2.apprentice
  (used.eraseDups).filterMap fun h => (Tbl.find? d.models h.toNat).map fun m => (h, m.bodyTag)

/-! ### Image (R356) -/

/-- The nonce of element `k`. -/
def elementNonce (k : Nat) : Bytes := leBytes 4 k ++ zeros 8

/-- A section: header, ciphertext and tag, as element `k`. -/
def section_ (key : Bytes) (k type count : Nat) (body : Bytes) : Bytes :=
  let hd := leBytes 1 type ++ zeros 3 ++ leBytes 4 count ++ leBytes 8 body.length
  let x := gcmSeal key (elementNonce k) hd body
  hd ++ x.1 ++ x.2

/-- The seven sections of content, each by type, count and body. -/
def sectionsOf (mem : List Host.Cell) (d : Ctl) (i : Nat) (mask : List Nat) : List (Nat × Nat × Bytes) :=
  let s := getSlice d i
  let lanes : LanesBody := (s.gen, s.features, s.featuresSet, s.eventSeq,
    Tbl.mapVal s.lanes fun _ (l : Lane) => { l with stats := {}, delivered := [], slots := [], pinned := false, way := none }, s.laneCreations)
  let pend := pendingOf d i
  let ctxs := contextsOf mem d i
  let parked : ParkedBody := (parkedOf d i).map (parkedItem mem d)
  let tals : TalliesBody := mask.flatMap (talliesIn d)
  let alms : AlmanacBody := mask.map fun h => (h, (getHam d h).almanac.entries)
  let mods := modelsOf d i
  [(1, s.lanes.length, Config.migrationBody 1 lanes), (2, pend.length, Config.migrationBody 2 pend),
   (3, ctxs.length, Config.migrationBody 3 ctxs), (4, parked.length, Config.migrationBody 4 parked),
   (5, tals.length, Config.migrationBody 5 tals), (6, alms.length, Config.migrationBody 6 alms),
   (7, mods.length, Config.migrationBody 7 mods)]

/-- The image of a frozen slice, where its tenant and arm exist. -/
def imageOf (mem : List Host.Cell) (d : Ctl) (i : Nat) (mask : List Nat) : Option Bytes :=
  let s := getSlice d i
  match Tbl.find? d.tenants s.tenant, s.arm with
  | some t, some nonce =>
    let key := migrationKey t nonce
    let secs := sectionsOf mem d i mask ++ [(0xFF, 7, [])]
    let body := (secs.zipIdx 1).flatMap fun e => section_ key e.2 e.1.1 e.1.2.1 e.1.2.2
    let hd := leBytes 4 0x4D475250 ++ leBytes 2 1 ++ [0xB0] ++ leBytes 1 secs.length ++ leBytes 2 t.ident.toNat ++
      leBytes 1 (pkgNum d) ++ leBytes 1 i ++ leBytes 1 s.gen.toNat ++ leBytes 1 s.laneLimit ++ [0, 0] ++ padTo 16 nonce ++
      leBytes 8 s.frozenAt.toNat ++ leBytes 8 (64 + body.length)
    some (hd ++ gcmTag key (elementNonce 0) hd [] ++ body)
  | _, _ => none

/-! ### Save (R354) -/

/-- Every completion of the frozen slice has been written (R354). -/
def completionsWritten (d : Ctl) (i : Nat) : Bool :=
  !(d.cmds.any fun e => e.2.slice == i && e.2.phase != .withdrawn && !(unsettled e.2 && isParked e.2))

/-- The slice is FROZEN and armed with no procedure on it, and the port's link is up. -/
def migReady (d : Ctl) (i port : Nat) : Bool :=
  let s := getSlice d i
  s.state == .frozen && s.arm.isSome && s.proc.isNone && sheavesDone d i && (getPort d (portOf port)).linkUp

/-- The lowest resource that a transient guarantee of 50 GB/s would exceed. -/
def transientShort (d : Ctl) (port : Nat) (out : Bool) : Option Nat :=
  ((List.range 40).filter fun r => r == 5 || r == 6 || r == 2 * port + b2n out).find? fun r =>
    decide (reservable (cap d r) < guaranteed d r + 500)

/-- The other slices of the tenant are FROZEN, so that a hamlet mask may be saved. -/
def othersFrozen (d : Ctl) (i : Nat) : Bool :=
  let t := (getSlice d i).tenant
  (slicesWhere d fun s => s.tenant == t).all fun k => k == i || (getSlice d k).state == .frozen

/-- MB_MIG_SAVE arguments out of form. -/
def migSaveBad (a : Bytes) : Bool := badArgs a 24 [2, 3] || decide (1 < fld a 1 1)

/-- A save begins: the image is the journal entry's, and its sheaves wait in the carters (R354). -/
def startSave (d : Ctl) (i j : Nat) (img : Bytes) : Ctl :=
  let d := modEntry d j fun e => { e with image := .ok img }
  let d := modSlice d i fun s => { s with proc := some { kind := .save, jseq := j, start := now d } }
  serveSheaves (queueTransfer d i img.length true fun _ => .migration)

/-- MB_MIG_SAVE. -/
def mbMigSaveBody (mem : List Host.Cell) : Body := fun d o =>
  let i := fld o.args 0 1
  let port := fld o.args 1 1
  let mask := bitList 32 (fld o.args 4 4)
  if !migReady d i port || !completionsWritten d i then refuse 0x20 d
  else match imageOf mem d i mask with
    | none => refuse 0x20 d
    | some img =>
      if fld o.args 8 8 % 4096 ≠ 0 ∨ fld o.args 16 8 < img.length then (.done 0x23 (leBytes 4 (ceilDiv img.length 4096)), d)
      else if !mask.isEmpty && !othersFrozen d i then refuse 0x22 d
      else if mask.any fun h => !(tenantHamlets d (getSlice d i).tenant).contains h then refuse 0x21 d
      else match transientShort d port true with
        | some r => (.done 0x24 (leBytes 4 r), d)
        | none => (.pending (leBytes 8 img.length), startSave d i o.jseq img)

/-- MB_MIG_SAVE (R354 to R356, R523). -/
def execMbMigSave (src : OrderSource) (s : State) : Host.Outcome State Fault Refusal :=
  onCtl s fun d => order d src 0x0701 (.ok []) (fun _ a => migSaveBad a) (mbMigSaveBody s.mem)

/-- The image, arguments and port of the order of a slice's procedure. -/
def migEntry (d : Ctl) (p : SliceProc) : Option (Bytes × Bytes × Port) :=
  (Tbl.find? d.reeve.journal p.jseq).bind fun e => match e.image with
    | .ok b => some (b, e.args, portOf (fld e.args 1 1))
    | .failed => none

/-- Sheaves of a slice's save or restore still to be done. -/
def migLeft (d : Ctl) (i : Nat) : Nat :=
  (d.sheaves.filter fun (e : Nat × Sheaf) => e.2.slice == i && e.2.use == .migration && !e.2.squashed).length

/-- Sheaf `k` of a save is written to host memory; with the last one the arm is consumed and the save is complete. -/
def saveSheaf (d : Ctl) (i k : Nat) (p : SliceProc) : Ctl :=
  match migEntry d p with
  | none => d
  | some (img, a, port) =>
    let off := 4096 * k
    let d := sendTx d port { cls := 2, act := .hostWrite port none (BitVec.ofNat 64 (fld a 8 8 + off)) (sub img off 4096) }
    if migLeft d i = 0 then
      completeOrder (mirrorStep d (.slice i) p.jseq (modSlice d i fun s => { s with arm := none, saved := true, proc := none })) p.jseq 0 []
    else d

/-! ### Restore (R357 to R359) -/

/-- Hamlet map of MB_MIG_RESTORE: source and target package hamlets. -/
def migPairs (a : Bytes) : List (Nat × Nat) := (List.range (fld a 2 1)).map fun k => (fld a (24 + 2 * k) 1, fld a (25 + 2 * k) 1)

/-- MB_MIG_RESTORE arguments out of form. -/
def migRestoreBad (a : Bytes) : Bool :=
  let n := fld a 2 1
  decide (32 < n) || a.length != 24 + 2 * n || fld a 3 1 != 0 || decide (1 < fld a 1 1) || !allZero (sub a 4 4) ||
    fld a 8 8 % 4096 != 0 || (migPairs a).any fun p => decide (32 ≤ p.1) || decide (32 ≤ p.2)

/-- A hamlet the slice's tenant holds GRANTED. -/
def grantedTo (d : Ctl) (i h : Nat) : Bool :=
  (getHam d h).assign == .granted && (getHam d h).tenant == (getSlice d i).tenant

/-- A restore begins: the image is read through the named port, in sheaves (R357). -/
def startRestore (d : Ctl) (i j : Nat) (a : Bytes) : Ctl :=
  let d := modSlice d i fun s => { s with proc := some { kind := .restore, jseq := j, start := now d } }
  let n := max 1 (fld a 16 8)
  let p := portOf (fld a 1 1)
  serveSheaves (queueTransfer (sendTx d p { cls := 2, act := .hostRead p none (BitVec.ofNat 64 (fld a 8 8)) n }) i n false fun _ =>
    .migration)

/-- MB_MIG_RESTORE. -/
def mbMigRestoreBody : Body := fun d o =>
  let i := fld o.args 0 1
  let port := fld o.args 1 1
  if !migReady d i port || hasComputeLane (getSlice d i) || !completionsWritten d i then refuse 0x20 d
  else if (migPairs o.args).any fun p => !grantedTo d i p.2 then refuse 0x21 d
  else match transientShort d port false with
    | some r => (.done 0x24 (leBytes 4 r), d)
    | none => (.pending [], startRestore d i o.jseq o.args)

/-- MB_MIG_RESTORE (R357, R358, R523). -/
def execMbMigRestore (src : OrderSource) (image : DmaResult) (s : State) : Host.Outcome State Fault Refusal :=
  onCtl s fun d => order d src 0x0702 image (fun _ a => migRestoreBad a) mbMigRestoreBody

/-- The sections of an image from offset `off`, element `k`: type, count, and its body where its tag verifies; none where their
lengths do not fit the image. -/
def readSections (key img : Bytes) : Nat → Nat → Nat → Option (List (Nat × Nat × Option Bytes))
  | 0, _, off => if off = img.length then some [] else none
  | n + 1, k, off =>
    let hd := sub img off 16
    let len := fld hd 8 8
    if img.length < off + 32 + len then none
    else (readSections key img n (k + 1) (off + 32 + len)).map fun l =>
      (fld hd 0 1, fld hd 4 4, gcmOpen key (elementNonce k) hd (sub img (off + 16) len) (sub img (off + 16 + len) 16)) :: l

/-- The header of an image fits the target slice (R357 step 1). -/
def migHeaderOk (key img : Bytes) (t : Tenant) (s : Slice) (nonce : Bytes) : Bool :=
  gcmTag key (elementNonce 0) (img.take 48) [] == sub img 48 16 && fld img 0 4 == 0x4D475250 && fld img 4 2 == 1 &&
    fld img 6 1 == 0xB0 && decide (2 ≤ fld img 7 1) && decide (fld img 7 1 ≤ 32) && fld img 8 2 == t.ident.toNat &&
    sub img 16 16 == padTo 16 nonce && decide (1 ≤ fld img 13 1) && decide (fld img 13 1 ≤ s.laneLimit)

/-- The body of the section of a type, where its tag verifies. -/
def bodyOf (l : List (Nat × Nat × Option Bytes)) (type : Nat) : Option Bytes := (l.find? fun e => e.1 == type).bind fun e => e.2.2

/-- What an image holds. -/
structure Migrated where
  gen : Byte
  sourcePkg : Nat
  sourceSlice : Nat
  lanes : LanesBody
  pend : PendingBody
  ctxs : ContextsBody
  parked : ParkedBody
  tals : TalliesBody
  alms : AlmanacBody
  mods : ModelsBody

/-- The sections of an image. -/
def imageSections (key img : Bytes) : List (Nat × Nat × Option Bytes) := (readSections key img (fld img 7 1) 1 64).getD []

/-- What one section of an image holds: none where its tag or its body fails. -/
def imageModels (key img : Bytes) : Option ModelsBody := (bodyOf (imageSections key img) 7).bind (Config.migrationRead 7)
def imageContexts (key img : Bytes) : Option ContextsBody := (bodyOf (imageSections key img) 3).bind (Config.migrationRead 3)
def imageParked (key img : Bytes) : Option ParkedBody := (bodyOf (imageSections key img) 4).bind (Config.migrationRead 4)

/-- END is the last section and carries the count of those before it, and every section verifies (R356). -/
def imageEnds (l : List (Nat × Nat × Option Bytes)) : Bool :=
  (l.all fun e => e.2.2.isSome) &&
    match l.getLast? with | some (t, n, b) => t == 0xFF && n == l.length - 1 && b == some [] | none => false

/-- The content of a verified image; none where a tag, END or a body fails. -/
def readImage (key img : Bytes) : Option Migrated :=
  let l := imageSections key img
  if !imageEnds l then none
  else
    (bodyOf l 1).bind fun b1 => (bodyOf l 2).bind fun b2 => (bodyOf l 5).bind fun b5 => (bodyOf l 6).bind fun b6 =>
    (Config.migrationRead 1 b1).bind fun lanes => (Config.migrationRead 2 b2).bind fun pend =>
    (Config.migrationRead 5 b5).bind fun tals => (Config.migrationRead 6 b6).bind fun alms =>
    (imageContexts key img).bind fun ctxs => (imageParked key img).bind fun parked =>
    (imageModels key img).map fun mods =>
      { gen := BitVec.ofNat 8 (fld img 12 1), sourcePkg := fld img 10 1, sourceSlice := fld img 11 1, lanes := lanes
        pend := pend, ctxs := ctxs, parked := parked, tals := tals, alms := alms, mods := mods }

/-- The target's handle for a handle of the image: the tenant's resident model with the same body tag. -/
def mapHandle (d : Ctl) (t : Nat) (m : ModelsBody) (h : W32) : Option W32 :=
  if h = 0 then some 0
  else (List.find? (fun e => e.1 == h) m).bind fun e =>
    (List.find? (fun (x : Nat × Model) => x.2.tenant == t && x.2.bodyTag == e.2) d.models).map fun x => BitVec.ofNat 32 x.1

/-- The target hamlet of a source hamlet. -/
def mapHamlet (pairs : List (Nat × Nat)) (h : Nat) : Option Nat := (List.find? (fun p => p.1 == h) pairs).map Prod.snd

/-- The writes of one context's pages on the target: hamlet, offset, bytes; none where they do not fit. -/
def contextWrites (d : Ctl) (i t : Nat) (m : ModelsBody) (pairs : List (Nat × Nat)) (x : Nat × Context × List (Nat × List Bytes)) :
    Option (List (Nat × Nat × Bytes)) :=
  match mapHandle d t m x.2.1.model with
  | none => none
  | some h => match Tbl.find? d.models h.toNat with
    | none => if x.2.2.isEmpty then some [] else none
    | some q => x.2.2.foldl (fun acc e => acc.bind fun l =>
        (mapHamlet pairs e.1).bind fun g => (q.records.find? fun r => r.hamlet == g).bind fun r =>
          let ps := pagesIn i x.1 h.toNat q r
          if ps.length < e.2.length then none
          else some (l ++ (ps.zip e.2).map fun y => (g, 4096 * y.1, y.2))) (some [])

/-- The writes of one parked command's live state on the target. -/
def parkedWrites (d : Ctl) (t : Nat) (m : ModelsBody) (pairs : List (Nat × Nat)) (x : Cmd × List (Nat × Bytes)) :
    Option (List (Nat × Nat × Bytes)) :=
  match mapHandle d t m (if x.1.ranModel = 0 then x.1.model else x.1.ranModel) with
  | none => none
  | some h => (Tbl.find? d.models h.toNat).bind fun q => x.2.foldl (fun acc e => acc.bind fun l =>
      (mapHamlet pairs e.1).bind fun g => (q.records.find? fun r => r.hamlet == g).bind fun r =>
        let held := (inStates d g [.parked]).any fun y => y.2.1.ranModel == h || y.2.1.model == h
        let need := (Tbl.find? x.1.parts e.1).map Part.granary
        if 4096 * r.parkPages < e.2.length || held || decide (localBytes (getHam d g) < localUsed d g + need.getD 0) then none
        else (parkBase q g).map fun b => l ++ [(g, b, e.2)]) (some [])

/-- The writes of a list of items, none where one does not fit. -/
def allWrites {α : Type} (l : List α) (f : α → Option (List (Nat × Nat × Bytes))) : Option (List (Nat × Nat × Bytes)) :=
  l.foldl (fun acc x => acc.bind fun a => (f x).map fun b => a ++ b) (some [])

/-- The name of a source package's tally on the target: its index in the mapped hamlet. -/
def mapTally (d : Ctl) (m : Migrated) (pairs : List (Nat × Nat)) (n : W32) : W32 :=
  let k := n.toNat
  if tallyIsHearth k || tallyPkg k != m.sourcePkg then n
  else match mapHamlet pairs (tallyHamlet k) with
    | some h => BitVec.ofNat 32 (fieldTally d h (tallyIndex k))
    | none => n

/-- The owner of a claim on the target. -/
def mapOwner (d : Ctl) (m : Migrated) (i : Nat) (o : Owner) : Owner :=
  if o.pkg = m.sourcePkg ∧ o.slice = m.sourceSlice then { o with pkg := pkgNum d, slice := i } else o

/-- A submission of the image on target slice `i`: queued again under the slice's keys, with its handles, times and
admission outcome (R359). -/
def mapCmd (d : Ctl) (i t : Nat) (m : Migrated) (pairs : List (Nat × Nat)) (c : Cmd) : Cmd :=
  let hm (k : Nat) : Nat := (mapHamlet pairs k).getD k
  let age := (devNow d - c.tAccept).toNat
  { c with
    slice := i, port := (getSlice d i).cur, epoch := (getSlice d i).keys.current, jseq := 0
    model := (mapHandle d t m.mods c.model).getD c.model, ranModel := (mapHandle d t m.mods c.ranModel).getD c.ranModel
    policy := (mapHandle d t m.mods c.policy).getD 0
    iAccept := now d - ns age, tDecide := now d, firstBind := c.firstBind.map fun _ => now d, bindTime := now d
    parts := c.parts.map fun p => (hm p.1, { p.2 with charged := none, poolCycles := 0, poolSince := none })
    writes := c.writes.map fun w => (memKey (hm (w.1 / 2 ^ 43)) (w.1 % 2 ^ 43), w.2)
    tallyOps := c.tallyOps.map fun o => (hm o.1, mapTally d m pairs o.2.1, o.2.2)
    claims := c.claims.map fun k => { k with name := mapTally d m pairs k.name }
    waits := [], grants := [] }

/-- A submission joins the target's table; an admin one enters the journal, one without its input reads it. -/
def joinCmd (d : Ctl) (c : Cmd) : Ctl :=
  let id := d.nextCmd
  let c := if c.phase = .withdrawn then { c with phase := c.was, credit := c.firstBind.isNone } else c
  let d := { d with cmds := Tbl.set d.cmds id c, nextCmd := id + 1 }
  if c.phase = .admin then enterAdmin d id c else if c.phase = .input then readInput d id c else d

/-- The tallies of the image at the same index of the mapped hamlets. -/
def putTallies (d : Ctl) (i : Nat) (m : Migrated) (pairs : List (Nat × Nat)) : Ctl :=
  m.tals.foldl (fun d e => match mapHamlet pairs e.1 with
    | some h => modTally d (fieldTally d h e.2.1) fun y => { e.2.2 with
        owner := e.2.2.owner.map (mapOwner d m i), maker := none, waiters := y.waiters }
    | none => d) d

/-- The almanac entries of the image with a new t_act, in force at once. -/
def putAlmanacs (d : Ctl) (i : Nat) (m : Migrated) (pairs : List (Nat × Nat)) : Ctl :=
  m.alms.foldl (fun d e => match mapHamlet pairs e.1 with
    | some h => installAlmanac d h {
        entries := e.2.map fun x => if x.kind = 1 ∧ x.slice = m.sourceSlice then { x with slice := i } else x
        tAct := devNow d }
    | none => d) d

/-- A restored lane is pinned, and its result area translated, as at its creation (R134). -/
def cacheLane (d : Ctl) (i l : Nat) : Ctl :=
  translateArea (fillLane d i l true) i (getLane d i l)

/-- Step 5 of R357: lanes, generation, features, tallies, almanacs and submissions; the arm goes, the slice is ACTIVE. -/
def applyImage (d : Ctl) (i t : Nat) (m : Migrated) (pairs : List (Nat × Nat)) : Ctl :=
  let (_, feats, fset, eseq, lanes, made) := m.lanes
  let own := (getSlice d i).stats
  let before := d
  let d := modSlice d i fun s => { s with
    gen := m.gen, features := feats, featuresSet := fset, eventSeq := eseq, laneCreations := made, arm := none, proc := none
    state := .active, stats := own
    lanes := Tbl.mapVal lanes fun _ (l : Lane) => { l with
      apprentice := (mapHandle d t m.mods l.apprentice).getD 0, pinned := false, way := none, irqOldest := l.irqOldest.map fun _ => now d } }
  let d := { d with
    contexts := m.ctxs.foldl (fun c x => Tbl.set c (ctxKey i x.1) { x.2.1 with
      model := (mapHandle d t m.mods x.2.1.model).getD 0 }) d.contexts }
  let d := putAlmanacs (putTallies d i m pairs) i m pairs
  let cs := sortBy acceptedBefore (m.pend ++ m.parked.map Prod.fst)
  let d := (cs.map (mapCmd d i t m pairs)).foldl joinCmd d
  let d := forEach (Tbl.keys (getSlice d i).lanes) d fun d l => fetchNext (cacheLane d i l) i l
  shareUp before (activated d i)

/-- The source hamlets that tallies and almanacs of the image name are all mapped. -/
def allMapped (m : Migrated) (pairs : List (Nat × Nat)) : Bool :=
  (m.tals.map Prod.fst ++ m.alms.map Prod.fst).all fun h => (mapHamlet pairs h).isSome

/-- The writes of an image's CONTEXTS on the target, or the result of the restore that fails there (R357 step 3, R358); their
order within step 3 is DEDUCED (log 55). -/
def contextStep (d : Ctl) (i t : Nat) (key img : Bytes) (pairs : List (Nat × Nat)) (mods : ModelsBody) :
    Except Nat (List (Nat × Nat × Bytes)) :=
  match imageContexts key img with
  | none => .error 0x30
  | some cs => match allWrites cs (contextWrites d i t mods pairs) with
    | none => .error 0x23
    | some ws => .ok ws

/-- The writes of an image's PARKED on the target, or the result of the restore that fails there (R357 step 3, R358). -/
def parkedStep (d : Ctl) (t : Nat) (key img : Bytes) (pairs : List (Nat × Nat)) (mods : ModelsBody) :
    Except Nat (List (Nat × Nat × Bytes)) :=
  match imageParked key img with
  | none => .error 0x30
  | some ps => match allWrites ps (parkedWrites d t mods pairs) with
    | none => .error 0x23
    | some ws => .ok ws

/-- Steps 1 to 4 of R357 in order: the image's content and the writes of its pages, or the result of the first that fails. -/
def checkImage (d : Ctl) (i : Nat) (t : Tenant) (nonce key img : Bytes) (pairs : List (Nat × Nat)) :
    Except Nat (Migrated × List (Nat × Nat × Bytes)) :=
  let s := getSlice d i
  if !migHeaderOk key img t s nonce then .error 0x30
  else match imageModels key img with
    | none => .error 0x30
    | some mods =>
      if !mods.all fun x => (mapHandle d s.tenant mods x.1).isSome then .error 0x31
      else match contextStep d i s.tenant key img pairs mods with
        | .error r => .error r
        | .ok ws => match parkedStep d s.tenant key img pairs mods with
          | .error r => .error r
          | .ok vs => match readImage key img with
            | none => .error 0x30
            | some m => if allMapped m pairs then .ok (m, ws ++ vs) else .error 0x23

/-- The last sheaf of a restore is in: the image is checked and applied, or nothing changes (R357, R358). -/
def finishRestore (d : Dev) (i : Nat) (p : SliceProc) : Dev :=
  let fail (code : Nat) : Dev := withCtl d fun d => completeOrder (modSlice d i fun s => { s with proc := none }) p.jseq code []
  let s := getSlice d.toCtl i
  match migEntry d.toCtl p, Tbl.find? d.tenants s.tenant, s.arm with
  | some (data, a, _), some t, some nonce =>
    let img := data.take (min (fld data 40 8) (fld a 16 8))
    let pairs := migPairs a
    match checkImage d.toCtl i t nonce (migrationKey t nonce) img pairs with
    | .error r => fail r
    | .ok (m, ws) =>
      let e := ws.foldl (fun d w => storeBytes d w.1 w.2.1 w.2.2) d
      withCtl e fun d => completeOrder (mirrorStep d (.slice i) p.jseq (applyImage d i s.tenant m pairs)) p.jseq 0 []
  | _, _, _ => withCtl d fun d => completeOrder (modSlice (dmaFault d i) i fun s => { s with proc := none }) p.jseq 0x40 []

/-! ### Resume (R361) -/

/-- A frozen slice is ACTIVE again: its submissions return, pending reads are issued anew, its lanes fetch (R361). -/
def resumeSlice (d : Ctl) (i : Nat) : Ctl :=
  let reads := d.cmds.filter fun (e : Nat × Cmd) => e.2.slice == i && e.2.phase == .withdrawn && e.2.was == .input
  let e := modSlice (restoreCmds d i) i fun s => { s with state := .active, saved := false }
  let e := reads.foldl (fun e x => readInput e x.1 x.2) e
  let e := forEach (Tbl.keys (getSlice d i).lanes) (activated e i) fun d l => fetchNext d i l
  settled (shareUp d e)

/-- MB_MIG_RESUME. -/
def mbMigResumeBody : Body := fun d o =>
  let i := fld o.args 0 1
  let s := getSlice d i
  if s.state ≠ .frozen ∨ s.proc.isSome then refuse 0x20 d
  else if s.saved && s.arm.isNone then refuse 0x12 d
  else ok [] (resumeSlice d i)

/-- MB_MIG_RESUME (R361). -/
def execMbMigResume (src : OrderSource) (s : State) : Host.Outcome State Fault Refusal :=
  onCtl s fun d => order d src 0x0703 (.ok []) (fun _ a => a.length != 1) mbMigResumeBody

/-! ### Sheaves (R284, R327, R347) -/

/-- A sheaf of a model load is done; the last one ends the load (R327). -/
def loadSheaf (d : Dev) (id : Nat) : Dev :=
  match Tbl.find? d.loads id with
  | none => d
  | some l =>
    if 1 < l.sheaves then withCtl d fun d => { d with loads := Tbl.set d.loads id { l with sheaves := l.sheaves - 1 } }
    else finishLoad d id l

/-- What a finished sheaf brings on: its load, or its slice's save or restore. -/
def sheafEffect (d : Dev) (x : Sheaf) : Dev :=
  match x.use with
  | .load id => loadSheaf d id
  | .input _ _ => d
  | .migration => match (getSlice d.toCtl x.slice).proc with
    | some p =>
      if p.kind = .save then withCtl d fun d => saveSheaf d x.slice x.index p
      else if p.kind = .restore ∧ migLeft d.toCtl x.slice = 0 then finishRestore d x.slice p
      else d
    | none => d

/-- The sheaf stands in the first of its two units. -/
def firstUnit (x : Sheaf) : Bool := match x.place with | .carter _ => !x.out | .engine _ => x.out | _ => false

/-- A sheaf is over, and what waited for it goes on. -/
def disposed (d : Ctl) (x : Sheaf) : Ctl := serveSheaves (removalBarrier (advanceSlice d x.slice) x.tenant)

/-- SHEAF_DONE (R321, R322, R327, R347): the carter or engine that holds sheaf `k` reaches its boundary. A squashed sheaf is
discarded there; another goes on to its second unit, or is finished. -/
def execSheafDone (k : Nat) (s : State) : Host.Outcome State Fault Refusal :=
  onDev s fun d =>
    match Tbl.find? d.sheaves k with
    | none => d
    | some x =>
      if !inUnit x then d
      else
        let e := withCtl d fun d => leaveUnit d x
        let gone := withCtl e fun d => { d with sheaves := Tbl.erase d.sheaves k }
        if x.squashed then withCtl gone fun d => disposed d x
        else if firstUnit x then withCtl e fun d => serveSheaves { d with sheaves := Tbl.set d.sheaves k { x with place := .buffered } }
        else withCtl (sheafEffect gone x) fun d => disposed d x

end Sys2Proof.Machine
end

