-- ==== Sys2Proof/Machine/Time.lean ====
section
/-! DEFINITION. Device time (15) and the time messages of roads (R238 to R241): the servo, PTP, PPS, the leader's probes, roles
and settings. Offsets are of the source from device time, in ps. -/

namespace Sys2Proof.Machine
open Sys2Proof

/-! ### The servo (R462 to R464) -/

/-- The rate adjustment lies within 100 ppm of 4 ns. -/
def maxRate : Int := 1717986

def clampRate (r : Int) : Int := max (-maxRate) (min maxRate r)

/-- The rate that removes an offset over 1 s: 250,000,000 TCLK cycles. -/
def slewRate (off : Int) : Int := (off * 2 ^ 32).tdiv 250000000000

/-- An offset as a change of device time in units of 2^-32 ns. -/
def offsetUnits (off : Int) : Int := (off * 2 ^ 32).tdiv 1000

/-- What is left of the last offset after the slew since (R462: its removal takes 1 s, at 100 ppm at most). -/
def predictedOffset (t : TimeUnit) : Option Int :=
  match t.predicted, t.lastMeasure with
  | some p, some at_ =>
    let dt : Int := min (sec 1) (t.interval - at_ : Nat)
    let corr : Int := max (-100000000) (min 100000000 p)
    some (p - corr * dt / (sec 1 : Nat))
  | _, _ => none

/-- The measurement is an outlier: it departs from its prediction by more than 1 µs (R462). A rejected one leaves no
prediction, so the next is taken. -/
def isOutlier (t : TimeUnit) (off : Int) : Bool :=
  match predictedOffset t with
  | some p => decide (1000000 < (off - p).natAbs)
  | none => false

/-- The offset is stepped: before the first lock above 1 µs, else after 3 consecutive measurements above the threshold, and
not under SLEW_ONLY after the first lock (R462). -/
def mustStep (t : TimeUnit) (off : Int) (streak : Nat) : Bool :=
  if t.everLocked then !t.slewOnly && decide (3 ≤ streak)
  else if t.state = .acquiring then decide (1000000 < off.natAbs)
  else decide (3 ≤ streak)

/-- Lock limit in ps: 5 ns for a follower, 100 ns for PTP and PPS (R464). -/
def lockLimit (src : TimeSource) : Nat := if src = .leader then 5000 else 100000

/-- After a step no PTP exchange begun before it gives a measurement, as R470 has it for probes (log 35). -/
def afterStep (p : PtpState) (offset : Option Int) : PtpState :=
  { p with offset := offset, lastPair := none, pendingSync := none, pendingDelay := none, pendingPdelay := none }

/-- A step by `off` sets device time to the source's value (R462); interval time keeps its course (R455). -/
def stepBy (d : Ctl) (off : Int) : Ctl :=
  modTime d fun t => { t with
    device := t.device + BitVec.ofInt 96 (offsetUnits off), steps := t.steps + 1
    ptp := afterStep t.ptp (t.ptp.offset.map (· - off)) }

/-- Reset counting starts with the first lock: at the limit the package goes out of service (R408). -/
def firstLock (d : Ctl) : Ctl :=
  if d.pkg.packageLimit.limit ≤ pkgResetCount d then
    internalStep d .package fun d j =>
      packageOut d (((d.pkg.history.filter HistoryRecord.counted).getLast?.map HistoryRecord.cause).getD 0x81) j
  else d

/-- The source of a measurement comes into use: UNSET, HOLDOVER and FREERUN end, and so does another source (R456). -/
def takeSource (d : Ctl) (src : TimeSource) (id : Nat) : Ctl :=
  let t := d.time
  let other := t.lastSource.isSome && t.lastSource != some (src, id)
  let d := modTime d fun t => { t with source := src, lastSource := some (src, id) }
  match t.state with
  | .acquiring => if other then changeSource d src else d
  | .locked => if other then changeSource d src else d
  | st => enterState (modTime d fun t => { t with before := st, overStreak := 0, predicted := none }) .acquiring false other

/-- The correction of an accepted measurement: a step, or a slew of the rate (R462). -/
def correct (d : Ctl) (off : Int) : Ctl :=
  let t := d.time
  let big := decide (t.stepThreshold * 1000000 < off.natAbs)
  let streak := if big then t.overStreak + 1 else 0
  if mustStep t off streak then
    let d := stepBy (modTime d fun t => { t with overStreak := 0, predicted := some 0, lastMeasure := some t.interval }) off
    let d := if t.everLocked then timeFault d else d
    timeAlarm d true false
  else
    let r := clampRate (t.rate + slewRate off)
    modTime d fun t => { t with
      rate := r, rates := (t.rates ++ [r]).drop (t.rates.length - 63), overStreak := streak, predicted := some off
      lastMeasure := some t.interval }

/-- 16 consecutive measurements within the lock limit lock the time unit (R464). -/
def checkLock (d : Ctl) (src : TimeSource) (off : Int) : Ctl :=
  let d := modTime d fun t => { t with lockStreak := if off.natAbs ≤ lockLimit src then t.lockStreak + 1 else 0 }
  if d.time.state = .acquiring ∧ 16 ≤ d.time.lockStreak then
    let new := !d.time.everLocked
    let d := enterState (modTime d fun t => { t with everLocked := true }) .locked false false
    if new then firstLock d else d
  else d

/-- One measurement of the named source: its offset is reported, and the servo takes it unless it is an outlier. None is
taken while a Reeve pair takes over. -/
def measure (d : Ctl) (src : TimeSource) (id : Nat) (off : Int) : Ctl :=
  if d.reeve.takeover then d
  else
    let d := takeSource (modTime d fun t => { t with offset := off }) src id
    if isOutlier d.time off then modTime d fun t => { t with predicted := none }
    else checkLock (correct d off) src off

/-! ### PTP (R459 to R461) -/

/-- PTP messages reach the device in operation, under its domain and sdoId. -/
def ptpOurs (d : Ctl) (hd : PtpHeader) : Bool :=
  d.pkg.life == .operating && hd.domain == d.time.domain && hd.sdoId == d.time.sdoId

def modPtp (d : Ctl) (f : PtpState → PtpState) : Ctl := modTime d fun t => { t with ptp := f t.ptp }

/-- The rank of an announced grandmaster in the data set comparison: lower wins (R461). -/
def dataSet (a : PtpAnnounceBody) : List Nat :=
  [a.priority1.toNat, a.clockClass.toNat, a.accuracy.toNat, a.variance.toNat, a.priority2.toNat, a.gmId.toNat]

def lexLess : List Nat → List Nat → Bool
  | a :: l, b :: m => if a = b then lexLess l m else decide (a < b)
  | _, _ => false

/-- Announce `a` from port `p` is better than `b` from port `q`. -/
def betterMaster (a : PtpAnnounceBody) (p : W64) (b : PtpAnnounceBody) (q : W64) : Bool :=
  if a.gmId = b.gmId then lexLess [a.stepsRemoved.toNat, p.toNat] [b.stepsRemoved.toNat, q.toNat]
  else lexLess (dataSet a) (dataSet b)

/-- `n` intervals of 2^k s. -/
def logSeconds (n : Nat) (k : Int) : Nat := if 0 ≤ k then sec (n * 2 ^ k.toNat) else sec n / 2 ^ (-k).toNat

/-- announceReceiptTimeout has expired. -/
def announceLate (d : Ctl) : Bool :=
  let p := d.time.ptp
  decide ((p.lastAnnounce.getD d.time.entered) + logSeconds d.time.announceTimeout p.announceInterval ≤ now d)

/-- 4 sync intervals have passed without a Sync. -/
def syncLate (d : Ctl) : Bool :=
  let p := d.time.ptp
  decide ((p.lastSync.getD d.time.entered) + logSeconds 4 p.syncInterval ≤ now d)

/-- PTP_ANNOUNCE (R459, R461): the better master is followed. -/
def execPtpAnnounce (hd : PtpHeader) (a : PtpAnnounceBody) (s : State) : Host.Outcome State Fault Refusal :=
  onCtl s fun d =>
    let p := d.time.ptp
    let take := match p.master with
      | none => true
      | some b => hd.source == p.masterPort || announceLate d || betterMaster a hd.source b p.masterPort
    if !ptpOurs d hd || !a.ptpTimescale || !take then d
    else
      let changed := (p.master.map fun b => b.gmId != a.gmId).getD false
      let same := hd.source == p.masterPort
      let d := modTime d fun t => { t with
        gmId := a.gmId, utcOffset := a.utcOffset, utcValid := a.utcValid
        ptp := { t.ptp with
          master := some a, masterPort := hd.source, lastAnnounce := some t.interval, announceInterval := hd.logInterval
          pendingSync := if same then t.ptp.pendingSync else none } }
      if changed && d.time.source == .ptp then changeSource d .ptp else d

/-- An offset from the master, with the source of time PTP gives (R458, R460, R467). -/
def ptpMeasure (d : Ctl) (origin rx : W64) (corr : Int) : Ctl :=
  let p := d.time.ptp
  let o : Int := (origin - rx).toInt * 1000 + corr * 1000 / 65536
  let off := o + p.delay + d.time.asym
  let d := modPtp d fun p => { p with
    offset := some off, lastPair := some ((origin.toNat : Int) * 1000 + corr * 1000 / 65536, (rx.toNat : Int) * 1000) }
  if namedSource d.time = .ptp then measure d .ptp d.time.gmId.toNat off else d

/-- PTP_SYNC (R459, R460, R462). -/
def execPtpSync (hd : PtpHeader) (t : PtpTime) (s : State) : Host.Outcome State Fault Refusal :=
  onCtl s fun d =>
    let p := d.time.ptp
    let accepted := decide (-7 ≤ hd.logInterval) && decide (hd.logInterval ≤ 0)
    if !ptpOurs d hd || p.master.isNone || hd.source != p.masterPort || !accepted then d
    else
      let rx := devNow d
      let d := modPtp d fun p => { p with
        lastSync := some (now d), syncInterval := hd.logInterval
        pendingSync := if hd.twoStep then some (hd.seq.toNat, rx, hd.correction) else none }
      if hd.twoStep then d else ptpMeasure d t.ns rx hd.correction

/-- PTP_FOLLOW_UP (R459, R462): it completes the Sync of its sequence. -/
def execPtpFollowUp (hd : PtpHeader) (t : PtpTime) (s : State) : Host.Outcome State Fault Refusal :=
  onCtl s fun d =>
    if !ptpOurs d hd || hd.source != d.time.ptp.masterPort then d
    else match d.time.ptp.pendingSync with
      | some (n, rx, corr) =>
        if n = hd.seq.toNat then ptpMeasure (modPtp d fun p => { p with pendingSync := none }) t.ns rx (corr + hd.correction)
        else d
      | none => d

/-- PTP_DELAY_REQ_TIMER (R459): Delay_Req, or Pdelay_Req under the peer-to-peer mechanism, leaves with its transmit time. -/
def execPtpDelayReqTimer (s : State) : Host.Outcome State Fault Refusal :=
  onCtl s fun d =>
    let p := d.time.ptp
    if d.pkg.life ≠ .operating || (!d.time.peerDelay && p.master.isNone) then d
    else
      let n := p.nextDelaySeq
      emit (modPtp d fun p => { p with
        pendingDelay := some (n, devNow d), pendingPdelay := none, nextDelaySeq := (n + 1) % 65536 }) (.ptp (b2n d.time.peerDelay) n)

/-- PTP_DELAY_RESP (R459): the end-to-end mean path delay, from the last Sync and this request. -/
def execPtpDelayResp (hd : PtpHeader) (t : PtpTime) (s : State) : Host.Outcome State Fault Refusal :=
  onCtl s fun d =>
    let p := d.time.ptp
    match p.pendingDelay, p.lastPair with
    | some (n, t3), some (origin, rx) =>
      if !ptpOurs d hd || d.time.peerDelay || hd.source != p.masterPort || n != hd.seq.toNat ||
          t.requester != Config.clockIdentity then d
      else
        let back : Int := (t.ns - t3).toInt * 1000 - hd.correction * 1000 / 65536
        modPtp d fun p => { p with delay := (rx - origin + back) / 2, pendingDelay := none }
    | _, _ => d

/-- PTP_PDELAY_REQ (R459): answered two-step under the peer-to-peer mechanism. -/
def execPtpPdelayReq (hd : PtpHeader) (_t : PtpTime) (s : State) : Host.Outcome State Fault Refusal :=
  onCtl s fun d =>
    if !ptpOurs d hd || !d.time.peerDelay then d
    else emit (emit d (.ptp 2 hd.seq.toNat)) (.ptp 3 hd.seq.toNat)

/-- A Pdelay answer is for this device's request in flight. -/
def pdelayOurs (d : Ctl) (hd : PtpHeader) (t : PtpTime) : Bool :=
  ptpOurs d hd && d.time.peerDelay && t.requester == Config.clockIdentity

/-- PTP_PDELAY_RESP (R459): a one-step answer gives the link delay, a two-step one awaits its Follow_Up. -/
def execPtpPdelayResp (hd : PtpHeader) (t : PtpTime) (s : State) : Host.Outcome State Fault Refusal :=
  onCtl s fun d =>
    match d.time.ptp.pendingDelay with
    | some (n, t1) =>
      if !pdelayOurs d hd t || n != hd.seq.toNat then d
      else
        let t4 := devNow d
        let corr := hd.correction * 1000 / 65536
        modPtp d fun p =>
          if hd.twoStep then { p with pendingDelay := none, pendingPdelay := some (n, t1, t.ns, t4, hd.correction) }
          else { p with pendingDelay := none, delay := ((t4 - t1).toInt * 1000 - corr) / 2 }
    | none => d

/-- PTP_PDELAY_RESP_FOLLOW_UP (R459). -/
def execPtpPdelayRespFollowUp (hd : PtpHeader) (t : PtpTime) (s : State) : Host.Outcome State Fault Refusal :=
  onCtl s fun d =>
    match d.time.ptp.pendingPdelay with
    | some (n, t1, t2, t4, c) =>
      if !pdelayOurs d hd t || n != hd.seq.toNat then d
      else
        let corr := (c + hd.correction) * 1000 / 65536
        modPtp d fun p => { p with
          pendingPdelay := none, delay := ((t4 - t1).toInt * 1000 - (t.ns - t2).toInt * 1000 - corr) / 2 }
    | none => d

/-! ### PPS (R467, R468) -/

/-- The whole second nearest a device time. -/
def nearestSecond (t : W64) : Nat := (t.toNat + 500000000) / 1000000000

/-- The edge follows the previous valid one by 1 s ± 1 µs of interval time, or is the first after the source was lost. -/
def edgeValid (d : Ctl) : Bool :=
  match d.time.ppsLast with
  | none => true
  | some o => decide (o + sec 1 ≤ now d + us 1) && decide (now d ≤ o + sec 1 + us 1)

/-- The second an edge marks: named by MB_TIME_SET and counted on, under PTP_PPS the nearest to PTP's time, else the nearest to
device time. -/
def edgeSecond (d : Ctl) : Nat :=
  match d.time.config, d.time.ppsLabel, d.time.ptp.offset with
  | 1, some n, _ => n
  | 2, _, some o => nearestSecond (devNow d + BitVec.ofInt 64 (o / 1000))
  | _, _, _ => nearestSecond (devNow d)

/-- Source PTP_PPS: 3 consecutive edges off PTP by more than 1 µs put PPS aside, one within 100 ns takes it back. -/
def checkPps (d : Ctl) (off : Int) : Ctl :=
  match d.time.config, d.time.ptp.offset with
  | 2, some p =>
    let gap := (off - p).natAbs
    if d.time.ppsRejected then
      (if gap ≤ 100000 then modTime d fun t => { t with ppsRejected := false, ppsDisagree := 0 } else d)
    else if gap ≤ 1000000 then modTime d fun t => { t with ppsDisagree := 0 }
    else if d.time.ppsDisagree < 2 then modTime d fun t => { t with ppsDisagree := t.ppsDisagree + 1 }
    else timeFault (modTime d fun t => { t with ppsRejected := true, ppsDisagree := 0 })
  | _, _ => d

/-- PPS_IN_EDGE (R467): captured, and measured where it is valid and PPS is the source. -/
def execPpsInEdge (s : State) : Host.Outcome State Fault Refusal :=
  onCtl s fun d =>
    if d.pkg.life ≠ .operating then d
    else
      let t := devNow d
      let d := modTime d fun x => { x with ppsIn := t }
      if !edgeValid d then modTime d fun x => { x with ppsGlitch := addCount x.ppsGlitch 1 }
      else
        let n := edgeSecond d
        let off : Int := (BitVec.ofNat 64 (n * 1000000000) - t).toInt * 1000
        let d := modTime d fun x => { x with ppsLast := some x.interval, ppsValid := true, ppsLabel := some (n + 1) }
        let d := checkPps d off
        if namedSource d.time = .pps then measure d .pps 0 off else d

/-- Device time is at a whole second, to the TCLK cycle. -/
def atSecond (d : Ctl) : Bool := decide ((devNow d).toNat % 1000000000 < 4)

/-- PPS_OUT_SECOND (R468): device time is at a whole second that has had no edge. -/
def execPpsOutSecond (s : State) : Host.Outcome State Fault Refusal :=
  onCtl s fun d =>
    let t := d.time
    let n := (devNow d).toNat / 1000000000
    if !t.ppsOutEn || (t.state != .locked && t.state != .holdover) || !atSecond d || t.ppsOutTime.toNat / 1000000000 == n then d
    else modTime d fun t => { t with ppsOut := true, ppsOutTime := BitVec.ofNat 64 (n * 1000000000) }

/-- PPS_OUT_FALL (R468): 100 ms after its edge. -/
def execPpsOutFall (s : State) : Host.Outcome State Fault Refusal :=
  onCtl s fun d =>
    if d.time.ppsOut && timeLe (d.time.ppsOutTime + 100000000) (devNow d) then modTime d fun t => { t with ppsOut := false } else d

/-! ### Loss and holdover (R464, R465) -/

/-- Two consecutive expected edges are missing. -/
def edgesMissing (d : Ctl) : Bool := decide ((d.time.ppsLast.getD d.time.entered) + sec 2 + us 1 < now d)

/-- 8 probe periods have passed without an accepted TIME_REPLY. -/
def repliesMissing (d : Ctl) : Bool := decide ((d.time.lastReply.getD d.time.entered) + ms 1 ≤ now d)

/-- PPS_IN is not valid any more once two consecutive expected edges are missing; the next edge is its first again (R464, R467). -/
def losePps (d : Ctl) : Ctl :=
  if d.time.ppsLast.isSome && edgesMissing d then
    modTime d fun t => { t with ppsLast := none, ppsValid := false, ppsLabel := none }
  else d

/-- SOURCE_LOST_TIMEOUT (R458, R464): the source in use is silent; PTP_PPS falls back from PPS to PTP; a PPS_IN that is not in use is
lost too. -/
def execSourceLostTimeout (s : State) : Host.Outcome State Fault Refusal :=
  onCtl s fun d =>
    match d.time.source with
    | .none => losePps d
    | .ptp => if announceLate d || syncLate d then sourceLost (losePps d) else losePps d
    | .leader => if repliesMissing d then sourceLost (losePps d) else losePps d
    | .pps =>
      if !edgesMissing d then d
      else
        let d := modTime d fun t => { t with ppsLast := none, ppsValid := false, ppsLabel := none }
        if d.time.config = 2 ∧ d.time.ptp.master.isSome ∧ !announceLate d then changeSource d .ptp else sourceLost d

/-- HOLDOVER_LIMIT (R465). -/
def execHoldoverLimit (s : State) : Host.Outcome State Fault Refusal :=
  onCtl s fun d =>
    if d.time.state = .holdover ∧ d.time.holdoverStart + sec d.time.holdoverLimit ≤ now d then enterState d .freerun false false
    else d

/-! ### The leader over roads (R239, R241, R470) -/

/-- The mesh road a probe leaves on: copy 0, or copy 1 while copy 0 is not UP. -/
def probeRoad (d : Ctl) (q : Nat) : Option Nat :=
  [meshRoad (pkgNum d) q 0, meshRoad (pkgNum d) q 1].find? (roadUp d)

/-- A time message on a road to package `q`. -/
def timeMsg (d : Ctl) (q : Nat) (addr operand : W64) : RoadMsg :=
  { cls := 3, epoch := 0, tenant := 0, src := BitVec.ofNat 16 (endpointHearth (pkgNum d)),
    dst := BitVec.ofNat 16 (endpointHearth q), addr := addr, operand := operand }

/-- TIME_PROBE_TIMER (R239): a follower probes its leader, never on a relay path. -/
def execTimeProbeTimer (s : State) : Host.Outcome State Fault Refusal :=
  onCtl s fun d =>
    let q := timeLeader d
    if d.pkg.life ≠ .operating || !follows d.time || q == pkgNum d || d.pkg.warm.isSome then d
    else match probeRoad d q with
      | none => d
      | some r =>
        let t1 := devNow d
        sendOn (modTime d fun t => { t with probe := some (t1, t.steps) }) r false 3 0x3A (timeMsg d q t1 0)

/-- TIME_PROBE (R239, R470): the leader answers on the road it came on, with the reception time; the reply takes its departure time
as it leaves (`leaving`). -/
def execTimeProbe (r : Fin 64) (m : RoadMsg) (s : State) : Host.Outcome State Fault Refusal :=
  onCtl s fun d => receiveCtl d r.val 0x3A m fun d _ =>
    if d.time.role = .leader then sendOn d r.val false 3 0x3B (timeMsg d (endPkg m.src.toNat) m.addr (devNow d)) else d

/-- TIME_REPLY (R239, R470): the offset from the leader, unless a step lies between. -/
def execTimeReply (r : Fin 64) (m : RoadMsg) (s : State) : Host.Outcome State Fault Refusal :=
  onCtl s fun d => receiveCtl d r.val 0x3B m fun d _ =>
    let q := endPkg m.src.toNat
    match d.time.probe with
    | none => d
    | some (t1, steps) =>
      if !follows d.time || q != timeLeader d || m.addr != t1 || steps != d.time.steps then d
      else
        let t3 := m.operand + BitVec.ofNat 64 m.len.toNat
        let off : Int := ((m.operand - t1).toInt - (devNow d - t3).toInt) * 500
        measure (modTime d fun t => { t with probe := none, lastReply := some t.interval }) .leader q off

/-- BACKUP_TAKEOVER (R241, R458): the leader is lost and the BACKUP takes its role. -/
def execBackupTakeover (s : State) : Host.Outcome State Fault Refusal :=
  onCtl s fun d =>
    if d.time.role ≠ .backup || !(getPeer d d.time.leader).lost || d.pkg.life ≠ .operating then d
    else internalStep d .package fun d _ =>
      let d := modTime d fun t => { t with role := .leader, leader := pkgNum d, backup := none }
      let src := ownSource d.time
      enterState (modTime d fun t => { t with
        before := if t.state = .acquiring then t.before else t.state, source := src, lastSource := (sourceId d src).map fun n => (src, n)
        predicted := none, overStreak := 0 }) .acquiring false true

/-! ### Settings (R458 to R469) -/

/-- A change of settings that names another source than the one in use changes the source (R456). -/
def resource (old d : Ctl) : Ctl :=
  if namedSource old.time ≠ namedSource d.time ∨ (follows d.time ∧ timeLeader old ≠ timeLeader d) then
    changeSource d (namedSource d.time)
  else d

/-- MB_TIME_ROLE arguments out of form: role 0 STANDALONE, 1 LEADER, 2 BACKUP, 3 FOLLOWER. -/
def timeRoleBad (d : Ctl) (a : Bytes) : Bool :=
  let r := fld a 0 1
  let b := fld a 2 1
  a.length != 3 || decide (3 < r) || decide (31 < fld a 1 1) || (decide (31 < b) && b != 0xFF) ||
    (decide (2 ≤ r) && fld a 1 1 == pkgNum d)

/-- The role, leader and backup of MB_TIME_ROLE (R238). -/
def setRole (d : Ctl) (a : Bytes) : Ctl :=
  let b := fld a 2 1
  resource d (modTime d fun t => { t with
    role := roleOf (fld a 0 1), leader := fld a 1 1, backup := if b = 0xFF then none else some b, probe := none })

/-- MB_TIME_ROLE. -/
def mbTimeRoleBody : Body := fun d o => ok [] (setRole d o.args)

/-- MB_TIME_ROLE (R238, R458). -/
def execMbTimeRole (src : OrderSource) (s : State) : Host.Outcome State Fault Refusal :=
  onCtl s fun d => order d src 0x0500 (.ok []) timeRoleBad mbTimeRoleBody

/-- MB_TIME_CONFIG arguments out of form: each field where its flag is set. -/
def timeConfigBad (a : Bytes) : Bool :=
  let fl := fld a 0 1
  badArgs a 24 [17, 18, 19] || decide (8 ≤ fl) || (bitOf fl 0 && decide (2 < fld a 1 1)) ||
    (bitOf fl 1 && (decide (127 < fld a 2 1) || decide (1 < fld a 3 1) || decide (fld a 4 1 < 2) || decide (10 < fld a 4 1) ||
      decide (1 < fld a 5 1))) ||
    (bitOf fl 2 && (!servoOk (fld a 8 4) (fld a 12 4) (signed32 a 20) || decide (3 < fld a 16 1)))

/-- The fields of MB_TIME_CONFIG whose flags are set: source, PTP parameters, servo (R458 to R468). -/
def configTime (d : Ctl) (a : Bytes) : Ctl :=
  let fl := fld a 0 1
  let d1 := if bitOf fl 0 then modTime d fun t => { t with config := fld a 1 1, ppsRejected := false, ppsDisagree := 0 } else d
  let d2 := if bitOf fl 1 then
      modTime d1 fun t => setPtp t (fld a 2 1) (fld a 6 2) (fld a 3 1) (fld a 4 1) (fld a 5 1)
    else d1
  let d3 := if bitOf fl 2 then
      modTime d2 fun t => { t with
        stepThreshold := fld a 8 4, holdoverLimit := fld a 12 4, slewOnly := bitOf (fld a 16 1) 0, asym := signed32 a 20
        ppsOutEn := bitOf (fld a 16 1) 1, ppsOut := t.ppsOut && bitOf (fld a 16 1) 1 }
    else d2
  resource d d3

/-- MB_TIME_CONFIG. -/
def mbTimeConfigBody : Body := fun d o => ok [] (configTime d o.args)

/-- MB_TIME_CONFIG (R458 to R468). -/
def execMbTimeConfig (src : OrderSource) (s : State) : Host.Outcome State Fault Refusal :=
  onCtl s fun d => order d src 0x0501 (.ok []) (fun _ a => timeConfigBad a) mbTimeConfigBody

/-- Device time takes a value by command: a step, and FREERUN from UNSET (R469). -/
def setDeviceTime (d : Ctl) (v : W64) : Ctl :=
  let e := modTime d fun t => { t with device := v.setWidth 96 <<< 32, steps := t.steps + 1, ptp := afterStep t.ptp none }
  if d.time.state = .unset then enterState e .freerun true false else timeAlarm e true false

/-- MB_TIME_SET: device time, or the TAI second of the next PPS_IN edge. -/
def mbTimeSetBody : Body := fun d o =>
  let t := d.time
  if (t.state ≠ .unset ∧ t.state ≠ .freerun) ∨ follows t then refuse 0x20 d
  else if fld o.args 0 1 = 1 then ok [] (modTime d fun t => { t with ppsLabel := some (fld o.args 8 8) })
  else ok [] (setDeviceTime d (BitVec.ofNat 64 (fld o.args 8 8)))

/-- MB_TIME_SET (R469). -/
def execMbTimeSet (src : OrderSource) (s : State) : Host.Outcome State Fault Refusal :=
  onCtl s fun d => order d src 0x0502 (.ok []) (fun _ a => badArgs a 16 [1, 2, 3, 4, 5, 6, 7] || decide (1 < fld a 0 1)) mbTimeSetBody

end Sys2Proof.Machine
end

