-- ==== Sys2Proof/Machine/Trust.lean ====
section
/-! DEFINITION. Attestation and trust messages: the SPDM responder of a port and the messages of its secured sessions
(R303, R306 to R314, R352). Message layouts of SPDM are those of DSP0274 1.2 (log 21). -/

namespace Sys2Proof.Machine
open Sys2Proof

/-! ### Trust messages (R309, R310) -/

/-- A trust message as its body sees it: session, whole message, tenant index and tenant. -/
structure TrustMsg where
  session : SpdmSession
  msg : Bytes
  index : Nat
  tenant : Tenant

/-- What a trust message answers: result code and response body, with its effect. -/
abbrev TrustBody := Ctl → TrustMsg → (Nat × Bytes) × Ctl

/-- A row of the trust message table: length with signature, bytes that must be 0, and its object in the journal. -/
structure TrustRow where
  code : Nat
  length : Nat
  signed : Bool
  reserved : List Nat
  /-- Offset of the slice index, where the message names a slice. -/
  slice : Option Nat

def rowClaim : TrustRow := ⟨1, 256, true, [], none⟩

def rowInstall : TrustRow := ⟨2, 116, true, [17], some 16⟩

def rowRetire : TrustRow := ⟨3, 116, true, [], some 16⟩

def rowStatus : TrustRow := ⟨4, 16, false, [], none⟩

def rowArm : TrustRow := ⟨5, 129, true, [], some 32⟩

/-- The header and length of a message are those of its row, and its reserved bytes are 0. -/
def trustForm (r : TrustRow) (m : Bytes) : Bool :=
  fld m 0 2 == r.code && m.length == r.length && fld m 2 2 == r.length &&
    ([6, 7, 12, 13, 14, 15] ++ r.reserved).all fun k => m.getD k 0 == 0

/-- The owner key a message must be signed by: TENANT_CLAIM carries it. -/
def trustKey (r : TrustRow) (x : Tenant) (m : Bytes) : Bytes := if r.code = 1 then sub m 16 96 else x.ownerKey

/-- The signature of a message over its session's FINISH transcript hash and its bytes before the signature. -/
def trustSigned (r : TrustRow) (x : Tenant) (s : SpdmSession) (m : Bytes) : Bool :=
  !r.signed || ecdsaVerify (trustKey r x m) (sha384 (s.transcript ++ m.take (m.length - 96))) (m.drop (m.length - 96))

/-- A trust message response; the counter of the request is echoed (log 21). -/
def trustResponse (code result : Nat) (m body : Bytes) : Bytes :=
  leBytes 2 (code + 0x8000) ++ leBytes 2 (16 + body.length) ++ sub m 4 2 ++ [0, 0] ++ sub m 8 4 ++ leBytes 1 result ++
    zeros 3 ++ body

/-- The session of a port, established. -/
def sessionOf (d : Ctl) (p : Port) (id : Nat) : Option SpdmSession :=
  (getPort d p).sessions.find? fun s => s.id == id && s.established

def modSession (d : Ctl) (p : Port) (id : Nat) (f : SpdmSession → SpdmSession) : Ctl :=
  modPort d p fun x => { x with sessions := x.sessions.map fun s => if s.id = id then f s else s }

/-- The result code a trust result is recorded under in the journal (log 21). -/
def trustJournal (result : Nat) : Nat :=
  match result with
  | 0 => 0
  | 3 => 0x13
  | 7 => 0x10
  | _ => 0x20

/-- The checks of R310 in the order form, tenant, signature, counter; then the message's own precondition and effect. -/
def trustRun (d : Ctl) (p : Port) (r : TrustRow) (s : SpdmSession) (m : Bytes) (body : TrustBody) : (Nat × Bytes) × Ctl :=
  if !trustForm r m then ((7, []), d)
  else match tenantById d (fld m 4 2) with
    | none => ((1, []), d)
    | some (i, x) =>
      if !trustSigned r x s m then ((3, []), d)
      else if s.lastCounter.any fun c => decide (fld m 8 4 ≤ c) then ((4, []), d)
      else
        let a := body d { session := s, msg := m, index := i, tenant := x }
        if a.1.1 = 0 then (a.1, modSession a.2 p s.id fun s => { s with lastCounter := some (fld m 8 4) })
        else (a.1, d)

/-- A trust message executes as journal step `j`; a session that has ended meanwhile gets no response. -/
def trustExec (d : Ctl) (j : Nat) (p : Port) (r : TrustRow) (id : Nat) (m : Bytes) (body : TrustBody) : Ctl :=
  let d := beginOrder d j
  match sessionOf d p id with
  | none => closeEntry d j 0x40
  | some s =>
    let a := trustRun d p r s m body
    emit (closeEntry (stamp j d a.2) j (trustJournal a.1.1)) (.trust p id (trustResponse r.code a.1.1 m a.1.2))

/-- The journal object of a message. -/
def trustObj (r : TrustRow) (m : Bytes) : Obj :=
  match r.slice with
  | some k => .slice (fld m k 1)
  | none => .tenant (fld m 4 2)

/-- DOE answers in operation, while the link is up and no takeover runs (R372, R494). -/
def doeUp (d : Ctl) (p : Port) : Bool := d.pkg.life == .operating && (getPort d p).linkUp && !d.reeve.takeover

/-- An error of the SPDM responder. -/
def spdmError (code data : Nat) : Bytes := [0x12, 0x7F, BitVec.ofNat 8 code, BitVec.ofNat 8 data]

/-- The order of the other port's DOE that wins row 3 of R434. -/
def trustWinner (d : Ctl) (p : Port) (op : Nat) (obj : Obj) : Option Nat :=
  (List.find? (fun (e : Nat × JEntry) => e.2.arrival == mclk d && e.2.opcode == op && e.2.obj == obj &&
    decide (e.2.master < pfMaster p) && e.2.result != 3) d.reeve.journal).map Prod.fst

/-- A trust message arrives as a journal order of its port's PF driver (R310, R432): it waits behind earlier orders on its
object, or executes. Its journal opcode is 0x9000 and its code (log 21). -/
def trustArrive (d : Ctl) (p : Port) (r : TrustRow) (id : Nat) (m : Bytes) (body : TrustBody) : Ctl :=
  if !doeUp d p then d
  else if (sessionOf d p id).isNone then emit d (.doe p (spdmError 2 id))
  else
    let op := 0x9000 + r.code
    let obj := trustObj r m
    let j := d.reeve.nextJseq
    let d := modSession d p id fun s => { s with used := now d }
    let e : JEntry := {
      master := pfMaster p, source := .doe p, opcode := op, obj := obj, arrival := mclk d, args := leBytes 4 id ++ m }
    match trustWinner d p op obj with
    | some _ => emit (closeEntry (enter d e) j 3) (.trust p id (trustResponse r.code 5 m []))
    | none =>
      let d := enter d e
      if (blockers d j obj).isEmpty then trustExec d j p r id m body
      else modEntry d j fun e => { e with state := .waiting }

/-! ### The messages -/

/-- The tenant is claimed: its keys are generated and recorded (R304, R312). -/
def claimTenant (d : Ctl) (i : Nat) (m : Bytes) : Ctl :=
  let salt := drawBytes d 16
  let d := drawn d
  let hbm := drawBytes d 64
  modTenant (drawn d) i fun x => { x with
    state := .claimed, ownerKey := sub m 16 96, ownerDigest := sha384 (sub m 16 96), rootKey := sub m 112 32
    claimSalt := salt, roadSalt := sub m 144 16, hbmKey := hbm, saltMismatch := false, joined := false }

/-- TENANT_CLAIM (R312): the claim, the zero-fill of the tenant's hamlets, and the road join (R315, R343). -/
def tenantClaimBody : TrustBody := fun d m =>
  match m.tenant.state with
  | .claimed => ((2, []), d)
  | .removing => ((5, []), d)
  | .created =>
    let d := claimTenant d m.index m.msg
    let d := forEach ((tenantHamlets d m.index).filter fun h => (getHam d h).assign == .assigned) d startFill
    let d := startBarrier d m.index 2 0 0x31
    match Tbl.find? d.tenants m.index with
    | some x => ((0, x.ownerDigest ++ x.claimSalt), d)
    | none => ((5, []), d)

/-- TENANT_CLAIM (R309, R310, R312). -/
def execTenantClaim (p : Port) (session : Nat) (msg : Bytes) (s : State) : Host.Outcome State Fault Refusal :=
  onCtl s fun d => trustArrive d p rowClaim session msg tenantClaimBody

/-- The session keys of a slice for epoch `e` (R305). -/
def epochKeys (x : Tenant) (s : Slice) (e : Nat) : EpochKeys :=
  let ctx := x.claimSalt ++ leBytes 4 s.incarnation.toNat ++ leBytes 2 e
  { epoch := e, h2d := tenantKey x "gqi slice h2d" ctx, d2h := tenantKey x "gqi slice d2h" ctx, gen := s.gen }

/-- The slice of a message, where it is the tenant's. -/
def trustSlice (d : Ctl) (m : TrustMsg) (k : Nat) : Option (Nat × Slice) :=
  let i := fld m.msg k 1
  let s := getSlice d i
  if s.state ≠ .free ∧ s.tenant = m.index then some (i, s) else none

/-- A new epoch becomes CURRENT, the former one PREVIOUS, and the one before is emptied (R313). -/
def installEpoch (s : Slice) (k : EpochKeys) : Slice :=
  { s with
    keys := {
      current := some k, previous := s.keys.current
      emptied := s.keys.emptied ++ (s.keys.previous.map (emptyEpoch s)).toList } }

/-- A BOUND slice enters ACTIVE, with lane 0 ENABLED (R53, R55, R313). -/
def activateBound (d : Ctl) (i : Nat) : Ctl :=
  if (getSlice d i).state = .bound then
    activated (modLane (shareUp d (modSlice d i fun s => { s with state := .active })) i 0 fun l => { l with state := .enabled }) i
  else d

/-- SLICE_KEY_INSTALL (R313). -/
def sliceKeyInstallBody : TrustBody := fun d m =>
  let e := fld m.msg 18 2
  match trustSlice d m 16 with
  | none => ((5, []), d)
  | some (i, s) =>
    let least := ((s.keys.current.map EpochKeys.epoch).getD 0) + 1
    if m.tenant.state ≠ .claimed ∨ s.state = .frozen ∨ e < least then ((5, []), d)
    else
      let d := modSlice d i fun s => installEpoch s (epochKeys m.tenant s e)
      ((0, leBytes 4 s.incarnation.toNat ++ leBytes 1 s.gen.toNat ++ zeros 3 ++ m.tenant.claimSalt), activateBound d i)

/-- SLICE_KEY_INSTALL (R309, R310, R313). -/
def execSliceKeyInstall (p : Port) (session : Nat) (msg : Bytes) (s : State) : Host.Outcome State Fault Refusal :=
  onCtl s fun d => trustArrive d p rowInstall session msg sliceKeyInstallBody

/-- SLICE_KEY_RETIRE: PREVIOUS becomes empty (R310, R313). -/
def sliceKeyRetireBody : TrustBody := fun d m =>
  match trustSlice d m 16 with
  | none => ((5, []), d)
  | some (i, s) => match s.keys.previous with
    | none => ((5, []), d)
    | some k =>
      if k.epoch ≠ fld m.msg 18 2 then ((5, []), d)
      else ((0, []), modSlice d i fun s => { s with
        keys := { s.keys with previous := none, emptied := s.keys.emptied ++ [emptyEpoch s k] } })

/-- SLICE_KEY_RETIRE (R309, R310). -/
def execSliceKeyRetire (p : Port) (session : Nat) (msg : Bytes) (s : State) : Host.Outcome State Fault Refusal :=
  onCtl s fun d => trustArrive d p rowRetire session msg sliceKeyRetireBody

/-- The content of measurement 16 + i, in the order R308 lists it (log 21); the mask counts GRANTED hamlets alone (R340). -/
def tenantMeasure (d : Ctl) (i : Nat) (x : Tenant) : Bytes :=
  leBytes 2 x.ident.toNat ++ leBytes 1 (tenantCode x.state) ++ padTo 48 x.ownerDigest ++
    leBytes 4 (ofBitList (grantedHamlets d i)) ++ leBytes 1 (b2n x.permitStrict + 2 * b2n x.permitMigration) ++
    leBytes 1 (b2n (strictInEffect d i)) ++ leBytes 4 ((x.roadCur.map RoadKey.gen).getD 0) ++
    leBytes 8 (if x.roadSalt.isEmpty then 0 else (saltDigest x).toNat)

/-- TENANT_STATUS (R310): the first 48 bytes of the measurement, as many as the field holds (log 21). -/
def tenantStatusBody : TrustBody := fun d m =>
  ((0, (tenantMeasure d m.index m.tenant).take 48 ++ leBytes 1 (b2n m.tenant.saltMismatch) ++ zeros 3 ++
    leBytes 4 (slicesWhere d fun s => s.tenant == m.index).length), d)

/-- TENANT_STATUS (R309, R310). -/
def execTenantStatus (p : Port) (session : Nat) (msg : Bytes) (s : State) : Host.Outcome State Fault Refusal :=
  onCtl s fun d => trustArrive d p rowStatus session msg tenantStatusBody

/-- MIGRATION_ARM (R310, R352): a new arm replaces an unconsumed one. -/
def migrationArmBody : TrustBody := fun d m =>
  match trustSlice d m 32 with
  | none => ((5, []), d)
  | some (i, s) =>
    if !m.tenant.permitMigration || !featureOn s 10 then ((5, []), d)
    else ((0, []), modSlice d i fun s => { s with arm := some (sub m.msg 16 16) })

/-- MIGRATION_ARM (R309, R310, R352). -/
def execMigrationArm (p : Port) (session : Nat) (msg : Bytes) (s : State) : Host.Outcome State Fault Refusal :=
  onCtl s fun d => trustArrive d p rowArm session msg migrationArmBody

/-! ### The SPDM responder (R306 to R308) -/

/-- The certificate chain of slot 0 with the header of DSP0274: length, reserved, root digest (R307). -/
def certChain (d : Ctl) : Bytes :=
  let certs := Config.rootCertificate ++
    Config.deviceCertificate Config.serial (ecPublic (Config.identityScalar Config.identitySeed)) ++ d.pkg.aliasCert
  leBytes 2 (52 + certs.length) ++ [0, 0] ++ sha384 Config.rootCertificate ++ certs

/-- Measurement contents by index (R308). -/
def measurement (d : Ctl) (n : Nat) : Option Bytes :=
  let k := d.pkg
  match n with
  | 1 => some Config.romDigest
  | 2 => some (k.runningDigest ++ leBytes 4 k.runningSvn)
  | 3 => some (sha384 Config.factoryCharter)
  | 4 => some (match inForce k with
      | some c => sha384 c.2
      | none => zeros 48)
  | 5 => some (leBytes 1 0xB0 ++ leBytes 4 k.fusedSvn ++ leBytes 1 (b2n k.debugUnlocked) ++ leBytes 1 (b2n k.debugUnlocked))
  | n => if 16 ≤ n ∧ n < 48 then (Tbl.find? d.tenants (n - 16)).map (tenantMeasure d (n - 16)) else none

/-- The DMTF value type of a block, a raw bit stream. -/
def measureType (n : Nat) : Nat := 0x80 + (if n ≤ 4 then n - 1 else if n = 5 then 2 else 4)

/-- A measurement block of DSP0274. -/
def measureBlock (n : Nat) (v : Bytes) : Bytes :=
  leBytes 1 n ++ [1] ++ leBytes 2 (3 + v.length) ++ leBytes 1 (measureType n) ++ leBytes 2 v.length ++ v

/-- The blocks a package reports, ascending by index. -/
def measureIndices (d : Ctl) : List Nat := (List.range 48).filter fun n => (measurement d n).isSome

def measureRecord (d : Ctl) (l : List Nat) : Bytes :=
  l.flatMap fun n => ((measurement d n).map (measureBlock n)).getD []

/-- The measurement summary hash a request asks for: none, the ROM and firmware, or every block. -/
def measureSummary (d : Ctl) (kind : Nat) : Bytes :=
  if kind = 0 then [] else if kind = 1 then sha384 (measureRecord d [1, 2]) else sha384 (measureRecord d (measureIndices d))

/-- An SPDM response leaves on the port's DOE mailbox. -/
def spdmAnswer (d : Ctl) (p : Port) (rsp : Bytes) : Ctl := emit d (.doe p rsp)

/-- The port has negotiated version, capabilities and algorithms. -/
def negotiated (d : Ctl) (p : Port) : Bool :=
  let x := getPort d p
  x.spdmVersion && x.spdmCaps && x.spdmAlgs

/-- A request of the responder: an ill-formed one, or one out of its turn, is answered with an error. -/
def spdmRequest (d : Ctl) (p : Port) (req : Bytes) (code least : Nat) (inTurn : Bool) (f : Ctl → Ctl) : Ctl :=
  if !doeUp d p then d
  else if fld req 1 1 ≠ code ∨ req.length < least then spdmAnswer d p (spdmError 1 0)
  else if fld req 0 1 ≠ (if code = 0x84 then 0x10 else 0x12) then spdmAnswer d p (spdmError 0x41 0)
  else if !inTurn then spdmAnswer d p (spdmError 4 0)
  else f d

/-- GET_VERSION (R306): every session of the port ends and the connection starts anew. -/
def execGetVersion (p : Port) (req : Bytes) (s : State) : Host.Outcome State Fault Refusal :=
  onCtl s fun d => spdmRequest d p req 0x84 4 true fun d =>
    let rsp : Bytes := [0x10, 0x04, 0, 0, 0, 1, 0x00, 0x12]
    spdmAnswer (modPort d p fun x => { x with
      sessions := [], spdmVersion := true, spdmCaps := false, spdmAlgs := false, spdmLog := req ++ rsp, spdmCerts := []
      spdmMeas := [] }) p rsp

/-- GET_CAPABILITIES (R306): certificates, challenge, signed measurements, encryption, MAC and key exchange. -/
def execGetCapabilities (p : Port) (req : Bytes) (s : State) : Host.Outcome State Fault Refusal :=
  onCtl s fun d => spdmRequest d p req 0xE1 20 (getPort d p).spdmVersion fun d =>
    let l := Config.spdmLimits
    let rsp := [0x12, 0x61, 0, 0, 0] ++ leBytes 1 l.1 ++ [0, 0] ++ leBytes 4 0x2D6 ++ leBytes 4 l.2.1 ++ leBytes 4 l.2.2
    spdmAnswer (modPort d p fun x => { x with spdmCaps := true, spdmLog := x.spdmLog ++ req ++ rsp }) p rsp

/-- The algorithm structures of a request that the device answers: type and selection. -/
def algStructs (req : Bytes) : List (Nat × Nat) :=
  (List.range (fld req 2 1)).map fun k =>
    let o := 32 + 4 * k
    let ask := fld req (o + 2) 2
    match fld req o 1 with
    | 2 => (2, if bitOf ask 4 then 0x10 else 0)
    | 3 => (3, if bitOf ask 1 then 2 else 0)
    | 5 => (5, if bitOf ask 0 then 1 else 0)
    | t => (t, 0)

/-- NEGOTIATE_ALGORITHMS (R306): ECDSA P-384, SHA-384, secp384r1 and AES-256-GCM, raw bit stream measurements. -/
def execNegotiateAlgorithms (p : Port) (req : Bytes) (s : State) : Host.Outcome State Fault Refusal :=
  onCtl s fun d => spdmRequest d p req 0xE3 32 ((getPort d p).spdmVersion && (getPort d p).spdmCaps) fun d =>
    let l := algStructs req
    let asym := if bitOf (fld req 8 4) 7 then 0x80 else 0
    let hash := if bitOf (fld req 12 4) 1 then 2 else 0
    let rsp := [0x12, 0x63] ++ leBytes 1 l.length ++ [0] ++ leBytes 2 (36 + 4 * l.length) ++ leBytes 1 (fld req 6 1 % 2) ++
      leBytes 1 (fld req 7 1 / 2 % 2 * 2) ++ leBytes 4 1 ++ leBytes 4 asym ++ leBytes 4 hash ++ zeros 16 ++
      l.flatMap fun a => leBytes 1 a.1 ++ [0x20] ++ leBytes 2 a.2
    if asym = 0 ∨ hash = 0 then spdmAnswer d p (spdmError 1 0)
    else spdmAnswer (modPort d p fun x => { x with spdmAlgs := true, spdmLog := x.spdmLog ++ req ++ rsp }) p rsp

/-- GET_DIGESTS (R306): the digest of slot 0's chain. -/
def execGetDigests (p : Port) (req : Bytes) (s : State) : Host.Outcome State Fault Refusal :=
  onCtl s fun d => spdmRequest d p req 0x81 4 (negotiated d p) fun d =>
    let rsp := [0x12, 0x01, 0, 1] ++ sha384 (certChain d)
    spdmAnswer (modPort d p fun x => { x with spdmCerts := x.spdmCerts ++ req ++ rsp }) p rsp

/-- GET_CERTIFICATE (R306, R307): a portion of slot 0's chain. -/
def execGetCertificate (p : Port) (req : Bytes) (s : State) : Host.Outcome State Fault Refusal :=
  onCtl s fun d => spdmRequest d p req 0x82 8 (negotiated d p) fun d =>
    let chain := certChain d
    let off := fld req 4 2
    let portion := sub chain off (fld req 6 2)
    let rsp := [0x12, 0x02, 0, 0] ++ leBytes 2 portion.length ++ leBytes 2 (chain.length - off - portion.length) ++ portion
    if fld req 2 1 ≠ 0 ∨ chain.length ≤ off then spdmAnswer d p (spdmError 1 0)
    else spdmAnswer (modPort d p fun x => { x with spdmCerts := x.spdmCerts ++ req ++ rsp }) p rsp

/-- A signature of the alias key with its context string (R303). -/
def spdmSign (d : Ctl) (ctx : String) (transcript : Bytes) : Bytes :=
  let text (t : String) : Bytes := t.toList.map fun c => BitVec.ofNat 8 c.toNat
  let pre := text "dmtf-spdm-v1.2.*dmtf-spdm-v1.2.*dmtf-spdm-v1.2.*dmtf-spdm-v1.2.*"
  ecdsaSign d.pkg.aliasKey (sha384 (pre ++ zeros (36 - ctx.length) ++ text ctx ++ sha384 transcript)) (Config.signNonce d.fresh)

/-- CHALLENGE (R306): a nonce of the device and a signature over the connection's transcript. -/
def execChallenge (p : Port) (req : Bytes) (s : State) : Host.Outcome State Fault Refusal :=
  onCtl s fun d => spdmRequest d p req 0x83 36 (negotiated d p) fun d =>
    if fld req 2 1 ≠ 0 then spdmAnswer d p (spdmError 1 0)
    else
      let x := getPort d p
      let rsp := [0x12, 0x03, 0, 1] ++ sha384 (certChain d) ++ drawBytes d 32 ++ measureSummary d (fld req 3 1) ++ [0, 0]
      let sig := spdmSign d "responder-challenge_auth signing" (x.spdmLog ++ x.spdmCerts ++ req ++ rsp)
      spdmAnswer (drawn (modPort d p fun x => { x with spdmCerts := [] })) p (rsp ++ sig)

/-- The blocks GET_MEASUREMENTS asks for: none, one or all; none where the index reports no block. -/
def measureAsked (d : Ctl) (n : Nat) : Option (List Nat) :=
  if n = 0 then some []
  else if n = 0xFF then some (measureIndices d)
  else if (measurement d n).isSome then some [n] else none

/-- GET_MEASUREMENTS (R306, R308): a signed response carries the requester's transcript and nonce. -/
def execGetMeasurements (p : Port) (req : Bytes) (s : State) : Host.Outcome State Fault Refusal :=
  onCtl s fun d => spdmRequest d p req 0xE0 4 (negotiated d p) fun d =>
    let signed := bitOf (fld req 2 1) 0
    match measureAsked d (fld req 3 1) with
    | none => spdmAnswer d p (spdmError 1 0)
    | some l =>
      if signed ∧ (req.length < 37 ∨ fld req 36 1 ≠ 0) then spdmAnswer d p (spdmError 1 0)
      else
        let body := measureRecord d l
        let total := if fld req 3 1 = 0 then (measureIndices d).length else 0
        let rsp := [0x12, 0x60] ++ leBytes 1 total ++ [0] ++ leBytes 1 l.length ++ leBytes 3 body.length ++ body ++
          drawBytes d 32 ++ [0, 0]
        let x := getPort d p
        let log := x.spdmMeas ++ req ++ rsp
        let sig := if signed then spdmSign d "responder-measurements signing" (x.spdmLog ++ log) else []
        spdmAnswer (drawn (modPort d p fun x => { x with spdmMeas := if signed then [] else log })) p (rsp ++ sig)

/-- A new session; a fifth ends the port's least recently used one (R306). -/
def addSession (d : Ctl) (p : Port) (n : SpdmSession) : Ctl :=
  modPort d p fun x =>
    let least := x.sessions.foldl (fun a s => min a s.used) (now d)
    let kept := if x.sessions.length < 4 then x.sessions else
      match x.sessions.find? fun s => s.used == least with
      | some s => x.sessions.erase s
      | none => x.sessions
    { x with sessions := kept.filter (fun s => s.id != n.id) ++ [n], nextSession := (x.nextSession + 1) % 2 ^ 16 }

/-- A label of the SPDM key schedule with its context. -/
def spdmInfo (label : String) (ctx : Bytes) : Bytes :=
  leBytes 2 48 ++ ("spdm1.2 ".toList ++ label.toList).map (fun c => BitVec.ofNat 8 c.toNat) ++ ctx

/-- The finished key of a direction, from the shared secret and the transcript up to KEY_EXCHANGE. -/
def finishedKey (secret transcript : Bytes) (label : String) : Bytes :=
  let hs := hmac384 (zeros 48) secret
  hkdfExpand (hkdfExpand hs (spdmInfo label (sha384 transcript)) 48) (spdmInfo "finished" []) 48

/-- KEY_EXCHANGE (R306): a new session under the device's ephemeral share. -/
def execKeyExchange (p : Port) (req : Bytes) (s : State) : Host.Outcome State Fault Refusal :=
  onCtl s fun d => spdmRequest d p req 0xE4 138 (negotiated d p) fun d =>
    let share := sub req 40 96
    if fld req 3 1 ≠ 0 ∨ !ecKeyValid share then spdmAnswer d p (spdmError 1 0)
    else
      let x := getPort d p
      let id := fld req 4 2 + 2 ^ 16 * x.nextSession
      let secret := ecShared (Config.ephemeralScalar d.fresh) share
      let rsp := [0x12, 0x64, 0, 0] ++ leBytes 2 x.nextSession ++ [0, 0] ++ drawBytes d 32 ++ ecPublic (Config.ephemeralScalar d.fresh) ++
        measureSummary d (fld req 2 1) ++ [0, 0]
      let sig := spdmSign d "responder-key_exchange_rsp signing" (x.spdmLog ++ sha384 (certChain d) ++ req ++ rsp)
      let th := x.spdmLog ++ sha384 (certChain d) ++ req ++ rsp ++ sig
      let verify := hmac384 (finishedKey secret th "rsp hs data") (sha384 th)
      spdmAnswer (drawn (addSession d p { id := id, transcript := th ++ verify, secret := secret, used := now d })) p
        (rsp ++ sig ++ verify)

/-- The transcript of a session up to its KEY_EXCHANGE signature: the verify data follow it. -/
def exchanged (t : Bytes) : Bytes := t.take (t.length - 48)

/-- FINISH (R306, R309): `req` is the 4-byte session number and the decrypted message. The requester's verify data show
that it holds the handshake key; the transcript hash then stands for the session. -/
def execFinish (p : Port) (req : Bytes) (s : State) : Host.Outcome State Fault Refusal :=
  onCtl s fun d => spdmRequest d p (req.drop 4) 0xE5 52 (negotiated d p) fun d =>
    let id := fld req 0 4
    let m := req.drop 4
    match (getPort d p).sessions.find? fun s => s.id == id && !s.established with
    | none => spdmAnswer d p (spdmError 2 id)
    | some n =>
      let key := finishedKey n.secret (exchanged n.transcript) "req hs data"
      if hmac384 key (sha384 (n.transcript ++ m.take 4)) ≠ sub m 4 48 then spdmAnswer d p (spdmError 6 0)
      else
        let rsp : Bytes := [0x12, 0x65, 0, 0]
        let d := modSession d p id fun n => { n with
          established := true, transcript := sha384 (n.transcript ++ m ++ rsp), secret := [], used := now d }
        spdmAnswer d p rsp

end Sys2Proof.Machine
end

