-- ==== Sys2Proof/Machine/Ports.lean ====
section
/-! DEFINITION. The host ports: link up and down, failover of dual-homed slices, FLR and PERST, configuration requests and
invalidations of translations (R24, R42, R79, R85, R87, R134, R479, R481, R490). -/

namespace Sys2Proof.Machine
open Sys2Proof

/-! ### Loss of a port (R53, R78, R79, R87) -/

/-- The writes of a completion entry that the guest has not consumed, through the other port: the entry goes to that
port's ring (R79). -/
def rewriteEntry (d : Ctl) (i l : Nat) (x : Delivered) : Ctl :=
  let s := getSlice d i
  let addr := cqBase (getLane d i l) s.cur + BitVec.ofNat 64 (32 * x.index)
  let d := (x.writes.dropLast).foldl (fun d w => sliceWrite d i l false w.1 w.2) d
  match x.writes.getLast? with
  | some w => sliceWrite d i l false addr w.2
  | none => d

/-- The unconsumed entries of every lane of a slice that were written on the lost port are written again, on the current one; so are
the results delivered there whose entry is still to be written, in their lane's order (R79, R118). DESIGN CHOICE (log 50):
slice-event entries on lane 0 are rewritten like those of commands. -/
def rewriteSlice (d : Ctl) (i : Nat) (lost : Port) : Ctl :=
  let d := (getSlice d i).lanes.foldl (fun d (e : Nat × Lane) =>
    (e.2.delivered.filter fun x => x.port == lost).foldl (fun d x => rewriteEntry d i e.1 x) d) d
  let cur := (getSlice d i).cur
  redeliver (modSlice d i fun s => { s with
    lanes := Tbl.mapVal s.lanes fun _ (ln : Lane) => { ln with delivered := ln.delivered.map fun x => { x with port := cur } } }) i

/-- Reads of a slice that the lost port left unanswered are issued again on the current port (DEDUCED, log 22). -/
def reissue (d : Ctl) (i : Nat) : Ctl :=
  let reads := d.cmds.filter fun (e : Nat × Cmd) => e.2.slice == i && e.2.phase == .input
  forEach (Tbl.keys (getSlice d i).lanes) (reads.foldl (fun d e => readInput d e.1 e.2) d) fun d l => fetchNext d i l

/-- The guarantees of slice `i`'s reservation on the other port are guarantees on port `p` (09, "A dual-homed slice fails
over"). -/
def moveGuarantees (d : Ctl) (i : Nat) (p : Port) : Ctl :=
  match resvOf d i with
  | none => d
  | some (k, v) =>
    let g (p : Port) (out : Nat) : Nat := Tbl.getD v.guarantees (2 * portNum p + out) 0
    let sum (out : Nat) : Tbl Nat :=
      let n := g p out + g (otherPort p) out
      if n = 0 then [] else [(2 * portNum p + out, n)]
    { d with
      reservations := Tbl.set d.reservations k { v with
        guarantees := sum 0 ++ sum 1 ++ v.guarantees.filter fun (e : Nat × Nat) => 4 ≤ e.1 } }

/-- A dual-homed slice moves to port `p` (R78, R79, R116). -/
def failover (d : Ctl) (i : Nat) (p : Port) : Ctl :=
  let d := rewriteSlice (leaveFast (moveGuarantees (modSlice d i fun s => { s with cur := p }) i p) i) i (otherPort p)
  reissue (sliceEvent d i 1 (portNum p) 0) i

/-- A slice left with no port: PORT_LOST when the link went, FENCED when the function was reset; its commands are aborted
(R53, R87). -/
def losePort (d : Ctl) (i : Nat) (flr : Bool) : Ctl :=
  if (getSlice d i).state ≠ .active then d
  else if flr then discardWhere (fenceSlice d i (getSlice d i).proc) (fun _ c => c.slice == i) St.fenced
  else discardWhere (modSlice d i fun s => { s with state := .portLost }) (fun _ c => c.slice == i) St.portLost

/-- Slice `i` loses its current port `p` and has the other. -/
def failsOver (d : Ctl) (p : Port) (i : Nat) : Bool :=
  let s := getSlice d i
  s.cur == p && boundOn s (otherPort p) && (getPort d (otherPort p)).linkUp

/-- What the loss of a port does to a slice. -/
def slicePortGone (p : Port) (flr : Bool) (d : Ctl) (i : Nat) : Ctl :=
  if (getSlice d i).cur ≠ p then d
  else if failsOver d p i then failover d i (otherPort p)
  else losePort d i flr

/-- What the loss of a port does to every slice: one journal step. -/
def slicesPortGone (d : Ctl) (p : Port) (flr : Bool) : Ctl :=
  let l := slicesWhere d fun _ => true
  mirrorStep d .package 0 (forEach l d (slicePortGone p flr))

/-- The slices whose save or restore uses the port. -/
def migOn (d : Ctl) (p : Port) : List Nat :=
  (d.slices.filter fun (e : Nat × Slice) => match e.2.proc with
    | some k => (k.kind == .save || k.kind == .restore) && migPort d k.jseq == portNum p
    | none => false).map Prod.fst

/-- The SPDM sessions of a port end (10, "FLR or link loss on a port"). -/
def endSessions (d : Ctl) (p : Port) : Ctl :=
  modPort d p fun x => { x with
    sessions := [], spdmVersion := false, spdmCaps := false, spdmAlgs := false, spdmLog := [], spdmCerts := [], spdmMeas := [] }

/-- What the loss of a link and a function reset share; `flr` says which it is. -/
def portGone (d : Ctl) (p : Port) (flr : Bool) : Ctl :=
  let d := endSessions (modPort d p fun x => { x with ats := false, atc := [], tx := [] }) p
  let d := forEach (migOn d p) d abortMig
  settled (slicesPortGone d p flr)

/-- The port's link is down: a record of detector 0x15, and the slices' loss of it (R79, R367). -/
def linkLost (d : Ctl) (p : Port) : Ctl :=
  if (getPort d p).linkUp then
    let d := faultRecord (modPort d p fun x => { x with linkUp := false }) 0x15 6 2 (portNum p) 0xFF 0 0xFFFF 0
    portGone d p false
  else d

/-- The PF of a port after a function reset: mailbox IDLE, async ring empty, wide mailbox and MSI-X at reset, every vector
masked (R87, R501, 17 "FLR of a port's PF"). -/
def resetFunction (x : PortState) : PortState :=
  { x with msix := [], pba := [], mbx := {}, wide := {}, shadow := none, laneShadow := [] }

/-- FLR of a port's PF (R53, R79, R87). -/
def functionReset (d : Ctl) (p : Port) : Ctl := portGone (modPort d p resetFunction) p true

/-- LINK_DOWN (R79). -/
def execLinkDown (p : Port) (s : State) : Host.Outcome State Fault Refusal :=
  onCtl s fun d => if awake d then linkLost d p else d

/-- FLR (R79, R87). -/
def execFlr (p : Port) (s : State) : Host.Outcome State Fault Refusal :=
  onCtl s fun d => if awake d && (getPort d p).linkUp then functionReset d p else d

/-! ### Links and PERST (R479, R490) -/

/-- A port may train: out of PERST, the package awake and past phase 2 (R479). -/
def mayTrain (d : Ctl) (p : Port) : Bool :=
  awake d && d.pkg.life != .failed && d.pkg.resetN && !(getPort d p).perst && !(getPort d p).linkUp &&
    (d.pkg.life != .selftest || decide (2 ≤ d.pkg.phase))

/-- The options of a port in force (R486, R490). -/
def optionsOf (d : Ctl) : Port → PcieOptions
  | .ha => d.pkg.pcieA
  | .hb => d.pkg.pcieB

/-- LINK_UP (R78, R79, R490): the link trains within its options. A current port does not switch back; a PORT_LOST slice
bound to the port is reached through it again (R53). -/
def execLinkUp (p : Port) (rate : LinkRate) (width : LinkWidth) (s : State) : Host.Outcome State Fault Refusal :=
  onCtl s fun d =>
    if mayTrain d p && decide (rate ≤ (optionsOf d p).rate) && decide (width ≤ (optionsOf d p).width) then
      let d := modPort d p fun x => { x with linkUp := true, rate := rate, width := width }
      mirrorStep d .package 0
        (forEach (slicesWhere d fun s => s.state == .portLost && boundOn s p) d fun d i => modSlice d i fun s => { s with cur := p })
    else d

/-- PERST_ASSERT (R479): the port's link and PF are reset, with the effects of R79 and R87; none under PKG_RESET_N. -/
def execPerstAssert (p : Port) (s : State) : Host.Outcome State Fault Refusal :=
  onCtl s fun d =>
    let d := modPort d p fun x => { x with perst := true }
    if d.pkg.resetN && awake d then modPort (linkLost d p) p resetFunction else d

/-- PERST_DEASSERT (R479): the port may train. It cannot deassert while PKG_RESET_N is asserted. -/
def execPerstDeassert (p : Port) (s : State) : Host.Outcome State Fault Refusal :=
  onCtl s fun d => if d.pkg.resetN then modPort d p fun x => { x with perst := false } else d

/-! ### Configuration requests and translations (R24, R42, R85, R134, R481) -/

/-- The configuration words the spec gives: identity, class and revision, subsystem (R24, R42). -/
def configWord (d : Ctl) (off : BitVec 12) : Option W32 :=
  if off = 0x000 then d.pkg.deviceId.map fun v => v ++ 0xA7F3#16
  else if off = 0x008 then some 0x120000B0
  else if off = 0x02C then some 0x0D32A7F3
  else none

/-- Request Retry Status is answered until phase 5 has ended (R481). -/
def retryStatus (d : Ctl) : Bool := d.pkg.deviceId.isNone

/-- CONFIG_REQUEST (R24, R42, R85, R481): a read of a word the spec does not give returns a free value. -/
def execConfigRequest (p : Port) (off : BitVec 12) (write : Option W32) (s : State) : Host.Outcome State Fault Refusal :=
  onCtl s fun d =>
    if !awake d || !(getPort d p).linkUp then d
    else if retryStatus d then emit d (.config p none)
    else match write with
      | some v => if off = Config.atsControl then modPort d p fun x => { x with ats := v.getLsbD 31 } else d
      | none => match configWord d off with
        | some w => emit d (.config p (some w))
        | none => drawn (emit d (.config p (some ((Config.freeWord d.fresh).truncate 32))))

/-- The slice of a PASID on a port. -/
def sliceOfPasid (d : Ctl) (p : Port) (pasid : BitVec 20) : Option Nat :=
  (List.find? (fun (e : Nat × Slice) => boundOn e.2 p && pasidOn e.2 p == pasid) d.slices).map Prod.fst

/-- ATS_INVALIDATION (R85, R134): the translation goes; one of a postcard result area is asked for again at once. -/
def execAtsInvalidation (p : Port) (pasid : BitVec 20) (page : Nat) (s : State) : Host.Outcome State Fault Refusal :=
  onCtl s fun d =>
    if !awake d || !(getPort d p).linkUp then d
    else
      let held := atcHolds (getPort d p) pasid page
      let d := emit (modPort d p fun x => { x with atc := x.atc.filter fun e => !(e.pasid == pasid.toNat && e.page == page) }) (.atsDone p)
      match held && inResultArea d p pasid page, sliceOfPasid d p pasid with
      | true, some i => holdPage (askPage d p i page) p i page
      | _, _ => d

end Sys2Proof.Machine
end

