-- ==== Sys2Proof/Machine/Bringup.lean ====
section
/-! DEFINITION. Power, reset pins, self-test, lantern state, voltage scaling, the I3C status and the TAP (R32, R473 to R483,
R491, R492, R494, R533, R539). -/

namespace Sys2Proof.Machine
open Sys2Proof

/-! ### Power and reset pins (R473, R475, R476, R479) -/

/-- Self-test starts at phase 1, unless THERMTRIP holds every die in reset (R473, R539). -/
def startSelftest (d : Ctl) : Ctl :=
  if d.pkg.thermtrip then d else modPkg d fun k => { k with life := .selftest, phase := 0, code := 0, fullStart := now d }

/-- AUX is left for self-test while PWR_OK and PKG_RESET_N are both high (R473). -/
def leaveAux (d : Ctl) : Ctl := if d.pkg.life = .aux ∧ d.pkg.pwrOk ∧ d.pkg.resetN then startSelftest d else d

/-- VDD_AUX_CHANGE (R473, R481, R533): its loss loses every state, the lantern latch and the TAP's with it. -/
def execVddAuxChange (inRange : Bool) (s : State) : Host.Outcome State Fault Refusal :=
  onDev s fun d =>
    if inRange then
      (if d.pkg.life = .off then withCtl d fun d => leaveAux (modPkg d fun k => { k with vddAux := true, life := .aux }) else d)
    else withCtl (clearedDev d .off) fun d => modPkg d fun k => { k with
      vddAux := false, latch := false, latchCode := 0, thermtrip := false, jtag := .idcode, boundary := 0 }

/-- PWR_OK_ASSERT (R473, R475): AUX is left once PKG_RESET_N is deasserted too. -/
def execPwrOkAssert (s : State) : Host.Outcome State Fault Refusal :=
  onCtl s fun d => leaveAux (modPkg d fun k => { k with pwrOk := true })

/-- PWR_OK_DEASSERT (R473, R476, R479, R539): FENCED on every road, then AUX; THERMTRIP_N is released. -/
def execPwrOkDeassert (s : State) : Host.Outcome State Fault Refusal :=
  onDev s fun d =>
    if d.pkg.life = .off then withCtl d fun d => modPkg d fun k => { k with pwrOk := false }
    else
      let d := if awake d.toCtl then clearedDev (withCtl d fenceRoads) .aux else d
      withCtl d fun d => modPkg d fun k => { k with pwrOk := false, life := .aux, thermtrip := false }

/-- PKG_RESET_N_ASSERT (R404, R408, R479): an operating package sets FENCED and records the reset, which is not counted
(R407); then every die is in reset, and the outputs with it (R527). -/
def execPkgResetNAssert (s : State) : Host.Outcome State Fault Refusal :=
  onDev s fun d =>
    let d := withCtl d fun d => modPkg d fun k => { k with resetN := false }
    if !awake d.toCtl then withCtl d fun d => modPkg d fun k => { k with phase := 0 }
    else if d.pkg.life = .operating then
      clearedDev (withCtl d fun d => pushHistory (fenceRoads d) 1 0x80 false) .inReset
    else clearedDev d .inReset

/-- PKG_RESET_N_DEASSERT (R32, R473, R479): the straps are sampled and self-test starts. -/
def execPkgResetNDeassert (tray : Fin 8) (slot : Fin 4) (s : State) : Host.Outcome State Fault Refusal :=
  onCtl s fun d =>
    if d.pkg.resetN then d
    else
      let d := modPkg d fun k => { k with resetN := true, tray := tray.val, slot := slot.val }
      if d.pkg.pwrOk ∧ (d.pkg.life = .aux ∨ d.pkg.life = .inReset) then startSelftest d else d

/-- The dies enter reset after a package fabric fault and self-test starts (R404, R528), unless THERMTRIP holds them there
(R539); the phase reached stays, since the outputs stay driven (R528). -/
def leaveFailed (d : Dev) : Dev :=
  if d.pkg.thermtrip then withCtl (clearedDev d .inReset) fun e => modPkg e fun k => { k with phase := d.pkg.phase }
  else clearedDev d .selftest

/-- REFCLK_RESTORED (R47, R479): self-test restarts at phase 1. -/
def execRefclkRestored (s : State) : Host.Outcome State Fault Refusal :=
  onDev s fun d =>
    if d.pkg.refclk then d
    else
      let d := withCtl d fun d => modPkg d fun k => { k with refclk := true }
      match d.pkg.life with
      | .failed => leaveFailed d
      | .selftest => clearedDev d .selftest
      | _ => d

/-! ### Unit failures of self-test (R29, R188, R371, R373, R480) -/

/-- A croft is retired at self-test. -/
def testCroft (x : Hamlet) (c : Nat) : Hamlet :=
  { x with badCrofts := if x.badCrofts.contains c then x.badCrofts else x.badCrofts ++ [c] }

/-- A hamlet leaves service at self-test, for a cause that only a full reset clears. -/
def testOut (d : Ctl) (h detector : Nat) : Ctl :=
  if (getHam d h).outOfService && (getHam d h).hardOut then d else leaveService d h detector 0 true

/-- What one failed unit of phase `n` does; units of another kind than the phase tests are left alone. -/
def unitFailed (n : Nat) (d : Ctl) (u : FailedUnit) : Ctl :=
  let h := u.unit % 32
  match n, u.kind with
  | 2, 4 =>
    if u.unit = 0 then modReeve d fun r => { r with pair0 := .out, pair1 := .active, active := 1 }
    else modReeve d fun r => { r with pair1 := .out }
  | 5, 1 => modHam d h fun x => testCroft x (u.sub % 13)
  | 5, 5 => testOut d h 0x05
  | 6, 2 => modHam d h fun x => { x with channels := Tbl.set x.channels (u.sub % 4) .retired }
  | 8, 1 => modHam d h fun x => testCroft x (u.sub % 13)
  | _, _ => d

/-- The hamlets with two channels or more retired, and those with fewer than 8 crofts, leave service. -/
def testHamlets (d : Ctl) (n : Nat) : Ctl :=
  forEach (List.range 32) d fun d h =>
    let x := getHam d h
    if n = 6 ∧ (chansInService x).length < 3 then testOut d h 0x07
    else if n = 8 ∧ croftCount x < 8 then testOut d h 0x01
    else d

/-- Every channel of Field `f` has failed. -/
def fieldDead (d : Ctl) (f : Nat) : Bool := (List.range 8).all fun k => (chansInService (getHam d (8 * f + k))).isEmpty

/-! ### Firmware (R483) -/

/-- The Hearth ROM derives the alias key for the firmware it loads and signs the alias certificate with the identity key (R303). -/
def makeAlias (d : Ctl) : Ctl :=
  let k := Config.aliasScalar Config.identitySeed d.pkg.runningDigest
  let body := Config.aliasBody (ecPublic k) d.pkg.runningDigest d.pkg.runningSvn
  let sig := ecdsaSign (Config.identityScalar Config.identitySeed) (sha384 body) (Config.signNonce d.fresh)
  modPkg (drawn d) fun p => { p with aliasKey := k, aliasCert := Config.certificateOf body sig }

/-- Phase 4: the copy that loads runs; a record where the copy tried first did not load (DEDUCED, log 55). -/
def loadFirmware (d : Ctl) : Ctl :=
  match fwChoice d.pkg with
  | none => d
  | some c =>
    let other := if c.1 then d.pkg.firmwareA.bytes else d.pkg.firmwareB.bytes
    let first := if c.1 then decide (fwVersion c.2 ≤ fwVersion other) else decide (fwVersion c.2 < fwVersion other)
    let tried := fld other 0 4 == 0x46575650 && first
    let d := if tried then faultRecord d 0x17 8 1 0xFFFF 0xFF 0 0xFFFF 0 else d
    makeAlias (modPkg d fun k => { k with
      runningB := c.1, runningVersion := BitVec.ofNat 32 (fwVersion c.2), runningSvn := fwSvn c.2, runningDigest := sub c.2 16 48 })

/-! ### Phases and lantern state (R480, R481, R494) -/

/-- What phase `n` does beside its unit failures. -/
def phaseWork (d : Ctl) (n : Nat) : Ctl :=
  match n with
  | 3 => loadCharter d
  | 4 => loadFirmware d
  | _ => d

/-- Phase `n` meets its lantern condition: the event says so, or the units it failed do. -/
def lanternCondition (d : Ctl) (n : Nat) (r : PhaseResult) : Bool :=
  match n with
  | 2 => r.lantern || (d.reeve.pair0 == .out && d.reeve.pair1 == .out) ||
      (r.failed.any (fun u => u.kind == 4 && u.unit == 0) && r.failed.any fun u => u.kind == 4 && u.unit == 1)
  | 4 => r.lantern || (fwChoice d.pkg).isNone
  | 6 => r.lantern || (List.range 4).any (fieldDead d)
  | 7 => false
  | 8 => r.lantern || (List.range 32).all fun h => (getHam d h).outOfService
  | _ => r.lantern

/-- Lantern state is entered, with Device ID 0x0041 and the IBI (R481, R492, R494). -/
def enterLantern (d : Ctl) (code : Byte) : Ctl :=
  raiseIbi (modPkg d fun k => { k with life := .lantern, code := code, deviceId := some 0x0041 }) 0x13

/-- Self-test has passed: OPERATING, READY and its IBI (R473, R480, R492). -/
def enterOperating (d : Ctl) : Ctl := raiseIbi (modPkg d fun k => { k with life := .operating }) 0x14

/-- The phase's duration, result and failed units are recorded (R480). -/
def recordPhase (d : Ctl) (n : Nat) (r : PhaseResult) (bad : Bool) : Ctl :=
  modPkg d fun k => { k with
    phase := n, results := Tbl.set k.results n (r.durationMs, if bad then 2 else if r.failed.isEmpty then 0 else 1)
    failed := k.failed ++ r.failed.map fun u => (n, u) }

/-- The failure code of phase `n`. -/
def failCode (n : Nat) (r : PhaseResult) : Byte := BitVec.ofNat 8 (16 * n + r.detail.toNat)

/-- The end of a phase (R480, R481): units retired, then lantern state, the latch and its full reset, or the next phase. -/
def endPhase (d : Dev) (n : Nat) (r : PhaseResult) : Dev :=
  let d := withCtl d fun d => testHamlets (r.failed.foldl (unitFailed n) (phaseWork d n)) n
  let bad := lanternCondition d.toCtl n r
  let d := withCtl d fun d => recordPhase d n r bad
  if bad ∧ n ≤ 5 then withCtl d fun d => enterLantern d (failCode n r)
  else if bad then
    fullReset (withCtl d fun d => modPkg d fun k => { k with latch := true, latchCode := failCode n r }) 0x81 false
  else if n = 5 ∧ d.pkg.latch then withCtl d fun d => enterLantern d d.pkg.latchCode
  else if n = 5 then withCtl d fun d => modPkg d fun k => { k with deviceId := some 0x0040 }
  else if n = 8 then withCtl d enterOperating
  else d

/-- SELFTEST_PHASE_DONE (R480, R481): the next phase ends. After a package fabric fault it is the dies' entry into reset. -/
def execSelftestPhaseDone (r : PhaseResult) (s : State) : Host.Outcome State Fault Refusal :=
  onDev s fun d =>
    match d.pkg.life with
    | .failed => if d.pkg.refclk || d.pkg.thermtrip then leaveFailed d else d
    | .selftest => if d.pkg.refclk then endPhase d (d.pkg.phase + 1) r else d
    | _ => d

/-! ### Voltage scaling and the I3C status (R477, R491, R492) -/

/-- The package answers I3C: from the end of phase 1 (R473, R491). -/
def i3cUp (d : Ctl) : Bool :=
  match d.pkg.life with
  | .off | .aux | .inReset => false
  | .selftest => decide (1 ≤ d.pkg.phase)
  | _ => true

/-- A Field rail's target, its boot value until the first change (R475). -/
def avsTarget (d : Ctl) (f : Nat) : Nat := Tbl.getD d.pkg.avs f 750

/-- AVS_TARGET_CHANGE (R477): at most once per 1 ms and Field, from 650 to 800 mV in steps of 5. -/
def execAvsTargetChange (f : Fin 4) (mv : Nat) (s : State) : Host.Outcome State Fault Refusal :=
  onCtl s fun d =>
    let late := match Tbl.find? d.pkg.avsTimes f.val with
      | some t => decide (t + ms 1 ≤ now d)
      | none => true
    if i3cUp d && late && decide (650 ≤ mv ∧ mv ≤ 800) && mv % 5 == 0 then
      raiseIbi (modPkg d fun k => { k with avs := Tbl.set k.avs f.val mv, avsTimes := Tbl.set k.avsTimes f.val (now d) }) 0x11
    else d

/-- The status of selector 0x20, 32 B (R491): bit `c` of the pending word stands for IBI code `c` (log 14). -/
def i3cStatus (d : Ctl) : Bytes :=
  let newest := d.reeve.faultLog.getLast?
  leBytes 4 (selftestWord d.pkg) ++ leBytes 4 (hrtId d .reeve) ++ leBytes 4 (alertStatus d).toNat ++
    leBytes 4 (ofBitList (d.pkg.ibi.map fun c => c.toNat)) ++ ((List.range 4).flatMap fun f => leBytes 2 (avsTarget d f)) ++
    leBytes 4 ((newest.map FaultRecord.rseq).getD 0) ++ leBytes 1 ((newest.map FaultRecord.detector).getD 0) ++
    leBytes 1 ((newest.map FaultRecord.action).getD 0) ++ zeros 2

/-- I3C_STATUS_READ (R491, R492): the status leaves, and no IBI is pending. -/
def execI3cStatusRead (s : State) : Host.Outcome State Fault Refusal :=
  onCtl s fun d => if i3cUp d then modPkg (emit d (.i3cData (i3cStatus d))) fun k => { k with ibi := [] } else d

/-- I3C_DYNAMIC_ADDRESS (R491): SETDASA or ENTDAA makes the package an I3C target. -/
def execI3cDynamicAddress (a : BitVec 7) (s : State) : Host.Outcome State Fault Refusal :=
  onCtl s fun d => if i3cUp d then modPkg d fun k => { k with i3cAddress := some a } else d

/-! ### The TAP (R533) -/

/-- The TAP runs while the package has its auxiliary supplies. -/
def tap (d : Ctl) (i : JtagInstr) : Ctl := if d.pkg.life = .off then d else modPkg d fun k => { k with jtag := i }

/-- EXTEST (R533): loaded while PKG_RESET_N is high it acts as BYPASS, and engages once PKG_RESET_N is low (`pins`). -/
def execExtest (s : State) : Host.Outcome State Fault Refusal := onCtl s fun d => tap d .extest

/-- IDCODE (R533). -/
def execIdcode (s : State) : Host.Outcome State Fault Refusal :=
  onCtl s fun d => if d.pkg.life = .off then d else emit (tap d .idcode) (.jtagData 0xB00407B3)

/-- SAMPLE_PRELOAD (R533): the pins are sampled, the boundary cells preloaded. -/
def execSamplePreload (pins preload : BitVec 64) (s : State) : Host.Outcome State Fault Refusal :=
  onCtl s fun d =>
    if d.pkg.life = .off then d
    else emit (modPkg (tap d .samplePreload) fun k => { k with sampled := pins, boundary := preload }) (.jtagData pins)

/-- CLAMP (R533): as EXTEST, from the preloaded cells. -/
def execClamp (s : State) : Host.Outcome State Fault Refusal := onCtl s fun d => tap d .clamp

/-- HIGHZ (R533): as EXTEST, with every output high-impedance. -/
def execHighz (s : State) : Host.Outcome State Fault Refusal := onCtl s fun d => tap d .highz

/-- BYPASS (R533). -/
def execBypass (s : State) : Host.Outcome State Fault Refusal := onCtl s fun d => tap d .bypass

end Sys2Proof.Machine
end

