-- ==== Sys2Proof/Machine/Provision.lean ====
section
/-! DEFINITION. Charter, firmware, reboot and debug orders, and the flash operations they wait for (R337, R474, R483, R484,
R488, R489, R494, R519, R523). -/

namespace Sys2Proof.Machine
open Sys2Proof

/-! ### Reading the charter (R488, R489) -/

/-- The records of a copy with the value of MGMT_KEY as zeros; `n` bounds the records. -/
def maskKey : Nat → Bytes → Bytes
  | 0, b => b
  | n + 1, b =>
    let len := fld b 2 2
    if b.length < 4 then b
    else
      let v := if fld b 0 2 = 10 then zeros (min len (b.length - 4)) else sub b 4 len
      b.take 4 ++ v ++ sub b (4 + len) (padded len - len) ++ maskKey n (b.drop (4 + padded len))

/-- The bytes of a charter layer: factory, copy A, copy B, copy in force. -/
def charterLayer (k : Package) (layer : Nat) : Bytes :=
  match layer with
  | 0 => Config.factoryCharter
  | 1 => k.copyA.bytes
  | 2 => k.copyB.bytes
  | _ => ((inForce k).map Prod.snd).getD []

/-- A copy as MB_CHARTER_READ shows it. -/
def shownCopy (b : Bytes) : Bytes := b.take 64 ++ maskKey b.length (b.drop 64)

/-- MB_CHARTER_READ. -/
def mbCharterReadBody : Body := fun d o =>
  ok (padTo 240 ((shownCopy (charterLayer d.pkg (fld o.args 0 1))).drop (fld o.args 4 4))) d

/-- MB_CHARTER_READ (R488). -/
def execMbCharterRead (src : OrderSource) (s : State) : Host.Outcome State Fault Refusal :=
  onCtl s fun d => order d src 0x0800 (.ok [])
    (fun _ a => badArgs a 8 [1, 2, 3] || decide (3 < fld a 0 1) || fld a 4 4 % 4 != 0) mbCharterReadBody

/-! ### Writing the charter (R486 to R489) -/

/-- The records of MB_CHARTER_WRITE: tag and value to set, or none to clear; `n` bounds them. -/
def readWrites : Nat → Bytes → Option (List (Nat × Option Bytes))
  | 0, b => if b.isEmpty then some [] else none
  | n + 1, b =>
    if b.isEmpty then some []
    else if b.length < 4 then none
    else if fld b 2 2 = 0xFFFF then (readWrites n (b.drop 4)).map fun l => (fld b 0 2, none) :: l
    else
      let len := fld b 2 2
      if b.length < 4 + padded len then none
      else (readWrites n (b.drop (4 + padded len))).map fun l => (fld b 0 2, some (sub b 4 len)) :: l

/-- A record to write is of the table and in range: MGMT_KEY comes in clear. -/
def writeOk (w : Nat × Option Bytes) : Bool :=
  match w.2 with
  | none => decide (1 ≤ w.1 ∧ w.1 ≤ 12)
  | some v => if w.1 = 10 then v.length == 32 else fieldOk w.1 v

/-- The writes of a command's arguments, where they are well formed. -/
def charterWrites (a : Bytes) : Option (List (Nat × Option Bytes)) :=
  (readWrites 60 (a.drop 4)).filter fun l => l.all writeOk && (l.map Prod.fst).Nodup

/-- MB_CHARTER_WRITE arguments out of form. -/
def charterWriteBad (a : Bytes) : Bool :=
  let n := fld a 0 2
  decide (n < 4) || decide (240 < n) || badArgs a (4 + n) [2, 3] || (charterWrites a).isNone

/-- The records in force with the writes merged in; MGMT_KEY is stored wrapped. -/
def mergeRecords (old : List (Nat × Bytes)) (ws : List (Nat × Option Bytes)) : List (Nat × Bytes) :=
  (old.filter fun r => !(ws.map Prod.fst).contains r.1) ++
    ws.filterMap fun w => w.2.map fun v => (w.1, if w.1 = 10 then wrapMgmt v else v)

/-- A copy's bytes, copy B or A. -/
def setCopy (b : Bool) (bytes : Bytes) (k : Package) : Package :=
  if b then { k with copyB := ⟨bytes⟩ } else { k with copyA := ⟨bytes⟩ }

/-- A charter write begins: the copy not in force, `b`, is erased and the flash operation waits (R474, R488). -/
def startCharter (d : Ctl) (j : Nat) (b : Bool) (bytes : Bytes) : Ctl :=
  modPkg d fun k => { setCopy b [] k with flash := k.flash ++ [.charter j b bytes] }

/-- The sequence of the copy in force, and the copy not in force: A where none is. -/
def charterSeq (k : Package) : Nat := ((inForce k).map fun c => fld c.2 8 4).getD 0

def charterTarget (k : Package) : Bool := ((inForce k).map fun c => !c.1).getD false

/-- MB_CHARTER_WRITE: the copy not in force is erased, and the merged copy is to be programmed into it. -/
def mbCharterWriteBody : Body := fun d o =>
  let seq := charterSeq d.pkg + 1
  if 2 ^ 32 ≤ seq then refuse 0x23 d
  else
    (.pending [], startCharter d o.jseq (charterTarget d.pkg)
      (buildCopy seq (mergeRecords (recordsInForce d.pkg) ((charterWrites o.args).getD []))))

/-- MB_CHARTER_WRITE (R486 to R489). -/
def execMbCharterWrite (src : OrderSource) (s : State) : Host.Outcome State Fault Refusal :=
  onCtl s fun d => order d src 0x0801 (.ok []) (fun _ a => charterWriteBad a) mbCharterWriteBody

/-! ### Firmware (R483, R484, R523) -/

/-- A firmware copy's bytes, copy B or A. -/
def setFirmware (b : Bool) (bytes : Bytes) (k : Package) : Package :=
  if b then { k with firmwareB := ⟨bytes⟩ } else { k with firmwareA := ⟨bytes⟩ }

/-- A firmware write begins: the image is read, the copy that is not running is erased and the flash operation waits; an image
that could not be read leaves the copy as it is (R484). -/
def startFirmware (d : Ctl) (j : Nat) (a : Bytes) (image : DmaResult) : Ctl :=
  let len := fld a 16 4
  let d := sendTx d (portOf (fld a 0 1))
    { cls := 2, act := .hostRead (portOf (fld a 0 1)) none (BitVec.ofNat 64 (fld a 8 8)) len }
  let target := !d.pkg.runningB
  match image with
  | .ok img => modPkg d fun k => { setFirmware target [] k with flash := k.flash ++ [.firmware j target (padTo len img)] }
  | .failed => modPkg d fun k => { k with flash := k.flash ++ [.firmware j target []] }

/-- MB_FW_WRITE: the image is read through the named port into the copy that is not running. -/
def mbFwWriteBody : Body := fun d o =>
  let len := fld o.args 16 4
  let p := portOf (fld o.args 0 1)
  if 8 * 2 ^ 20 < len then refuse 0x23 d
  else if !(getPort d p).linkUp then refuse 0x20 d
  else (.pending [], startFirmware d o.jseq o.args o.image)

/-- MB_FW_WRITE (R484, R519, R523). -/
def execMbFwWrite (src : OrderSource) (image : DmaResult) (s : State) : Host.Outcome State Fault Refusal :=
  onCtl s fun d => order d src 0x0802 image
    (fun _ a => badArgs a 20 [1, 2, 3, 4, 5, 6, 7] || decide (1 < fld a 0 1) || fld a 8 8 % 4096 != 0) mbFwWriteBody

/-- MB_FW_SVN_COMMIT. -/
def mbFwSvnCommitBody : Body := fun d _ => ok [] (modPkg d fun k => { k with fusedSvn := max k.fusedSvn k.runningSvn })

/-- MB_FW_SVN_COMMIT (R484). -/
def execMbFwSvnCommit (src : OrderSource) (s : State) : Host.Outcome State Fault Refusal :=
  onCtl s fun d => order d src 0x0803 (.ok []) (fun _ a => badArgs a 0 []) mbFwSvnCommitBody

/-- A flash operation ends (R484, R488): read back, a charter copy must be valid and a firmware copy must load. -/
def endFlash (d : Ctl) (op : FlashOp) (pass : Bool) : Ctl :=
  match op with
  | .charter j b bytes =>
    let good := pass && (copyRecords bytes).isSome
    let d := if pass then modPkg d (setCopy b bytes) else d
    completeOrder d j (if good then 0 else 0x40) []
  | .firmware j b bytes =>
    let good := pass && fwLoads d.pkg.fusedSvn bytes
    let d := if pass && !bytes.isEmpty then modPkg d (setFirmware b bytes) else d
    completeOrder d j (if good then 0 else 0x40) []

/-- FLASH_OPERATION_DONE (R474, R484, R488): the Reeve issues the flash operations one at a time. -/
def execFlashOperationDone (pass : Bool) (s : State) : Host.Outcome State Fault Refusal :=
  onCtl s fun d =>
    match d.pkg.flash with
    | [] => d
    | op :: rest => endFlash (modPkg d fun k => { k with flash := rest }) op pass

/-! ### Reboot and debug unlock (R337, R494) -/

/-- MB_REBOOT: the latch clears and a full reset follows. -/
def mbRebootBody : Body := fun d o =>
  (.last, modPkg d fun k => { k with latch := false, latchCode := 0, fullJseq := o.jseq })

/-- MB_REBOOT (R481, R494, R516). -/
def execMbReboot (src : OrderSource) (s : State) : Host.Outcome State Fault Refusal :=
  onDev s fun d => runFullReset (withCtl d fun d => order d src 0x0804 (.ok []) (fun _ a => badArgs a 0 []) mbRebootBody)

/-- MB_DEBUG_UNLOCK: AUTH for a token that fails, STATE while any tenant exists. -/
def mbDebugUnlockBody : Body := fun d o =>
  if !Config.unlockTokenValid (o.args.take 128) then refuse 0x13 d
  else if !d.tenants.isEmpty then refuse 0x20 d
  else ok [] (modPkg d fun k => { k with debugUnlocked := true })

/-- MB_DEBUG_UNLOCK (R337, R519). -/
def execMbDebugUnlock (src : OrderSource) (s : State) : Host.Outcome State Fault Refusal :=
  onCtl s fun d => order d src 0x0805 (.ok []) (fun _ a => badArgs a 128 []) mbDebugUnlockBody

end Sys2Proof.Machine
end

