-- ==== Sys2Proof/Machine/Reports.lean ====
section
/-! DEFINITION. The read and report commands: identity, self-test report, logs, gleanings list and order status (R44, R376,
R391, R436, R480, R519, R520). -/

namespace Sys2Proof.Machine
open Sys2Proof

/-! ### Identity and self-test -/

/-- One hamlet of MB_IDENTIFY: crofts in service, spare used, out of service. -/
def identifyHamlet (x : Hamlet) : Byte :=
  BitVec.ofNat 8 (croftCount x + 16 * b2n (spareUsed x) + 32 * b2n x.outOfService)

/-- Bit n for each road n in a state. -/
def roadMask (d : Ctl) (st : RoadState) : Nat := ofBitList ((List.range 64).filter fun r => (getRoad d r).state == st)

/-- A field that a self-test phase sets: 0 until that phase has run (R519). -/
def afterPhase (d : Ctl) (n v : Nat) : Nat := if n ≤ d.pkg.phase then v else 0

/-- The Device ID in force, 0 before it is fixed. -/
def deviceIdNow (d : Ctl) : Nat := (d.pkg.deviceId.map fun v => v.toNat).getD 0

/-- The response of MB_IDENTIFY. -/
def identifyReport (d : Ctl) : Bytes :=
  let hams := (List.range 32).flatMap fun h => leBytes 1 (afterPhase d 8 (identifyHamlet (getHam d h)).toNat)
  leBytes 8 Config.serial.toNat ++ leBytes 1 0xB0 ++ leBytes 1 (pkgNum d) ++ leBytes 2 (deviceIdNow d) ++
    leBytes 4 (afterPhase d 4 d.pkg.runningVersion.toNat) ++ leBytes 4 (afterPhase d 3 (fld Config.factoryCharter 20 4)) ++
    hams ++ leBytes 8 (afterPhase d 7 (roadMask d .up)) ++ leBytes 8 (afterPhase d 7 (roadMask d .mismatch)) ++
    leBytes 8 d.reeve.bootNonce.toNat ++ leBytes 2 0x0102 ++ zeros 2

/-- MB_IDENTIFY. -/
def mbIdentifyBody : Body := fun d _ => ok (identifyReport d) d

/-- MB_IDENTIFY (R44, R519). -/
def execMbIdentify (src : OrderSource) (s : State) : Host.Outcome State Fault Refusal :=
  onCtl s fun d => order d src 0x0001 (.ok []) (fun _ a => badArgs a 0 []) mbIdentifyBody

/-- Phase `k` of the report: duration and result, 3 where it has not run. -/
def phaseReport (d : Ctl) (k : Nat) : Bytes :=
  match Tbl.find? d.pkg.results k with
  | some r => leBytes 2 r.1 ++ leBytes 1 r.2 ++ [0]
  | none => [0, 0, 3, 0]

/-- A failed unit of the report. -/
def unitReport (u : Nat × FailedUnit) : Bytes := leBytes 1 u.1 ++ leBytes 1 u.2.kind ++ leBytes 1 u.2.unit ++ leBytes 1 u.2.sub

/-- The response of MB_SELFTEST_REPORT. -/
def selftestReport (d : Ctl) : Bytes :=
  let l := d.pkg.failed.take 48
  leBytes 1 (lifeCode d.pkg) ++ leBytes 1 d.pkg.phase ++ leBytes 1 d.pkg.code.toNat ++ leBytes 1 l.length ++
    ((List.range 8).flatMap fun k => phaseReport d (k + 1)) ++ l.flatMap unitReport

/-- MB_SELFTEST_REPORT. -/
def mbSelftestReportBody : Body := fun d _ => ok (selftestReport d) d

/-- MB_SELFTEST_REPORT (R480, R519). -/
def execMbSelftestReport (src : OrderSource) (s : State) : Host.Outcome State Fault Refusal :=
  onCtl s fun d => order d src 0x0002 (.ok []) (fun _ a => badArgs a 0 []) mbSelftestReportBody

/-! ### Logs (R376, R520, R521) -/

/-- The records of a log from a first sequence on, up to 7. -/
def logFrom {α : Type} (l : List α) (seq : α → Nat) (first : Nat) : List α :=
  (l.filter fun r => decide (first ≤ seq r)).take 7

/-- A log response: the sequence to ask for next, the number of records, the records. -/
def logResponse {α : Type} (l : List α) (seq : α → Nat) (bytes : α → Bytes) (first : Nat) : Bytes :=
  let r := logFrom l seq first
  leBytes 4 ((r.getLast?.map fun x => seq x + 1).getD first) ++ leBytes 1 r.length ++ zeros 3 ++ r.flatMap bytes

/-- A record of the reset history (R520). -/
def historyBytes (r : HistoryRecord) : Bytes :=
  leBytes 4 r.seq ++ leBytes 8 r.time.toNat ++ leBytes 1 r.kind ++ leBytes 1 r.cause ++ leBytes 1 (b2n r.counted) ++ [0] ++
    leBytes 8 r.nonce.toNat ++ zeros 8

/-- A record of the detail log (R520). -/
def detailBytes (r : DetailRecord) : Bytes :=
  leBytes 4 r.seq ++ leBytes 8 r.time.toNat ++ leBytes 1 r.status.detail.toNat ++ leBytes 1 r.status.cls.toNat ++
    leBytes 1 r.slice ++ leBytes 1 r.lane ++ leBytes 4 r.subSeq.toNat ++ leBytes 2 r.handle ++ leBytes 1 r.gen.toNat ++
    leBytes 1 r.opcode.toNat ++ leBytes 4 r.model.toNat ++ zeros 4

/-- The records a read of the fault log returns count as read (R376). -/
def markFaultsRead (first : Nat) (d : Ctl) : Ctl :=
  let seqs := (logFrom d.reeve.faultLog FaultRecord.rseq first).map FaultRecord.rseq
  modReeve d fun x => { x with
    faultLog := x.faultLog.map fun r => if seqs.contains r.rseq then { r with read := true } else r }

/-- The records a read of the detail log returns count as read (R521). -/
def markDetailsRead (first : Nat) (d : Ctl) : Ctl :=
  let seqs := (logFrom d.reeve.detailLog DetailRecord.seq first).map DetailRecord.seq
  modReeve d fun x => { x with
    detailLog := x.detailLog.map fun r => if seqs.contains r.seq then { r with read := true } else r }

/-- The fault log is read. -/
def readFaults (first : Nat) (d : Ctl) : Answer × Ctl :=
  ok (logResponse d.reeve.faultLog FaultRecord.rseq faultBytes first) (markFaultsRead first d)

/-- MB_LOG_READ. -/
def mbLogReadBody : Body := fun d o =>
  let first := fld o.args 4 4
  if fld o.args 0 1 = 0 then readFaults first d
  else ok (logResponse d.pkg.history HistoryRecord.seq historyBytes first) d

/-- MB_LOG_READ (R376, R408, R520). -/
def execMbLogRead (src : OrderSource) (s : State) : Host.Outcome State Fault Refusal :=
  onCtl s fun d => order d src 0x0003 (.ok [])
    (fun _ a => badArgs a 8 [1, 2, 3] || (fld a 0 1 != 0 && fld a 0 1 != 2)) mbLogReadBody

/-- MB_FAULT_LOG_READ. -/
def mbFaultLogReadBody : Body := fun d o => readFaults (fld o.args 0 4) d

/-- MB_FAULT_LOG_READ (R376, R520). -/
def execMbFaultLogRead (src : OrderSource) (s : State) : Host.Outcome State Fault Refusal :=
  onCtl s fun d => order d src 0x0004 (.ok []) (fun _ a => badArgs a 4 []) mbFaultLogReadBody

/-- MB_DETAIL_LOG_READ. -/
def mbDetailLogReadBody : Body := fun d o =>
  let first := fld o.args 0 4
  ok (logResponse d.reeve.detailLog DetailRecord.seq detailBytes first) (markDetailsRead first d)

/-- MB_DETAIL_LOG_READ (R106, R520, R521). -/
def execMbDetailLogRead (src : OrderSource) (s : State) : Host.Outcome State Fault Refusal :=
  onCtl s fun d => order d src 0x0005 (.ok []) (fun _ a => badArgs a 4 []) mbDetailLogReadBody

/-! ### Gleanings and orders -/

/-- The gleanings log from a position on: position and record, those of a handle where one is given. -/
def gleaningsFrom (d : Ctl) (handle pos : Nat) : List (Nat × GleaningsRecord) :=
  (List.zip (List.range d.gleanings.length) d.gleanings).filter fun e =>
    decide (pos ≤ e.1) && (handle == 0 || handleOf d e.2.tenant == handle)

/-- An entry of MB_GLEANINGS_LIST: handle, index, scope, reason, t_collect, record length. -/
def gleaningsItem (d : Ctl) (r : GleaningsRecord) : Bytes :=
  leBytes 2 (handleOf d r.tenant) ++ leBytes 4 r.index ++ sub r.header 5 1 ++ sub r.header 4 1 ++ sub r.header 8 8 ++
    leBytes 4 (recordSize r)

/-- The response of MB_GLEANINGS_LIST: the position to ask for next, and up to 12 entries. -/
def gleaningsList (d : Ctl) (handle pos : Nat) : Bytes :=
  let l := gleaningsFrom d handle pos
  let r := l.take 12
  let next := ((l.drop 12).head?.map Prod.fst).getD (max d.gleanings.length pos)
  leBytes 4 next ++ leBytes 1 r.length ++ zeros 3 ++ r.flatMap fun e => gleaningsItem d e.2

/-- MB_GLEANINGS_LIST. -/
def mbGleaningsListBody : Body := fun d o => ok (gleaningsList d (fld o.args 0 2) (fld o.args 4 4)) d

/-- MB_GLEANINGS_LIST (R391, R519). -/
def execMbGleaningsList (src : OrderSource) (s : State) : Host.Outcome State Fault Refusal :=
  onCtl s fun d => order d src 0x0006 (.ok []) (fun _ a => badArgs a 8 [2, 3]) mbGleaningsListBody

def jstateCode : JState → Nat
  | .arrived => 0 | .waiting => 1 | .executing => 2 | .done => 3

/-- A journal entry as MB_ORDER_STATUS gives it: a tenant only as its masked handle, no arguments (R436). -/
def orderReport (d : Ctl) (e : JEntry) : Bytes :=
  let handle := ((objTenant d e.obj).bind (tenantById d)).map fun t => t.2.handle.toNat
  leBytes 1 e.master ++ leBytes 1 (jstateCode e.state) ++ leBytes 1 e.result ++ [0] ++ leBytes 2 e.opcode ++ zeros 2 ++
    leBytes 8 e.doneAt.toNat ++ leBytes 2 (handle.getD 0)

/-- MB_ORDER_STATUS: EXPIRED for a sequence the journal does not hold. -/
def mbOrderStatusBody : Body := fun d o =>
  match Tbl.find? d.reeve.journal (fld o.args 0 4) with
  | some e => ok (orderReport d e) d
  | none => refuse 0x41 d

/-- MB_ORDER_STATUS (R436, R519). -/
def execMbOrderStatus (src : OrderSource) (s : State) : Host.Outcome State Fault Refusal :=
  onCtl s fun d => order d src 0x0007 (.ok []) (fun _ a => badArgs a 4 []) mbOrderStatusBody

end Sys2Proof.Machine
end

