-- ==== Sys2Proof/Machine/OrderStart.lean ====
section
/-! DEFINITION. The start of an order that waited behind earlier orders on its object (R433). -/

namespace Sys2Proof.Machine
open Sys2Proof

def reportBodies : List (Nat × Body) :=
  [(0x0001, mbIdentifyBody), (0x0002, mbSelftestReportBody), (0x0003, mbLogReadBody), (0x0004, mbFaultLogReadBody),
   (0x0005, mbDetailLogReadBody), (0x0006, mbGleaningsListBody), (0x0007, mbOrderStatusBody), (0x0008, mbSliceStatsBody)]

def tenantBodies : List (Nat × Body) :=
  [(0x0100, mbTenantCreateBody), (0x0101, mbTenantRemoveBody), (0x0102, mbTenantPermitBody), (0x0103, mbHamletAssignBody),
   (0x0104, mbHamletReleaseBody), (0x0105, mbHamletResetBody), (0x0106, mbHamletConfigBody), (0x0107, mbOwnerMapSetBody),
   (0x0108, mbWayMaskBody), (0x0109, mbTallyAllocBody)]

def sliceBodies : List (Nat × Body) :=
  [(0x0200, mbSliceCreateBody), (0x0201, mbSliceDestroyBody), (0x0202, mbSliceResetBody), (0x0203, mbSliceSetPortBody),
   (0x0204, mbSliceSchedBody), (0x0205, mbSliceRateBody), (0x0300, mbAlmanacWriteBody), (0x0301, mbResvCreateBody),
   (0x0302, mbResvEndBody), (0x0303, mbResvQueryBody)]

def packageBodies : List (Nat × Body) :=
  [(0x0400, mbRoadEnableBody), (0x0401, mbRoadDisableBody), (0x0402, mbRoadWeightBody), (0x0500, mbTimeRoleBody),
   (0x0501, mbTimeConfigBody), (0x0502, mbTimeSetBody), (0x0600, mbContainPolicyBody), (0x0601, mbRecoverySetBody),
   (0x0602, mbPkgResetBody), (0x0603, mbReturnToServiceBody), (0x0604, mbJobSetBody), (0x0605, mbJobDeadBody),
   (0x0606, mbJobClearBody)]

def provisionBodies : List (Nat × Body) :=
  [(0x0700, mbMigFreezeBody), (0x0702, mbMigRestoreBody), (0x0703, mbMigResumeBody), (0x0800, mbCharterReadBody),
   (0x0801, mbCharterWriteBody), (0x0802, mbFwWriteBody), (0x0803, mbFwSvnCommitBody), (0x0804, mbRebootBody),
   (0x0805, mbDebugUnlockBody)]

/-- The body of an opcode; a save reads memory. -/
def orderBody (mem : List Host.Cell) (op : Nat) : Option Body :=
  (List.find? (fun (e : Nat × Body) => e.1 == op) (reportBodies ++ tenantBodies ++ sliceBodies ++ packageBodies ++
    provisionBodies ++ [(0x0701, mbMigSaveBody mem)])).map Prod.snd

/-- The trust message of a journal opcode. -/
def trustOf (op : Nat) : Option (TrustRow × TrustBody) :=
  List.find? (fun (e : TrustRow × TrustBody) => 0x9000 + e.1.code == op)
    [(rowClaim, tenantClaimBody), (rowInstall, sliceKeyInstallBody), (rowRetire, sliceKeyRetireBody),
     (rowStatus, tenantStatusBody), (rowArm, migrationArmBody)]

/-- The waiting order of sequence `j` starts: its body runs, or its trust message executes. -/
def startWaiting (d : Ctl) (mem : List Host.Cell) (j : Nat) (e : JEntry) : Ctl :=
  match e.source with
  | .doe p => match trustOf e.opcode with
    | some t => trustExec d j p t.1 (fld e.args 0 4) (e.args.drop 4) t.2
    | none => d
  | _ => match orderBody mem e.opcode with
    | some b => joinResets (startOrder d j e b)
    | none => d

/-- Order `b` of the journal holds up a waiting order `j` on its object: an earlier one, or a fencing order that passed it and
still runs (R433, R435). -/
def holdsUp (j : Nat) (b : Nat × JEntry) : Bool := decide (b.1 < j) || b.2.state == .executing

/-- ORDER_START (R433, R435): a WAITING order that nothing on its object holds up starts. -/
def execOrderStart (jseq : Nat) (s : State) : Host.Outcome State Fault Refusal :=
  onDev s fun d =>
    match Tbl.find? d.reeve.journal jseq with
    | some e =>
      if e.state ≠ .waiting ∨ !reeveUp d.toCtl ∨ (blockers d.toCtl jseq e.obj).any (holdsUp jseq) then d
      else runFullReset (withCtl d fun d => startWaiting d s.mem jseq e)
    | none => d

end Sys2Proof.Machine
end

