-- ==== Sys2Proof/Machine/RegCmds.lean ====
section
/-! DEFINITION. The register commands: reads, writes, mailbox and wide mailbox handshakes, ledger strobes and passes
(14, 17). -/

namespace Sys2Proof.Machine
open Sys2Proof

/-- The BAR2 register block takes accesses: in operation and in lantern state (R494). -/
def bar2Up (d : Ctl) : Bool := barUp d (.bar2 0)

/-- SHADOW_LO_READ (R442, R443). -/
def execShadowLoRead (src : RegSource) (a : RegAddr) (width : Nat) (s : State) : Host.Outcome State Fault Refusal :=
  onCtl s fun d => regRead d src a width

/-- SHADOW_HI_READ (R442, R444). -/
def execShadowHiRead (src : RegSource) (a : RegAddr) (width : Nat) (s : State) : Host.Outcome State Fault Refusal :=
  onCtl s fun d => regRead d src a width

/-- The little-endian bytes of a write. -/
def writeBytesOf (width : Nat) (v : W64) : Bytes := leBytes width v.toNat

/-- A write to a lane window: its registers, or a postcard slot (R61, R62, R67). -/
def bar0Access (d : Ctl) (src : RegSource) (i l off width : Nat) (v : W64) (hw : HwUpdate) : Ctl :=
  if off < 0x100 then laneAccess d src i l off width v hw
  else match src with
    | .reeve => d
    | .port p => slotWrite d p i l (off / 0x100 - 1) (off % 0x100) (writeBytesOf width v)

/-- REGISTER_WRITE (R14, R63, R437, R438, R440, R496, R498). -/
def execRegisterWrite (src : RegSource) (a : RegAddr) (width : Nat) (v : W64) (hw : HwUpdate) (s : State) :
    Host.Outcome State Fault Refusal :=
  onCtl s fun d =>
    if !barUp d a then d
    else match a with
      | .bar0 i l off => bar0Access d src i.val l.val off.toNat width v hw
      | .bar2 off => bar2Access d src off.toNat width v hw
      | .bar4 off => bar4Access d src off.toNat width v

/-- MBX_ACK (R422, R423). -/
def execMbxAck (p : Port) (s : State) : Host.Outcome State Fault Refusal :=
  onCtl s fun d => if bar2Up d then mbxAck d p else d

/-- WIDE_REQ (R446). -/
def execWideReq (src : RegSource) (selector : Byte) (index : W16) (s : State) : Host.Outcome State Fault Refusal :=
  onCtl s fun d => if bar2Up d then wideRequest d src selector index else d

/-- WIDE_ACK (R446). -/
def execWideAck (src : RegSource) (s : State) : Host.Outcome State Fault Refusal :=
  onCtl s fun d => if bar2Up d then wideRelease d src else d

/-- LDG_COMMIT_COMMIT (R451). -/
def execLdgCommitCommit (s : State) : Host.Outcome State Fault Refusal :=
  onCtl s fun d => if bar2Up d then ledgerCommit d else d

/-- LDG_COMMIT_CAPTURE (R451). -/
def execLdgCommitCapture (s : State) : Host.Outcome State Fault Refusal :=
  onCtl s fun d => if bar2Up d then ledgerCapture d else d

/-- LDG_RANGE_WRITE (R448, R449, R505). -/
def execLdgRangeWrite (n : Fin 16) (limit : Bool) (v : W32) (s : State) : Host.Outcome State Fault Refusal :=
  onCtl s fun d => if bar2Up d then rangeWrite d n.val limit v else d

/-- LEDGER_PASS_START (R449). -/
def execLedgerPassStart (s : State) : Host.Outcome State Fault Refusal :=
  onCtl s fun d => if bar2Up d then passStart d else d

/-- LEDGER_PASS_END (R449 to R451). -/
def execLedgerPassEnd (s : State) : Host.Outcome State Fault Refusal :=
  onCtl s fun d => if bar2Up d then passEnd d else d

end Sys2Proof.Machine
end

