-- ==== Sys2Proof/Machine/Dispatch.lean ====
section
/-! DEFINITION. The effect of each command on the state: one arm per constructor of `Instr`. -/

namespace Sys2Proof.Machine
open Sys2Proof

def exec (i : Instr) (s : State) : Host.Outcome State Fault Refusal :=
  match i with
  | .lnSqTailWrite p sl ln v => Sys2Proof.Machine.execLnSqTailWrite p sl ln v s
  | .lnCqHeadWrite p sl ln v => Sys2Proof.Machine.execLnCqHeadWrite p sl ln v s
  | .postcardSlotWrite p sl ln slot off bytes => Sys2Proof.Machine.execPostcardSlotWrite p sl ln slot off bytes s
  | .shadowLoRead src a width => Sys2Proof.Machine.execShadowLoRead src a width s
  | .shadowHiRead src a width => Sys2Proof.Machine.execShadowHiRead src a width s
  | .registerWrite src a width v hw => Sys2Proof.Machine.execRegisterWrite src a width v hw s
  | .descriptorFetchDone sl ln r => Sys2Proof.Machine.execDescriptorFetchDone sl ln r s
  | .inputReadDone c r => Sys2Proof.Machine.execInputReadDone c r s
  | .predispatchDecision c => Sys2Proof.Machine.execPredispatchDecision c s
  | .gqiOpRun c => Sys2Proof.Machine.execGqiOpRun c s
  | .gqiOpRunCtx c => Sys2Proof.Machine.execGqiOpRunCtx c s
  | .gqiOpPrefillChunk c => Sys2Proof.Machine.execGqiOpPrefillChunk c s
  | .gqiOpCtxRelease c => Sys2Proof.Machine.execGqiOpCtxRelease c s
  | .gqiOpNop c => Sys2Proof.Machine.execGqiOpNop c s
  | .gqiAdmIdentify c => Sys2Proof.Machine.execGqiAdmIdentify c s
  | .gqiAdmSetFeatures c => Sys2Proof.Machine.execGqiAdmSetFeatures c s
  | .gqiAdmCreateLane c => Sys2Proof.Machine.execGqiAdmCreateLane c s
  | .gqiAdmDeleteLane c => Sys2Proof.Machine.execGqiAdmDeleteLane c s
  | .gqiAdmResetLane c => Sys2Proof.Machine.execGqiAdmResetLane c s
  | .gqiAdmSetLanePolicy c => Sys2Proof.Machine.execGqiAdmSetLanePolicy c s
  | .gqiAdmModelLoad c image => Sys2Proof.Machine.execGqiAdmModelLoad c image s
  | .gqiAdmModelUnload c => Sys2Proof.Machine.execGqiAdmModelUnload c s
  | .gqiAdmQueryStats c => Sys2Proof.Machine.execGqiAdmQueryStats c s
  | .gqiAdmGleaningsRead c => Sys2Proof.Machine.execGqiAdmGleaningsRead c s
  | .granaryReserve c => Sys2Proof.Machine.execGranaryReserve c s
  | .bindCommand h => Sys2Proof.Machine.execBindCommand h s
  | .tileComplete c t e => Sys2Proof.Machine.execTileComplete c t e s
  | .commitToken c => Sys2Proof.Machine.execCommitToken c s
  | .resultDelivery c x => Sys2Proof.Machine.execResultDelivery c x s
  | .completionEntryWrite c translated => Sys2Proof.Machine.execCompletionEntryWrite c translated s
  | .irqTimeThreshold sl ln => Sys2Proof.Machine.execIrqTimeThreshold sl ln s
  | .sheafDone k => Sys2Proof.Machine.execSheafDone k s
  | .tlyRead c name => Sys2Proof.Machine.execTlyRead c name s
  | .tlyWaitGe c name v => Sys2Proof.Machine.execTlyWaitGe c name v s
  | .tlyWaitEq c name v => Sys2Proof.Machine.execTlyWaitEq c name v s
  | .tlyAdd c name v => Sys2Proof.Machine.execTlyAdd c name v s
  | .tlySet c name v => Sys2Proof.Machine.execTlySet c name v s
  | .tlyClaim c name => Sys2Proof.Machine.execTlyClaim c name s
  | .tlyClaimWait c name => Sys2Proof.Machine.execTlyClaimWait c name s
  | .tlyRelease c name => Sys2Proof.Machine.execTlyRelease c name s
  | .tallyWaitRelease name => Sys2Proof.Machine.execTallyWaitRelease name s
  | .remoteRead c addr len => Sys2Proof.Machine.execRemoteRead c addr len s
  | .remoteWrite c addr bytes => Sys2Proof.Machine.execRemoteWrite c addr bytes s
  | .rd r m => Sys2Proof.Machine.execRd r m s
  | .wrStage r m => Sys2Proof.Machine.execWrStage r m s
  | .mark r m => Sys2Proof.Machine.execMark r m s
  | .rdData r m => Sys2Proof.Machine.execRdData r m s
  | .stagedAck r m => Sys2Proof.Machine.execStagedAck r m s
  | .applied r m => Sys2Proof.Machine.execApplied r m s
  | .grant r m => Sys2Proof.Machine.execGrant r m s
  | .deferred r m => Sys2Proof.Machine.execDeferred r m s
  | .tallyResult r m => Sys2Proof.Machine.execTallyResult r m s
  | .syncAck r m => Sys2Proof.Machine.execSyncAck r m s
  | .nack r m => Sys2Proof.Machine.execNack r m s
  | .reserve r m => Sys2Proof.Machine.execReserve r m s
  | .unreserve r m => Sys2Proof.Machine.execUnreserve r m s
  | .commit r m => Sys2Proof.Machine.execCommit r m s
  | .discardMessage r m => Sys2Proof.Machine.execDiscardMessage r m s
  | .tallyOp r m => Sys2Proof.Machine.execTallyOp r m s
  | .waitRegister r m => Sys2Proof.Machine.execWaitRegister r m s
  | .waitNotify r m => Sys2Proof.Machine.execWaitNotify r m s
  | .epochInstall r m => Sys2Proof.Machine.execEpochInstall r m s
  | .epochRetire r m => Sys2Proof.Machine.execEpochRetire r m s
  | .epochAck r m => Sys2Proof.Machine.execEpochAck r m s
  | .orphanNotice r m => Sys2Proof.Machine.execOrphanNotice r m s
  | .jobDead r m => Sys2Proof.Machine.execJobDead r m s
  | .routeNotice r m => Sys2Proof.Machine.execRouteNotice r m s
  | .markSeen r m => Sys2Proof.Machine.execMarkSeen r m s
  | .replayQuery r m => Sys2Proof.Machine.execReplayQuery r m s
  | .replayReply r m => Sys2Proof.Machine.execReplayReply r m s
  | .timeProbe r m => Sys2Proof.Machine.execTimeProbe r m s
  | .timeReply r m => Sys2Proof.Machine.execTimeReply r m s
  | .live r m => Sys2Proof.Machine.execLive r m s
  | .roadBlockReceived r b => Sys2Proof.Machine.execRoadBlockReceived r b s
  | .roadTrainingDone r far => Sys2Proof.Machine.execRoadTrainingDone r far s
  | .roadTrainingTimeout r => Sys2Proof.Machine.execRoadTrainingTimeout r s
  | .roadSignalLost r => Sys2Proof.Machine.execRoadSignalLost r s
  | .peerSilenceTimeout q => Sys2Proof.Machine.execPeerSilenceTimeout q s
  | .liveTimer => Sys2Proof.Machine.execLiveTimer s
  | .requestTimeout h ttag => Sys2Proof.Machine.execRequestTimeout h ttag s
  | .routeRecompute => Sys2Proof.Machine.execRouteRecompute s
  | .epochRotation t => Sys2Proof.Machine.execEpochRotation t s
  | .timeProbeTimer => Sys2Proof.Machine.execTimeProbeTimer s
  | .backupTakeover => Sys2Proof.Machine.execBackupTakeover s
  | .mbxAck p => Sys2Proof.Machine.execMbxAck p s
  | .orderStart jseq => Sys2Proof.Machine.execOrderStart jseq s
  | .wideReq src selector index => Sys2Proof.Machine.execWideReq src selector index s
  | .wideAck src => Sys2Proof.Machine.execWideAck src s
  | .ldgCommitCommit => Sys2Proof.Machine.execLdgCommitCommit s
  | .ldgCommitCapture => Sys2Proof.Machine.execLdgCommitCapture s
  | .ldgRangeWrite n limit v => Sys2Proof.Machine.execLdgRangeWrite n limit v s
  | .ledgerPassStart => Sys2Proof.Machine.execLedgerPassStart s
  | .ledgerPassEnd => Sys2Proof.Machine.execLedgerPassEnd s
  | .mbIdentify src => Sys2Proof.Machine.execMbIdentify src s
  | .mbSelftestReport src => Sys2Proof.Machine.execMbSelftestReport src s
  | .mbLogRead src => Sys2Proof.Machine.execMbLogRead src s
  | .mbFaultLogRead src => Sys2Proof.Machine.execMbFaultLogRead src s
  | .mbDetailLogRead src => Sys2Proof.Machine.execMbDetailLogRead src s
  | .mbGleaningsList src => Sys2Proof.Machine.execMbGleaningsList src s
  | .mbOrderStatus src => Sys2Proof.Machine.execMbOrderStatus src s
  | .mbSliceStats src => Sys2Proof.Machine.execMbSliceStats src s
  | .mbTenantCreate src => Sys2Proof.Machine.execMbTenantCreate src s
  | .mbTenantRemove src => Sys2Proof.Machine.execMbTenantRemove src s
  | .mbTenantPermit src => Sys2Proof.Machine.execMbTenantPermit src s
  | .mbHamletAssign src => Sys2Proof.Machine.execMbHamletAssign src s
  | .mbHamletRelease src => Sys2Proof.Machine.execMbHamletRelease src s
  | .mbHamletReset src => Sys2Proof.Machine.execMbHamletReset src s
  | .mbHamletConfig src => Sys2Proof.Machine.execMbHamletConfig src s
  | .mbOwnerMapSet src => Sys2Proof.Machine.execMbOwnerMapSet src s
  | .mbWayMask src => Sys2Proof.Machine.execMbWayMask src s
  | .mbTallyAlloc src => Sys2Proof.Machine.execMbTallyAlloc src s
  | .mbSliceCreate src => Sys2Proof.Machine.execMbSliceCreate src s
  | .mbSliceDestroy src => Sys2Proof.Machine.execMbSliceDestroy src s
  | .mbSliceReset src => Sys2Proof.Machine.execMbSliceReset src s
  | .mbSliceSetPort src => Sys2Proof.Machine.execMbSliceSetPort src s
  | .mbSliceSched src => Sys2Proof.Machine.execMbSliceSched src s
  | .mbSliceRate src => Sys2Proof.Machine.execMbSliceRate src s
  | .mbAlmanacWrite src => Sys2Proof.Machine.execMbAlmanacWrite src s
  | .mbResvCreate src => Sys2Proof.Machine.execMbResvCreate src s
  | .mbResvEnd src => Sys2Proof.Machine.execMbResvEnd src s
  | .mbResvQuery src => Sys2Proof.Machine.execMbResvQuery src s
  | .mbRoadEnable src => Sys2Proof.Machine.execMbRoadEnable src s
  | .mbRoadDisable src => Sys2Proof.Machine.execMbRoadDisable src s
  | .mbRoadWeight src => Sys2Proof.Machine.execMbRoadWeight src s
  | .mbTimeRole src => Sys2Proof.Machine.execMbTimeRole src s
  | .mbTimeConfig src => Sys2Proof.Machine.execMbTimeConfig src s
  | .mbTimeSet src => Sys2Proof.Machine.execMbTimeSet src s
  | .mbContainPolicy src => Sys2Proof.Machine.execMbContainPolicy src s
  | .mbRecoverySet src => Sys2Proof.Machine.execMbRecoverySet src s
  | .mbPkgReset src => Sys2Proof.Machine.execMbPkgReset src s
  | .mbReturnToService src => Sys2Proof.Machine.execMbReturnToService src s
  | .mbJobSet src => Sys2Proof.Machine.execMbJobSet src s
  | .mbJobDead src => Sys2Proof.Machine.execMbJobDead src s
  | .mbJobClear src => Sys2Proof.Machine.execMbJobClear src s
  | .mbMigFreeze src => Sys2Proof.Machine.execMbMigFreeze src s
  | .mbMigSave src => Sys2Proof.Machine.execMbMigSave src s
  | .mbMigRestore src image => Sys2Proof.Machine.execMbMigRestore src image s
  | .mbMigResume src => Sys2Proof.Machine.execMbMigResume src s
  | .mbCharterRead src => Sys2Proof.Machine.execMbCharterRead src s
  | .mbCharterWrite src => Sys2Proof.Machine.execMbCharterWrite src s
  | .mbFwWrite src image => Sys2Proof.Machine.execMbFwWrite src image s
  | .mbFwSvnCommit src => Sys2Proof.Machine.execMbFwSvnCommit src s
  | .mbReboot src => Sys2Proof.Machine.execMbReboot src s
  | .mbDebugUnlock src => Sys2Proof.Machine.execMbDebugUnlock src s
  | .tenantClaim p session msg => Sys2Proof.Machine.execTenantClaim p session msg s
  | .sliceKeyInstall p session msg => Sys2Proof.Machine.execSliceKeyInstall p session msg s
  | .sliceKeyRetire p session msg => Sys2Proof.Machine.execSliceKeyRetire p session msg s
  | .tenantStatus p session msg => Sys2Proof.Machine.execTenantStatus p session msg s
  | .migrationArm p session msg => Sys2Proof.Machine.execMigrationArm p session msg s
  | .getVersion p req => Sys2Proof.Machine.execGetVersion p req s
  | .getCapabilities p req => Sys2Proof.Machine.execGetCapabilities p req s
  | .negotiateAlgorithms p req => Sys2Proof.Machine.execNegotiateAlgorithms p req s
  | .getDigests p req => Sys2Proof.Machine.execGetDigests p req s
  | .getCertificate p req => Sys2Proof.Machine.execGetCertificate p req s
  | .challenge p req => Sys2Proof.Machine.execChallenge p req s
  | .getMeasurements p req => Sys2Proof.Machine.execGetMeasurements p req s
  | .keyExchange p req => Sys2Proof.Machine.execKeyExchange p req s
  | .finish p req => Sys2Proof.Machine.execFinish p req s
  | .almanacActivation h => Sys2Proof.Machine.execAlmanacActivation h s
  | .almanacSlotBoundary h => Sys2Proof.Machine.execAlmanacSlotBoundary h s
  | .preemptTrigger h => Sys2Proof.Machine.execPreemptTrigger h s
  | .stileReached c h => Sys2Proof.Machine.execStileReached c h s
  | .parkDone c h => Sys2Proof.Machine.execParkDone c h s
  | .resumeDone c h => Sys2Proof.Machine.execResumeDone c h s
  | .brownoutGrantsApply => Sys2Proof.Machine.execBrownoutGrantsApply s
  | .strictFrameBoundary => Sys2Proof.Machine.execStrictFrameBoundary s
  | .patrolScrub h block cls => Sys2Proof.Machine.execPatrolScrub h block cls s
  | .correctedWriteback h block => Sys2Proof.Machine.execCorrectedWriteback h block s
  | .channelFailure h ch => Sys2Proof.Machine.execChannelFailure h ch s
  | .channelRebuildDone h => Sys2Proof.Machine.execChannelRebuildDone h s
  | .zeroFillDone h => Sys2Proof.Machine.execZeroFillDone h s
  | .coreEcc h croft core corrected => Sys2Proof.Machine.execCoreEcc h croft core corrected s
  | .millResidue h croft core => Sys2Proof.Machine.execMillResidue h croft core s
  | .spadEcc h croft off corrected => Sys2Proof.Machine.execSpadEcc h croft off corrected s
  | .dispatch h croft core => Sys2Proof.Machine.execDispatch h croft core s
  | .granaryEcc h bank kind touched => Sys2Proof.Machine.execGranaryEcc h bank kind touched s
  | .tallyVote h idx allDiffer => Sys2Proof.Machine.execTallyVote h idx allDiffer s
  | .bridge f retries => Sys2Proof.Machine.execBridge f retries s
  | .fieldNet f => Sys2Proof.Machine.execFieldNet f s
  | .reeveLock pair => Sys2Proof.Machine.execReeveLock pair s
  | .reeveWdog pair => Sys2Proof.Machine.execReeveWdog pair s
  | .reeveTakeoverDone => Sys2Proof.Machine.execReeveTakeoverDone s
  | .reevePairReturn pair pass => Sys2Proof.Machine.execReevePairReturn pair pass s
  | .tmrReread odd => Sys2Proof.Machine.execTmrReread odd s
  | .hearthSram cache => Sys2Proof.Machine.execHearthSram cache s
  | .cryptoKat engine => Sys2Proof.Machine.execCryptoKat engine s
  | .clock => Sys2Proof.Machine.execClock s
  | .rail rail => Sys2Proof.Machine.execRail rail s
  | .thermalSample die readings => Sys2Proof.Machine.execThermalSample die readings s
  | .thermtrip die => Sys2Proof.Machine.execThermtrip die s
  | .spareBistDone h pass => Sys2Proof.Machine.execSpareBistDone h pass s
  | .croftRemapDone h => Sys2Proof.Machine.execCroftRemapDone h s
  | .croftSelfCheckDone h croft pass => Sys2Proof.Machine.execCroftSelfCheckDone h croft pass s
  | .hangTimeout c => Sys2Proof.Machine.execHangTimeout c s
  | .coreIdleTimeout h croft => Sys2Proof.Machine.execCoreIdleTimeout h croft s
  | .fenceDeadline scope => Sys2Proof.Machine.execFenceDeadline scope s
  | .resetTargetExpiry scope => Sys2Proof.Machine.execResetTargetExpiry scope s
  | .ttagQuarantineExpiry h ttag => Sys2Proof.Machine.execTtagQuarantineExpiry h ttag s
  | .warmResetHoldExpiry => Sys2Proof.Machine.execWarmResetHoldExpiry s
  | .fullResetTimeout => Sys2Proof.Machine.execFullResetTimeout s
  | .ptpAnnounce hd a => Sys2Proof.Machine.execPtpAnnounce hd a s
  | .ptpSync hd t => Sys2Proof.Machine.execPtpSync hd t s
  | .ptpFollowUp hd t => Sys2Proof.Machine.execPtpFollowUp hd t s
  | .ptpDelayReqTimer => Sys2Proof.Machine.execPtpDelayReqTimer s
  | .ptpDelayResp hd t => Sys2Proof.Machine.execPtpDelayResp hd t s
  | .ptpPdelayReq hd t => Sys2Proof.Machine.execPtpPdelayReq hd t s
  | .ptpPdelayResp hd t => Sys2Proof.Machine.execPtpPdelayResp hd t s
  | .ptpPdelayRespFollowUp hd t => Sys2Proof.Machine.execPtpPdelayRespFollowUp hd t s
  | .ppsInEdge => Sys2Proof.Machine.execPpsInEdge s
  | .sourceLostTimeout => Sys2Proof.Machine.execSourceLostTimeout s
  | .holdoverLimit => Sys2Proof.Machine.execHoldoverLimit s
  | .ppsOutSecond => Sys2Proof.Machine.execPpsOutSecond s
  | .ppsOutFall => Sys2Proof.Machine.execPpsOutFall s
  | .vddAuxChange inRange => Sys2Proof.Machine.execVddAuxChange inRange s
  | .pwrOkAssert => Sys2Proof.Machine.execPwrOkAssert s
  | .pwrOkDeassert => Sys2Proof.Machine.execPwrOkDeassert s
  | .pkgResetNAssert => Sys2Proof.Machine.execPkgResetNAssert s
  | .pkgResetNDeassert tray slot => Sys2Proof.Machine.execPkgResetNDeassert tray slot s
  | .perstAssert p => Sys2Proof.Machine.execPerstAssert p s
  | .perstDeassert p => Sys2Proof.Machine.execPerstDeassert p s
  | .refclkRestored => Sys2Proof.Machine.execRefclkRestored s
  | .selftestPhaseDone r => Sys2Proof.Machine.execSelftestPhaseDone r s
  | .avsTargetChange f mv => Sys2Proof.Machine.execAvsTargetChange f mv s
  | .configRequest p off write => Sys2Proof.Machine.execConfigRequest p off write s
  | .linkDown p => Sys2Proof.Machine.execLinkDown p s
  | .flr p => Sys2Proof.Machine.execFlr p s
  | .atsInvalidation p pasid page => Sys2Proof.Machine.execAtsInvalidation p pasid page s
  | .i3cStatusRead => Sys2Proof.Machine.execI3cStatusRead s
  | .i3cDynamicAddress a => Sys2Proof.Machine.execI3cDynamicAddress a s
  | .extest => Sys2Proof.Machine.execExtest s
  | .idcode => Sys2Proof.Machine.execIdcode s
  | .samplePreload pins preload => Sys2Proof.Machine.execSamplePreload pins preload s
  | .clamp => Sys2Proof.Machine.execClamp s
  | .highz => Sys2Proof.Machine.execHighz s
  | .bypass => Sys2Proof.Machine.execBypass s
  | .roadTrainingStart r => Sys2Proof.Machine.execRoadTrainingStart r s
  | .linkUp p rate width => Sys2Proof.Machine.execLinkUp p rate width s
  | .hbmUncorrectable h block cls reader => Sys2Proof.Machine.execHbmUncorrectable h block cls reader s
  | .gleaningsCollected h g => Sys2Proof.Machine.execGleaningsCollected h g s
  | .hamletResetDone h => Sys2Proof.Machine.execHamletResetDone h s
  | .packageWarmResetDone => Sys2Proof.Machine.execPackageWarmResetDone s
  | .flashOperationDone pass => Sys2Proof.Machine.execFlashOperationDone pass s

end Sys2Proof.Machine
end

