-- ==== Sys2Proof/Machine/Tick.lean ====
section
/-! DEFINITION. The clocks: what one HCLK cycle of 1 ns changes when the block has no command (log 1). -/

namespace Sys2Proof.Machine
open Sys2Proof

/-- One HCLK cycle: 1 ns of device and interval time, with the servo's rate adjustment added once per TCLK cycle
of four HCLK cycles (R37, R453, R455). -/
def tickTime (t : TimeUnit) : TimeUnit :=
  let last := decide (t.tclk = 3)
  let inc : Int := 2 ^ 32 + (if last then t.rate else 0)
  { t with
    tclk := if last then 0 else t.tclk + 1
    interval := t.interval + inc.toNat
    device := t.device + BitVec.ofInt 96 inc }

/-- The idle step: clocks run wherever they are powered (R473, R478), and each host port ends the transmission in progress,
the link words that are due leave on the roads, and the strict slots that start take their sheaves (R333, log 1). -/
def tick (d : Ctl) : Ctl :=
  match d.pkg.life with
  | .off | .aux | .inReset => d
  | _ => if d.pkg.refclk then serveSheaves (sendLinks (portSends (portSends (modTime d tickTime) .ha) .hb)) else d

end Sys2Proof.Machine
end

