-- ==== Sys2Proof/Machine/Millstone.lean ====
section
/-! DEFINITION. The arithmetic of the cores (R145 to R153): number formats, the K steps of a millstone, conversions, MX
quantization and the vector unit, as functions. The instructions that use them are compiled code, of which the spec gives
no encoding: what a tile computed is an operand of TILE_COMPLETE (log 13). -/

namespace Sys2Proof.Machine
open Sys2Proof

/-- A number exactly: NaN, an infinity, or a sign, a magnitude and a power of two. The flag of a sign is true for minus. -/
inductive ExactNum where
  | nan
  | inf (neg : Bool)
  | fin (neg : Bool) (mag : Nat) (exp : Int)
  deriving DecidableEq, Repr

/-- Which top encodings of a format are not finite (R145): infinity and NaNs, one NaN per sign, or none. -/
inductive Tops where
  | ieee | oneNan | finite
  deriving DecidableEq, Repr

/-- A floating-point format of R145. -/
structure FloatFormat where
  expBits : Nat
  manBits : Nat
  bias : Nat
  tops : Tops
  deriving DecidableEq, Repr

def e4m3 : FloatFormat := ⟨4, 3, 7, .oneNan⟩
def e5m2 : FloatFormat := ⟨5, 2, 15, .ieee⟩
def e2m1 : FloatFormat := ⟨2, 1, 1, .finite⟩
def bf16 : FloatFormat := ⟨8, 7, 127, .ieee⟩
def fp16 : FloatFormat := ⟨5, 10, 15, .ieee⟩
def fp32 : FloatFormat := ⟨8, 23, 127, .ieee⟩

/-- The exponent of the least mantissa bit of a format's subnormals. -/
def minExp (f : FloatFormat) : Int := 1 - f.bias - f.manBits

/-- The encoding of the largest finite magnitude (R145). -/
def maxFinite (f : FloatFormat) : Nat :=
  match f.tops with
  | .ieee => (2 ^ f.expBits - 1) * 2 ^ f.manBits - 1
  | .oneNan => 2 ^ (f.expBits + f.manBits) - 2
  | .finite => 2 ^ (f.expBits + f.manBits) - 1

/-- The sign bit of a format, where set. -/
def signBit (f : FloatFormat) (neg : Bool) : Nat := b2n neg * 2 ^ (f.expBits + f.manBits)

/-- The number an encoding stands for. Subnormals are honoured (R146). -/
def decodeNum (f : FloatFormat) (x : Nat) : ExactNum :=
  let neg := bitOf x (f.expBits + f.manBits)
  let e := bits x (f.expBits + f.manBits - 1) f.manBits
  let m := x % 2 ^ f.manBits
  if maxFinite f < x % 2 ^ (f.expBits + f.manBits) then
    if f.tops = .ieee ∧ m = 0 then .inf neg else .nan
  else if e = 0 then .fin neg m (minExp f)
  else .fin neg (2 ^ f.manBits + m) (minExp f + e - 1)

/-- INT8 and the element of MXINT8, value × 2^-6 (R145). -/
def decodeInt8 (x : Byte) : ExactNum := .fin x.msb x.toInt.natAbs 0
def decodeMxInt8 (x : Byte) : ExactNum := .fin x.msb x.toInt.natAbs (-6)

/-- `m / 2^n` to nearest, ties to even. -/
def nearest (m n : Nat) : Nat :=
  let q := m / 2 ^ n
  let r := 2 * (m % 2 ^ n)
  if 2 ^ n < r ∨ (r = 2 ^ n ∧ q % 2 = 1) then q + 1 else q

/-- `m × 2^e` in units of `2^q`, to nearest, ties to even. -/
def toUnit (m : Nat) (e q : Int) : Nat := if q ≤ e then m * 2 ^ (e - q).toNat else nearest m (q - e).toNat

/-- The magnitude bits of `m × 2^e` rounded to a format, its exponent range open at the top. -/
def roundMag (f : FloatFormat) (m : Nat) (e : Int) : Nat :=
  if m = 0 then 0
  else
    let q := max (minExp f) (Nat.log2 m + e - f.manBits)
    toUnit m e q + (q - minExp f).toNat * 2 ^ f.manBits

/-- The NaN of a format with every mantissa bit 1, its sign left open (log 47). -/
def allOnesNan (f : FloatFormat) (neg : Bool) : Nat := signBit f neg + 2 ^ (f.expBits + f.manBits) - 1

/-- Canonical NaN of FP32 (R145, R150). -/
def canonicalNan : W32 := 0x7FC00000

/-- FP32 of a number: round to nearest, ties to even, overflow to a signed infinity (R147, R150). -/
def roundFp32 : ExactNum → W32
  | .nan => canonicalNan
  | .inf neg => BitVec.ofNat 32 (signBit fp32 neg + maxFinite fp32 + 1)
  | .fin neg m e => BitVec.ofNat 32 (signBit fp32 neg + min (roundMag fp32 m e) (maxFinite fp32 + 1))

def decodeFp32 (x : W32) : ExactNum := decodeNum fp32 x.toNat

/-- An FP32 overflow happens where a finite number rounds past the largest finite one. -/
def overflows : ExactNum → Bool
  | .fin _ m e => decide (maxFinite fp32 < roundMag fp32 m e)
  | _ => false

/-! ### Exact sums and products (R147) -/

def signedMag (neg : Bool) (m : Nat) : Int := if neg then -(m : Int) else m

/-- An exact product; infinity × 0 is NaN (R150). -/
def mulNum : ExactNum → ExactNum → ExactNum
  | .nan, _ | _, .nan => .nan
  | .inf a, .inf b => .inf (a != b)
  | .inf a, .fin b m _ => if m = 0 then .nan else .inf (a != b)
  | .fin a m _, .inf b => if m = 0 then .nan else .inf (a != b)
  | .fin a m e, .fin b n g => .fin (a != b) (m * n) (e + g)

/-- An exact sum; opposite infinities make NaN (R150), and a zero sum is -0 only of two negative zeros. -/
def addNum : ExactNum → ExactNum → ExactNum
  | .nan, _ | _, .nan => .nan
  | .inf a, .inf b => if a = b then .inf a else .nan
  | .inf a, .fin .. => .inf a
  | .fin .., .inf b => .inf b
  | .fin a m e, .fin b n g =>
    let q := min e g
    let x := signedMag a (m * 2 ^ (e - q).toNat) + signedMag b (n * 2 ^ (g - q).toNat)
    .fin (if x = 0 then a && b else decide (x < 0)) x.natAbs q

/-- `x × 2^k`. -/
def scaleNum (x : ExactNum) (k : Int) : ExactNum :=
  match x with
  | .fin a m e => .fin a m (e + k)
  | x => x

/-- An addition of the tree: the exact sum, rounded to FP32. -/
def addRound (a b : ExactNum) : ExactNum := decodeFp32 (roundFp32 (addNum a b))

/-- One level of the tree: neighbours k and k + 1, k even. -/
def addPairs : List ExactNum → List ExactNum
  | a :: b :: l => addRound a b :: addPairs l
  | l => l

/-- The fixed binary tree over 2^n numbers (R147). -/
def sumTree : Nat → List ExactNum → ExactNum
  | 0, l => l.headD (.fin false 0 0)
  | n + 1, l => sumTree n (addPairs l)

/-! ### Millstone operations (R146 to R150) -/

/-- Sticky flags of a core (R150): INVALID, OVERFLOW, SAT in bits 0 to 2. -/
abbrev CoreFlags := BitVec 3

/-- Some intermediate of the tree overflowed or was made NaN of numbers. -/
def treeFlags : Nat → List ExactNum → CoreFlags
  | 0, _ => 0
  | n + 1, l => (pairFlags l) ||| treeFlags n (addPairs l)
where
  pairFlags : List ExactNum → CoreFlags
    | a :: b :: l =>
      (if addNum a b = .nan then 1 else 0) ||| (if overflows (addNum a b) then 2 else 0) ||| pairFlags l
    | _ => 0

/-- A K step: the tree sum joins the FP32 accumulator; the flags of every addition are raised (R147, R150). -/
def kStep (n : Nat) (acc : W32) (products : List ExactNum) : W32 × CoreFlags :=
  let s := sumTree n products
  let t := addNum s (decodeFp32 acc)
  (roundFp32 t, treeFlags n products ||| (if t = .nan then 1 else 0) ||| (if overflows t then 2 else 0))

/-- Operand formats of a floating-point K step with its products per step as a power of two (R146, R147). A and B of FP8
each are E4M3 or E5M2; BF16 and FP16 pair with themselves. -/
def stepLog (a b : FloatFormat) : Option Nat :=
  if (a = e4m3 ∨ a = e5m2) ∧ (b = e4m3 ∨ b = e5m2) then some 4
  else if a = b ∧ (a = bf16 ∨ a = fp16) then some 3 else none

/-- One output element of a millstone K step without scales, of as many products as its formats take (R147). -/
def millStep (a b : FloatFormat) (acc : W32) (xs ys : List Nat) : Option (W32 × CoreFlags) :=
  (stepLog a b).bind fun n =>
    if xs.length = 2 ^ n ∧ ys.length = 2 ^ n then
      some (kStep n acc ((xs.zip ys).map fun p => mulNum (decodeNum a p.1) (decodeNum b p.2)))
    else none

/-- A block sum takes its two scales, is rounded once to FP32 and joins the accumulator (R148). -/
def scaleIn (acc : W32) (sum : ExactNum) (sA sB : Byte) (extra : Int) (flags : CoreFlags) : W32 × CoreFlags :=
  let s := if sA = 0xFF ∨ sB = 0xFF then .nan else scaleNum sum (sA.toNat + sB.toNat - 254 + extra)
  let r := decodeFp32 (roundFp32 s)
  let t := addNum r (decodeFp32 acc)
  (roundFp32 t, flags ||| (if t = .nan then 1 else 0) ||| (if overflows s || overflows t then 2 else 0))

/-- Operand formats of an MX block in floating point: FP8 of either kind, or MXFP4 with itself (R146). -/
def mxPair (a b : FloatFormat) : Bool :=
  ((a == e4m3 || a == e5m2) && (b == e4m3 || b == e5m2)) || (a == e2m1 && b == e2m1)

/-- A block of MXFP8 or MXFP4: 32 products by the tree, then the scales (R148). For MXFP8 the tree of 32 is the tree over the
16-product sums of two cycles. -/
def mxStep (a b : FloatFormat) (acc : W32) (sA sB : Byte) (xs ys : List Nat) : Option (W32 × CoreFlags) :=
  if mxPair a b ∧ xs.length = 32 ∧ ys.length = 32 then
    let ps := (xs.zip ys).map fun p => mulNum (decodeNum a p.1) (decodeNum b p.2)
    some (scaleIn acc (sumTree 5 ps) sA sB 0 (treeFlags 5 ps))
  else none

/-- The exact sum of INT8 products. -/
def intSum (xs ys : List Byte) : Int := ((xs.zip ys).map fun p => p.1.toInt * p.2.toInt).sum

/-- A block of MXINT8: 32 products, an exact integer sum, the scales and a further 2^-12 (R148). -/
def mxIntStep (acc : W32) (sA sB : Byte) (xs ys : List Byte) : Option (W32 × CoreFlags) :=
  if xs.length = 32 ∧ ys.length = 32 then
    let n := intSum xs ys
    some (scaleIn acc (.fin (decide (n < 0)) n.natAbs 0) sA sB (-12) 0)
  else none

/-- An INT32 accumulator takes a sum: exact, saturating with SAT (R149). -/
def saturate (n : Int) : W32 × CoreFlags :=
  if n < -(2 ^ 31) then (BitVec.ofInt 32 (-(2 ^ 31)), 4)
  else if 2 ^ 31 - 1 < n then (BitVec.ofInt 32 (2 ^ 31 - 1), 4)
  else (BitVec.ofInt 32 n, 0)

/-- A K step of INT8: 16 exact products join the accumulator (R147, R149). -/
def intStep (acc : W32) (xs ys : List Byte) : Option (W32 × CoreFlags) :=
  if xs.length = 16 ∧ ys.length = 16 then some (saturate (acc.toInt + intSum xs ys)) else none

/-! ### Conversions and MX quantization (R151, R152) -/

/-- Overflow modes of a conversion (R151). -/
inductive OverflowMode where
  | satFinite | special
  deriving DecidableEq, Repr

/-- A number converted to a floating-point storage format (R151). An infinity overflows; the sign of a NaN is open (log 47). -/
def convertNum (f : FloatFormat) (mode : OverflowMode) (x : ExactNum) (nanNeg : Bool) : Nat :=
  let nan := if f.tops = .finite then 0 else allOnesNan f nanNeg
  let past (neg : Bool) : Nat :=
    match mode, f.tops with
    | .satFinite, _ => signBit f neg + maxFinite f
    | .special, .ieee => signBit f neg + maxFinite f + 1
    | .special, _ => nan
  match x with
  | .nan => nan
  | .inf neg => past neg
  | .fin neg m e =>
    let k := roundMag f m e
    if maxFinite f < k then past neg else signBit f neg + k

/-- A number in units of 2^-k as an 8-bit integer: nearest even, saturating at -128 and 127, NaN 0 (R151). -/
def convertInt8 (k : Int) : ExactNum → Byte
  | .nan => 0
  | .inf neg => if neg then 0x80 else 0x7F
  | .fin neg m e => BitVec.ofInt 8 (max (-128) (min 127 (signedMag neg (toUnit m (e + k) 0))))

/-- FP32 to a floating-point storage format. -/
def convertFp32 (f : FloatFormat) (mode : OverflowMode) (x : W32) : Nat := convertNum f mode (decodeFp32 x) (Config.nanSign x)

/-- Element formats of MX blocks (R145). -/
inductive MxElement where
  | e4m3 | e5m2 | e2m1 | int8
  deriving DecidableEq, Repr

/-- emax of R152. -/
def mxEmax : MxElement → Int
  | .e4m3 => 8 | .e5m2 => 15 | .e2m1 => 2 | .int8 => 0

/-- floor(log2) of a magnitude in FP32, none for zero. -/
def floorLog : ExactNum → Option Int
  | .fin _ m e => if m = 0 then none else some (Nat.log2 m + e)
  | _ => none

/-- One element of a block scaled by 2^(-scale exponent). -/
def mxElement (f : MxElement) (k : Int) (x : W32) : Byte :=
  let y := scaleNum (decodeFp32 x) (-k)
  match f with
  | .e4m3 => BitVec.ofNat 8 (convertNum e4m3 .satFinite y (Config.nanSign x))
  | .e5m2 => BitVec.ofNat 8 (convertNum e5m2 .satFinite y (Config.nanSign x))
  | .e2m1 => BitVec.ofNat 8 (convertNum e2m1 .satFinite y (Config.nanSign x))
  | .int8 => convertInt8 6 y

/-- The scale and elements of a 32-element block (R152). Elements beside a NaN, and blocks with an infinity and no NaN, are
open (log 47). -/
def mxQuantize (f : MxElement) (xs : List W32) : Byte × List Byte :=
  let ns := xs.map decodeFp32
  let isInf (n : ExactNum) : Bool := match n with
    | .inf _ => true
    | _ => false
  if ns.contains .nan then (0xFF, (Config.mxOpen xs).2)
  else if ns.any isInf then Config.mxOpen xs
  else match (ns.filterMap floorLog).max? with
    | none => (0, xs.map fun _ => 0)
    | some l =>
      let k := max (-127) (l - mxEmax f)
      (BitVec.ofInt 8 (k + 127), xs.map (mxElement f k))

/-! ### The vector unit (R153) -/

/-- FP32 add, multiply and fused multiply-add: the exact result, rounded once. -/
def vecAdd (x y : W32) : W32 := roundFp32 (addNum (decodeFp32 x) (decodeFp32 y))
def vecMul (x y : W32) : W32 := roundFp32 (mulNum (decodeFp32 x) (decodeFp32 y))
def vecFma (x y z : W32) : W32 := roundFp32 (addNum (mulNum (decodeFp32 x) (decodeFp32 y)) (decodeFp32 z))

/-- The sign of `x - y`, none beside a NaN. -/
def compareNum : ExactNum → ExactNum → Option Ordering
  | .nan, _ | _, .nan => none
  | .inf a, .inf b => some (if a = b then .eq else if a then .lt else .gt)
  | .inf a, .fin .. => some (if a then .lt else .gt)
  | .fin .., .inf b => some (if b then .gt else .lt)
  | .fin a m e, .fin b n g =>
    let q := min e g
    some (compare (signedMag a (m * 2 ^ (e - q).toNat)) (signedMag b (n * 2 ^ (g - q).toNat)))

/-- Minimum and maximum; of equal numbers or beside a NaN the choice is open (log 47). -/
def vecMin (x y : W32) : W32 :=
  match compareNum (decodeFp32 x) (decodeFp32 y) with
  | some .lt => x
  | some .gt => y
  | _ => if x = y then x else Config.minOpen x y
def vecMax (x y : W32) : W32 :=
  match compareNum (decodeFp32 x) (decodeFp32 y) with
  | some .lt => y
  | some .gt => x
  | _ => if x = y then x else Config.maxOpen x y

/-- Comparison, false beside a NaN but where the spec leaves it open (log 47), and selection. -/
def vecLess (x y : W32) : Bool :=
  match compareNum (decodeFp32 x) (decodeFp32 y) with
  | some o => o == .lt
  | none => Config.compareOpen x y
def vecSelect (c : Bool) (x y : W32) : W32 := if c then x else y

/-- The six functions within 2 ulp (R153). -/
inductive VecFunction where
  | exp2 | log2 | reciprocal | rsqrt | tanh | sigmoid
  deriving DecidableEq, Repr

def functionCode : VecFunction → Nat
  | .exp2 => 0 | .log2 => 1 | .reciprocal => 2 | .rsqrt => 3 | .tanh => 4 | .sigmoid => 5

/-- A rational number as a sign, a magnitude and a power of two, cut to 400 binary places. -/
def ratNum (q : Rat) : ExactNum := .fin (decide (q < 0)) (q.num.natAbs * 2 ^ 400 / q.den) (-400)

/-- A finite number as a rational. -/
def numRat (neg : Bool) (m : Nat) (e : Int) : Rat :=
  let x : Rat := if 0 ≤ e then ((m * 2 ^ e.toNat : Nat) : Rat) else (m : Rat) / ((2 ^ (-e).toNat : Nat) : Rat)
  if neg then -x else x

/-- ln 2 to 40 decimal places. -/
def lnTwo : Rat := 6931471805599453094172321214581765680755 / 10 ^ 40

/-- The exponential series to 32 terms, for |x| ≤ 0.7. -/
def expSeries (x : Rat) : Rat := ((List.range 32).foldl (fun (a : Rat × Rat) n => (a.1 + a.2, a.2 * x / ((n + 1 : Nat) : Rat))) (0, 1)).1

/-- 2^x: a power of two, cut at 2^±400, times the series of the fraction. -/
def powTwo (x : Rat) : Rat :=
  let n : Int := max (-400) (min 400 x.floor)
  let f := expSeries ((x - (x.floor : Rat)) * lnTwo)
  if 0 ≤ n then f * ((2 ^ n.toNat : Nat) : Rat) else f / ((2 ^ (-n).toNat : Nat) : Rat)

/-- ln y by the area hyperbolic tangent to 32 terms, for y from 0.7 to 1.5. -/
def lnSeries (y : Rat) : Rat :=
  let t := (y - 1) / (y + 1)
  2 * ((List.range 32).foldl (fun (a : Rat × Rat) n => (a.1 + a.2 / ((2 * n + 1 : Nat) : Rat), a.2 * t * t)) (0, t)).1

/-- log2 of `m × 2^e`: the power of two split off so that the rest lies from 0.75 to 1.5. -/
def logTwo (m : Nat) (e : Int) : Rat :=
  let k := Nat.log2 m
  let y : Rat := (m : Rat) / ((2 ^ k : Nat) : Rat)
  if y < 3 / 2 then ((k + e : Int) : Rat) + lnSeries y / lnTwo else ((k + e + 1 : Int) : Rat) + lnSeries (y / 2) / lnTwo

/-- 1/√q by the integer root of 2^600 / q. -/
def invRoot (q : Rat) : Rat := (Nat.sqrt (2 ^ 600 * q.den / q.num.natAbs) : Rat) / ((2 ^ 300 : Nat) : Rat)

/-- 1/(1 + e^-x). -/
def logistic (x : Rat) : Rat := 1 / (1 + powTwo (-x / lnTwo))

/-- tanh: its series where x is small, else by the exponential. -/
def hyperTan (x : Rat) : Rat :=
  if -(1 / 4096) < x ∧ x < 1 / 4096 then x - x ^ 3 / 3 + 2 * x ^ 5 / 15 - 17 * x ^ 7 / 315 else 2 * logistic (2 * x) - 1

/-- The exact result of a function, to far more places than FP32 holds; none where the input is no finite number of the
function's domain. -/
def exactValue (f : VecFunction) : ExactNum → Option Rat
  | .nan => none
  | .inf _ => none
  | .fin neg m e =>
    let x := numRat neg m e
    match f with
    | .exp2 => some (powTwo x)
    | .log2 => if neg ∨ m = 0 then none else some (logTwo m e)
    | .reciprocal => if m = 0 then none else some (1 / x)
    | .rsqrt => if neg ∨ m = 0 then none else some (invRoot x)
    | .tanh => some (hyperTan x)
    | .sigmoid => some (logistic x)

/-- FP32 encodings in the order of their numbers, and back. -/
def fp32Order (x : W32) : Int := if x.msb then -((x.toNat % 2 ^ 31 : Nat) : Int) else (x.toNat : Int)
def fp32At (n : Int) : W32 := if n < 0 then BitVec.ofNat 32 (2 ^ 31 + n.natAbs) else BitVec.ofNat 32 n.toNat

/-- A function of the vector unit (R153): within 2 ulp of the exact FP32 result, the same on every core; which of those values is
Config's. Where the input is NaN, infinite or outside the function's domain the spec states no result (log 47). -/
def vecApply (f : VecFunction) (x : W32) : W32 :=
  match exactValue f (decodeFp32 x) with
  | some q =>
    let top : Int := maxFinite fp32 + 1
    fp32At (max (-top) (min top (fp32Order (roundFp32 (ratNum q)) + ((Config.vecError (functionCode f) x).val : Int) - 2)))
  | none => Config.vecFunction (functionCode f) x

/-- A reduction across the 32 lanes by the tree (R147, R153). -/
def vecReduce (xs : List W32) : W32 := roundFp32 (sumTree 5 (xs.map decodeFp32))

end Sys2Proof.Machine
end

