-- ==== Sys2Proof/Safety.lean ====
section
/-! DEFINITION. What a safe state of the block is, and the conditions under which its commands take effect, in the terms the
statements use. -/

namespace Sys2Proof.Machine
open Sys2Proof

/-- `s` with another control state: byte memory, poison and the queue stay. -/
def setCtl (s : State) (d : Ctl) : State := { s with toCtl := d }

/-- `s` with another package state: the queue stays. -/
def setDev (s : State) (d : Dev) : State := { s with toDev := d }

/-- The byte memory is in its canonical form. -/
def MemOk (s : State) : Prop := Mem.wf s.mem = true

/-- READY is not high while FAULT_N is low (R528). -/
def PinsOk (s : State) : Prop := ¬ ((pins s.toCtl).ready = .high ∧ (pins s.toCtl).faultN = .low)

/-! ### Orders -/

/-- The master code of an order's source (R418). -/
def srcMaster : OrderSource → Nat
  | .pf p => pfMaster p
  | .env e => masterOf e.channel

/-- The way the answer to an order goes (R418). -/
def srcOf : OrderSource → JSource
  | .pf p => .pf p
  | .env e => .env e.channel e.cookie e.counter

/-- The state once the order is taken from its mailbox or channel. -/
def takenFrom (d : Ctl) (op : Nat) : OrderSource → Ctl
  | .pf p => takeMailbox d p
  | .env e => takeEnvelope d op e

/-- The source holds an order of opcode `op` and arguments `a` that its channel admits: a SUBMITTED mailbox whose order has not
arrived (R423), or an envelope on a free channel that passes R429. -/
def sourceHolds (d : Ctl) (op : Nat) (a : Bytes) : OrderSource → Bool
  | .pf p =>
    let m := (getPort d p).mbx
    m.state == .submitted && m.opcode.toNat == op && m.jseq == 0 && decide (m.argLen ≤ 256) && mbxArgs m == a
  | .env e =>
    e.args == a && e.reserved == 0 && (chanOrder d e.channel).isNone && (e.channel != .mgmt || !allZero d.pkg.mgmtIp) &&
      (e.channel == .tc || openIdentify op e || envelopeOk d op e)

/-- The catalogue lets the master issue the command in the package's state (R515, R518). -/
def issuable (d : Ctl) (op master : Nat) : Bool :=
  match catRow op with
  | some r => permitted r master && (d.pkg.life != .lantern || r.lantern)
  | none => false

/-- The source holds an order of opcode `op` and arguments `a`, and nothing holds it up: the Reeve takes orders, the master may
issue it, no order of its MCLK cycle wins over it (R434), and no unfinished order meets its object (R433). -/
def orderReady (d : Ctl) (src : OrderSource) (op : Nat) (a : Bytes) : Bool :=
  reeveUp d && issuable d op (srcMaster src) && sourceHolds d op a src &&
    (winner d (srcMaster src) op (orderObj op a)).isNone &&
    d.reeve.journal.all fun e => e.2.state == .done || !meets d e.2.obj (orderObj op a)

/-- The state in which the order's command runs: taken from its source, in the journal under the next sequence, EXECUTING. -/
def begun (d : Ctl) (src : OrderSource) (op : Nat) (a : Bytes) (image : DmaResult) : Ctl :=
  beginOrder (enter (takenFrom d op src) (orderEntry d (srcOf src) (srcMaster src) op a image)) d.reeve.nextJseq

/-- The state once the command has made `d'` of `begun` and answered with a final result: the configuration change is stamped
with the order's sequence, its entry is DONE, its answer goes to its source. -/
def finished (d : Ctl) (src : OrderSource) (op : Nat) (a : Bytes) (image : DmaResult) (code : Nat) (rsp : Bytes) (d' : Ctl) :
    Ctl :=
  let j := d.reeve.nextJseq
  answer (closeEntry (stamp j (begun d src op a image) d') j code) (srcOf src) op code j rsp

/-- The state once the command has begun a procedure: PENDING goes to the source and the entry stays EXECUTING. -/
def underway (d : Ctl) (src : OrderSource) (op : Nat) (a : Bytes) (image : DmaResult) (rsp : Bytes) (d' : Ctl) : Ctl :=
  let j := d.reeve.nextJseq
  answer (stamp j (begun d src op a image) d') (srcOf src) op 1 j rsp

/-- The order is ready, and its command runs in the state `b`. -/
def Ready (s : State) (src : OrderSource) (op : Nat) (a : Bytes) (b : Ctl) (image : DmaResult := .ok []) : Prop :=
  orderReady s.toCtl src op a = true ∧ b = begun s.toCtl src op a image

/-- The order ran to its end: its command made `d'` and answered with a result code and response bytes. -/
def orderDone (s : State) (src : OrderSource) (op : Nat) (a : Bytes) (code : Nat) (rsp : Bytes) (d' : Ctl)
    (image : DmaResult := .ok []) : State :=
  { s with toCtl := finished s.toCtl src op a image code rsp d' }

/-- The order began a procedure: its command made `d'`. -/
def orderPending (s : State) (src : OrderSource) (op : Nat) (a : Bytes) (rsp : Bytes) (d' : Ctl)
    (image : DmaResult := .ok []) : State :=
  { s with toCtl := underway s.toCtl src op a image rsp d' }

/-- The order called for a full reset, which takes place once it is answered PENDING (R404, R516). -/
def orderReset (s : State) (src : OrderSource) (op : Nat) (a : Bytes) (d' : Ctl) : State :=
  { s with toDev := runFullReset { s.toDev with toCtl := underway s.toCtl src op a (.ok []) [] d' } }

/-! ### Road messages -/

/-- Message `m` of opcode `op`, which accepted blocks of road `r` brought from a live peer, is for this package and passes every check
of R229: `p` is its data, and `e` the block once the message has left the receive buffer. -/
def Arrives (s : State) (r op : Nat) (m : RoadMsg) (p : Bytes) (e : Ctl) : Prop :=
  roadTakes s.toCtl r op m = true ∧ fromLost s.toCtl r m = false ∧ relayRoad s.toCtl r m = none ∧
    (∃ q, receiveCheck s.toCtl r op m = .ok q ∧ p = sub q 0 m.len.toNat) ∧ e = received s.toCtl r op m

/-- The request of this package that an answer belongs to (R384). -/
def requestFor (e : Ctl) (m : RoadMsg) : Option Request :=
  e.requests.find? fun q => q.hamlet == endHamlet m.dst.toNat && q.ttag == m.ttag.toNat

/-! ### Admin commands -/

/-- The admin command `id` of opcode `op` is the next of its slice and nothing holds it up (R115, R433): it is `k`, it passes
check 5, and it runs in `b`, its journal step EXECUTING and its check 6 paid (R107). -/
def AdminRuns (s : State) (id : Nat) (op : Byte) (check : Ctl → Cmd → Option Status) (k : Cmd) (b : Ctl) : Prop :=
  adminReady s.toCtl id op = some k ∧ check (beginOrder s.toCtl k.jseq) k = none ∧
    check6 (beginOrder s.toCtl k.jseq) k = some b

/-- The admin command `id` of opcode `op` is the next of its slice and nothing holds it up: it is `k`, and its check 5 is made in `b`,
its journal step EXECUTING. -/
def AdminStarts (s : State) (id : Nat) (op : Byte) (k : Cmd) (b : Ctl) : Prop :=
  adminReady s.toCtl id op = some k ∧ b = beginOrder s.toCtl k.jseq

/-- The state once an admin command has made `d'` of the state it ran in: its configuration changes bear its sequence. -/
def adminDone (s : State) (k : Cmd) (d' : Ctl) : State := setCtl s (stamp k.jseq s.toCtl d')

/-! ### Trust messages -/

/-- The trust message `m` comes on an established session, is well-formed, wins its MCLK cycle and meets no unfinished order on its
object (R310, R432 to R434): `q` is its session, and it runs in `b`, its journal step EXECUTING. -/
def TrustRuns (s : State) (p : Port) (r : TrustRow) (id : Nat) (m : Bytes) (q : SpdmSession) (b : Ctl) : Prop :=
  let d := modSession s.toCtl p id fun q => { q with used := now s.toCtl }
  let e : JEntry := {
    master := pfMaster p, source := .doe p, opcode := 0x9000 + r.code, obj := trustObj r m, arrival := mclk s.toCtl
    args := leBytes 4 id ++ m }
  doeUp s.toCtl p = true ∧ (sessionOf s.toCtl p id).isSome = true ∧ trustForm r m = true ∧
    trustWinner d p (0x9000 + r.code) (trustObj r m) = none ∧
    (blockers (enter d e) d.reeve.nextJseq (trustObj r m)).isEmpty = true ∧
    b = beginOrder (enter d e) d.reeve.nextJseq ∧ sessionOf b p id = some q

/-- The state once a trust message has made `d'` of `b` and answered with a result and a body. -/
def trustDone (s : State) (p : Port) (r : TrustRow) (id : Nat) (m : Bytes) (b : Ctl) (result : Nat) (body : Bytes) (d' : Ctl) :
    State :=
  let j := s.toCtl.reeve.nextJseq
  setCtl s (emit (closeEntry (stamp j b d') j (trustJournal result)) (.trust p id (trustResponse r.code result m body)))

/-- The state once a trust message has succeeded: the session's counter is the message's too. -/
def trustOk (s : State) (p : Port) (r : TrustRow) (id : Nat) (m : Bytes) (q : SpdmSession) (b : Ctl) (body : Bytes) (d' : Ctl) :
    State :=
  trustDone s p r id m b 0 body (modSession d' p q.id fun q => { q with lastCounter := some (fld m 8 4) })

/-- The SPDM request `req` of a code has its length and version, on a port whose DOE answers. -/
def SpdmAsks (d : Ctl) (p : Port) (req : Bytes) (code least : Nat) : Prop :=
  doeUp d p = true ∧ fld req 1 1 = code ∧ least ≤ req.length ∧ fld req 0 1 = 0x12

/-! ### Whole commands -/

/-- The commands that may change byte memory or poison. -/
def touchesMemory : Instr → Bool
  | .commitToken .. | .sheafDone .. | .syncAck .. | .commit .. | .orderStart .. | .mbPkgReset .. | .mbReboot .. | .parkDone ..
  | .resumeDone .. | .patrolScrub .. | .channelRebuildDone .. | .zeroFillDone .. | .spadEcc .. | .croftRemapDone ..
  | .resetTargetExpiry .. | .warmResetHoldExpiry | .vddAuxChange .. | .pwrOkDeassert | .pkgResetNAssert | .refclkRestored
  | .selftestPhaseDone .. | .hbmUncorrectable .. | .hamletResetDone .. | .packageWarmResetDone => true
  | _ => false

/-- The order is taken, enters the journal, and is answered at once with a refusal: its entry is DONE and nothing runs. -/
def orderRefused (s : State) (src : OrderSource) (op : Nat) (a : Bytes) (code : Nat) (rsp : Bytes) : State :=
  let j := s.toCtl.reeve.nextJseq
  setCtl s (answer (closeEntry (enter (takenFrom s.toCtl op src)
    (orderEntry s.toCtl (srcOf src) (srcMaster src) op a (.ok []))) j code) (srcOf src) op code j rsp)

/-- The accepted and unfinished commands of a slice. -/
def sliceCmds (d : Ctl) (i : Nat) : Tbl Cmd := d.cmds.filter fun e => e.2.slice == i

end Sys2Proof.Machine
end

