-- ==== Sys2Proof/Certificates/Slice0/Obligations.lean ====
section
/-! DEFINITION. The statements for the provers. A clause names what a command makes of the state: `setCtl s d` and `setDev s d`
are `s` with another control or package state; `orderDone`, `adminDone`, `trustDone` and their like are the states in which an
order, an admin command or a trust message has run (Safety.lean). -/

open Sys2Proof Sys2Proof.Machine

/-- MB_IDENTIFY, MB_SELFTEST_REPORT, MB_LOG_READ, MB_FAULT_LOG_READ, MB_DETAIL_LOG_READ, MB_GLEANINGS_LIST, MB_ORDER_STATUS and
MB_SLICE_STATS, once their order is ready and well formed, are answered OK with the report of R519 and R520; nothing but the
read marks of the logs changes (R376, R521). -/
def Obligations.Order_reports_answer : Prop :=
  ∀ (s : State) (src : OrderSource) (a : Bytes) (b : Ctl),
    (Ready s src 0x0001 a b → a.length = 0 →
      exec (.mbIdentify src) s = .next (orderDone s src 0x0001 a 0 (identifyReport b) b)) ∧
    (Ready s src 0x0002 a b → a.length = 0 →
      exec (.mbSelftestReport src) s = .next (orderDone s src 0x0002 a 0 (selftestReport b) b)) ∧
    (Ready s src 0x0003 a b → badArgs a 8 [1, 2, 3] = false → fld a 0 1 = 2 →
      exec (.mbLogRead src) s = .next (orderDone s src 0x0003 a 0
        (logResponse b.pkg.history HistoryRecord.seq historyBytes (fld a 4 4)) b)) ∧
    (Ready s src 0x0003 a b → badArgs a 8 [1, 2, 3] = false → fld a 0 1 = 0 →
      exec (.mbLogRead src) s = .next (orderDone s src 0x0003 a 0
        (logResponse b.reeve.faultLog FaultRecord.rseq faultBytes (fld a 4 4)) (markFaultsRead (fld a 4 4) b))) ∧
    (Ready s src 0x0004 a b → a.length = 4 →
      exec (.mbFaultLogRead src) s = .next (orderDone s src 0x0004 a 0
        (logResponse b.reeve.faultLog FaultRecord.rseq faultBytes (fld a 0 4)) (markFaultsRead (fld a 0 4) b))) ∧
    (Ready s src 0x0005 a b → a.length = 4 →
      exec (.mbDetailLogRead src) s = .next (orderDone s src 0x0005 a 0
        (logResponse b.reeve.detailLog DetailRecord.seq detailBytes (fld a 0 4)) (markDetailsRead (fld a 0 4) b))) ∧
    (Ready s src 0x0006 a b → badArgs a 8 [2, 3] = false →
      exec (.mbGleaningsList src) s = .next (orderDone s src 0x0006 a 0 (gleaningsList b (fld a 0 2) (fld a 4 4)) b)) ∧
    (∀ e, Ready s src 0x0007 a b → a.length = 4 → Tbl.find? b.reeve.journal (fld a 0 4) = some e →
      exec (.mbOrderStatus src) s = .next (orderDone s src 0x0007 a 0 (orderReport b e) b)) ∧
    (Ready s src 0x0007 a b → a.length = 4 → Tbl.find? b.reeve.journal (fld a 0 4) = none →
      exec (.mbOrderStatus src) s = .next (orderDone s src 0x0007 a 0x41 [] b)) ∧
    (Ready s src 0x0008 a b → a.length = 2 → fld a 1 1 = 0xFF → (getSlice b (fld a 0 1)).state ≠ .free →
      exec (.mbSliceStats src) s = .next (orderDone s src 0x0008 a 0
        (sliceStatsReport b (fld a 0 1) none (getSlice b (fld a 0 1)).stats) b)) ∧
    (Ready s src 0x0008 a b → a.length = 2 → fld a 1 1 < 64 → (getSlice b (fld a 0 1)).state ≠ .free →
      fld a 1 1 < (getSlice b (fld a 0 1)).laneLimit →
      exec (.mbSliceStats src) s = .next (orderDone s src 0x0008 a 0
        (sliceStatsReport b (fld a 0 1) (some (fld a 1 1)) (getLane b (fld a 0 1) (fld a 1 1)).stats) b))

/-- MB_TENANT_CREATE, MB_TENANT_REMOVE, MB_TENANT_PERMIT, MB_HAMLET_ASSIGN and MB_HAMLET_RELEASE, once their order is ready and
their conditions hold (R332, R342 to R344, R350): the tenant gets the lowest free index and ways and its hamlets, a removal
fences its slices and releases its hamlets, a permit sets and withdraws rights, an assignment fills the hamlets of a claimed
tenant, a release drains them. -/
def Obligations.Order_tenants_change : Prop :=
  ∀ (s : State) (src : OrderSource) (a : Bytes) (b : Ctl) (t : Nat) (x : Tenant),
    (∀ u v w, Ready s src 0x0100 a b → tenantMaskBad a = false → b.pkg.debugUnlocked = false →
      tenantById b (fld a 0 2) = none → (∀ h ∈ maskAt a 4, (getHam b h).assign = .unassigned) →
      freeIndex b = some t → freeWay b Tenant.wayDesc = some u → freeWay b Tenant.wayAtc = some v →
      freeWay b Tenant.wayLane = some w →
      exec (.mbTenantCreate src) s = .next (orderDone s src 0x0100 a 0 (leBytes 2 (newTenantHandle b) ++ leBytes 1 t)
        (createTenant b (fld a 0 2) t (wayBit u) (wayBit v) (wayBit w) (maskAt a 4)))) ∧
    (Ready s src 0x0101 a b → identBad a = false → tenantById b (fld a 0 2) = some (t, x) → x.state ≠ .removing →
      exec (.mbTenantRemove src) s = .next (orderPending s src 0x0101 a [] (startRemoval b t s.reeve.nextJseq))) ∧
    (Ready s src 0x0102 a b → permitBad a = false → tenantById b (fld a 0 2) = some (t, x) → bitOf (fld a 3 1) 1 = false →
      (bitOf (fld a 2 1) 0 = true → x.permitStrict = false → overBooked b true = none) →
      exec (.mbTenantPermit src) s = .next (orderDone s src 0x0102 a 0 [] (setPermits b t (fld a 2 1) (fld a 3 1)))) ∧
    (Ready s src 0x0102 a b → permitBad a = false → tenantById b (fld a 0 2) = some (t, x) → bitOf (fld a 2 1) 0 = false →
      bitOf (fld a 3 1) 1 = true →
      exec (.mbTenantPermit src) s = .next (orderDone s src 0x0102 a 0 []
        (dropArms (setPermits b t (fld a 2 1) (fld a 3 1)) t))) ∧
    (∀ r, Ready s src 0x0102 a b → permitBad a = false → tenantById b (fld a 0 2) = some (t, x) → bitOf (fld a 2 1) 0 = true →
      x.permitStrict = false → overBooked b true = some r →
      exec (.mbTenantPermit src) s = .next (orderDone s src 0x0102 a 0x24 (leBytes 4 r) b)) ∧
    (Ready s src 0x0103 a b → tenantMaskBad a = false → tenantById b (fld a 0 2) = some (t, x) → x.state ≠ .removing →
      (∀ h ∈ maskAt a 4, (getHam b h).assign = .unassigned) →
      exec (.mbHamletAssign src) s = .next (orderDone s src 0x0103 a 0 [] (forEach (maskAt a 4) b fun b h =>
        if x.state = .claimed then startFill (giveHamlet b x.ident t h) h else giveHamlet b x.ident t h))) ∧
    (Ready s src 0x0104 a b → tenantMaskBad a = false → tenantById b (fld a 0 2) = some (t, x) →
      (∀ h ∈ maskAt a 4, (getHam b h).tenant = t ∧ (getHam b h).assign ≠ .unassigned ∧ (getHam b h).reservedMode = false) →
      (∃ h ∈ keptHamlets b t, h ∉ maskAt a 4) →
      exec (.mbHamletRelease src) s = .next (orderPending s src 0x0104 a []
        (forEach (maskAt a 4) b fun b h => startRelease b s.reeve.nextJseq h)))

/-- MB_HAMLET_CONFIG, MB_OWNER_MAP_SET, MB_WAY_MASK and MB_TALLY_ALLOC, once their order is ready and their conditions hold (R163,
R173, R225, R330): the settings the arguments name, and nothing else, change. -/
def Obligations.Order_settings_change : Prop :=
  ∀ (s : State) (src : OrderSource) (a : Bytes) (b : Ctl) (t : Nat) (x : Tenant),
    (Ready s src 0x0106 a b → hamletConfigBad a = false →
      (bitOf (fld a 1 1) 0 = true → localUsed b (fld a 0 1) ≤ fld a 2 1 * 524288 ∧
        (getHam b (fld a 0 1)).remoteUsed ≤ (16 - fld a 2 1) * 524288) →
      exec (.mbHamletConfig src) s = .next (orderDone s src 0x0106 a 0 [] (settled (modHam b (fld a 0 1) (configHamlet a))))) ∧
    (Ready s src 0x0107 a b → a.length = 4 → fld a 0 2 < 1024 → fld a 0 2 / 32 ≠ pkgNum b → fld a 2 2 ≠ 0 →
      exec (.mbOwnerMapSet src) s = .next (orderDone s src 0x0107 a 0 []
        { b with owners := Tbl.set b.owners (fld a 0 2) (BitVec.ofNat 16 (fld a 2 2)) })) ∧
    (Ready s src 0x0107 a b → a.length = 4 → fld a 0 2 < 1024 → fld a 0 2 / 32 ≠ pkgNum b → fld a 2 2 = 0 →
      exec (.mbOwnerMapSet src) s = .next (orderDone s src 0x0107 a 0 [] { b with owners := Tbl.erase b.owners (fld a 0 2) })) ∧
    (Ready s src 0x0107 a b → a.length = 4 → fld a 0 2 < 1024 → fld a 0 2 / 32 = pkgNum b →
      exec (.mbOwnerMapSet src) s = .next (orderDone s src 0x0107 a 0x21 [] b)) ∧
    (Ready s src 0x0108 a b → badArgs a 16 [2, 3] = false → fld a 4 4 ≠ 0 → fld a 8 4 ≠ 0 → fld a 12 4 ≠ 0 →
      tenantById b (fld a 0 2) = some (t, x) →
      (∀ e ∈ b.tenants, e.1 ≠ t → e.2.wayDesc &&& BitVec.ofNat 32 (fld a 4 4) = 0 ∧
        e.2.wayAtc &&& BitVec.ofNat 32 (fld a 8 4) = 0 ∧ e.2.wayLane &&& BitVec.ofNat 32 (fld a 12 4) = 0) →
      exec (.mbWayMask src) s = .next (orderDone s src 0x0108 a 0 [] (setWays b t x (BitVec.ofNat 32 (fld a 4 4))
        (BitVec.ofNat 32 (fld a 8 4)) (BitVec.ofNat 32 (fld a 12 4))))) ∧
    (Ready s src 0x0109 a b → badArgs a 8 [3] = false → fld a 2 1 = 0 → tenantById b (fld a 0 2) = some (t, x) →
      (∀ k ∈ maskAt a 4, Tbl.find? b.tallyBlocks k = none) →
      exec (.mbTallyAlloc src) s = .next (orderDone s src 0x0109 a 0 []
        { b with tallyBlocks := (maskAt a 4).foldl (fun m k => Tbl.set m k t) b.tallyBlocks })) ∧
    (Ready s src 0x0109 a b → badArgs a 8 [3] = false → fld a 2 1 = 1 → tenantById b (fld a 0 2) = some (t, x) →
      (∀ k ∈ maskAt a 4, ∀ u, Tbl.find? b.tallyBlocks k = some u → u = t) →
      exec (.mbTallyAlloc src) s = .next (orderDone s src 0x0109 a 0 []
        (freeBlocks b ((maskAt a 4).filter fun k => Tbl.find? b.tallyBlocks k == some t))))

/-- MB_SLICE_CREATE, MB_SLICE_DESTROY, MB_SLICE_RESET, MB_SLICE_SET_PORT, MB_SLICE_SCHED and MB_SLICE_RATE, once their order is
ready and their conditions hold (R51, R79, R251, R261, R266, R272, R274, R345, R346, R348). -/
def Obligations.Order_slices_change : Prop :=
  ∀ (s : State) (src : OrderSource) (a : Bytes) (b : Ctl) (t : Nat) (x : Tenant),
    (Ready s src 0x0200 a b → sliceCreateBad a = false → laneSum b + fld a 1 1 ≤ 4096 →
      (getSlice b (fld a 0 1)).state = .free → (bitOf (fld a 4 1) 0 = true → portTaken b .ha (portArgs a false) = false) →
      (bitOf (fld a 4 1) 1 = true → portTaken b .hb (portArgs a true) = false) →
      tenantById b (fld a 2 2) = some (t, x) → x.state ≠ .removing →
      exec (.mbSliceCreate src) s = .next (orderDone s src 0x0200 a 0 (leBytes 4 (b.incarnations + 1).toNat ++ leBytes 1 0)
        (createSlice b (fld a 0 1) a t))) ∧
    (Ready s src 0x0201 a b → a.length = 1 → (getSlice b (fld a 0 1)).state ≠ .free →
      exec (.mbSliceDestroy src) s = .next (orderPending s src 0x0201 a []
        (fenceSlice b (fld a 0 1) (some { kind := .destroy, jseq := s.reeve.nextJseq, start := now b })))) ∧
    (Ready s src 0x0202 a b → a.length = 1 →
      ((getSlice b (fld a 0 1)).state = .active ∨ (getSlice b (fld a 0 1)).state = .fenced ∨
        (getSlice b (fld a 0 1)).state = .frozen) →
      exec (.mbSliceReset src) s = .next (orderPending s src 0x0202 a [] (startSliceReset b (fld a 0 1) s.reeve.nextJseq))) ∧
    (∀ p, Ready s src 0x0202 a b → a.length = 1 → (getSlice b (fld a 0 1)).state = .portLost →
      boundOn (getSlice b (fld a 0 1)) p = true → (getPort b p).linkUp = true →
      exec (.mbSliceReset src) s = .next (orderPending s src 0x0202 a [] (startSliceReset b (fld a 0 1) s.reeve.nextJseq))) ∧
    (Ready s src 0x0203 a b → a.length = 2 → fld a 1 1 ≤ 1 → dualHomed (getSlice b (fld a 0 1)) = true →
      (getPort b (portOf (fld a 1 1))).linkUp = true →
      exec (.mbSliceSetPort src) s = .next (orderDone s src 0x0203 a 0 []
        (if (getSlice b (fld a 0 1)).cur = portOf (fld a 1 1) then b
         else redeliver (leaveFast (modSlice b (fld a 0 1) fun y => { y with cur := portOf (fld a 1 1) }) (fld a 0 1)) (fld a 0 1)))) ∧
    (Ready s src 0x0204 a b → sliceSchedBad a = false → (getSlice b (fld a 0 1)).state ≠ .free →
      exec (.mbSliceSched src) s = .next (orderDone s src 0x0204 a 0 []
        (shareUp b (modSlice b (fld a 0 1) (schedSlice a))))) ∧
    (Ready s src 0x0205 a b → sliceRateBad a = false → (getSlice b (fld a 0 1)).state ≠ .free →
      fastUnfit (modSlice b (fld a 0 1) (rateSlice b a)) (fld a 0 1) = false →
      exec (.mbSliceRate src) s = .next (orderDone s src 0x0205 a 0 [] (modSlice b (fld a 0 1) (rateSlice b a)))) ∧
    (Ready s src 0x0205 a b → sliceRateBad a = false → (getSlice b (fld a 0 1)).state ≠ .free →
      fastUnfit (modSlice b (fld a 0 1) (rateSlice b a)) (fld a 0 1) = true →
      exec (.mbSliceRate src) s = .next (orderDone s src 0x0205 a 0x23 [] b))

/-- MB_ALMANAC_WRITE, MB_RESV_CREATE, MB_RESV_END, MB_RESV_QUERY, MB_ROAD_ENABLE, MB_ROAD_DISABLE and MB_ROAD_WEIGHT, once their
order is ready and their conditions hold (R207, R221, R248, R249, R278, R279). MB_TIME_ROLE, MB_TIME_CONFIG and MB_TIME_SET,
once their order is ready and their conditions hold (R238, R458 to R469). -/
def Obligations.Order_roads_and_time_change : Prop :=
   (∀ (s : State) (src : OrderSource) (a : Bytes) (b : Ctl),
      (Ready s src 0x0300 a b → almanacBad a = false →
        (∀ e ∈ argEntries a, foreignEntry b (fld a 0 1) e = false) →
        exec (.mbAlmanacWrite src) s = .next (orderDone s src 0x0300 a 0 [] (writeAlmanac b (fld a 0 1)
          { entries := argEntries a, tAct := BitVec.ofNat 64 (fld a 8 8) }))) ∧
      (∀ t x v, Ready s src 0x0301 a b → resvBad a = false → tenantById b (fld a 24 2) = some (t, x) → v = argResv b a t →
        resvRefusal b (fld a 0 1) (fld a 24 2) v = none →
        overBooked { b with reservations := Tbl.set b.reservations (fld a 0 1) v }
          (anyStrict { b with reservations := Tbl.set b.reservations (fld a 0 1) v }) = none →
        weightsDeliver { b with reservations := Tbl.set b.reservations (fld a 0 1) v } = true →
        exec (.mbResvCreate src) s = .next (orderDone s src 0x0301 a 0 (leBytes 2 (newShare b (fld a 0 1) v))
          (shareUp b (bookResv b (fld a 0 1) v)))) ∧
      (∀ v, Ready s src 0x0302 a b → resvNumBad a = false → Tbl.find? b.reservations (fld a 0 1) = some v →
        exec (.mbResvEnd src) s = .next (orderDone s src 0x0302 a 0 [] (endResv b (fld a 0 1)))) ∧
      (∀ v, Ready s src 0x0303 a b → resvNumBad a = false → Tbl.find? b.reservations (fld a 0 1) = some v →
        exec (.mbResvQuery src) s = .next (orderDone s src 0x0303 a 0 (resvEntry b (fld a 0 1)) b)) ∧
      (Ready s src 0x0400 a b → roadNumBad a = false →
        ((getRoad b (fld a 0 1)).state = .mismatch ∨ (getRoad b (fld a 0 1)).state = .disabled) →
        exec (.mbRoadEnable src) s = .next (orderDone s src 0x0400 a 0 []
          (leaveUp (modRoad b (fld a 0 1) fun y => { y with retrainTimes := [] }) (fld a 0 1) .down))) ∧
      (Ready s src 0x0401 a b → roadNumBad a = false →
        exec (.mbRoadDisable src) s = .next (orderDone s src 0x0401 a 0 [] (leaveUp b (fld a 0 1) .disabled))) ∧
      (Ready s src 0x0402 a b → roadWeightBad (takenFrom s.toCtl 0x0402 src) a = false → weightsDeliver (setWeights b a) = true →
        exec (.mbRoadWeight src) s = .next (orderDone s src 0x0402 a 0 [] (setWeights b a)))) ∧
   (∀ (s : State) (src : OrderSource) (a : Bytes) (b : Ctl),
      (Ready s src 0x0500 a b → timeRoleBad (takenFrom s.toCtl 0x0500 src) a = false →
        exec (.mbTimeRole src) s = .next (orderDone s src 0x0500 a 0 [] (setRole b a))) ∧
      (Ready s src 0x0501 a b → timeConfigBad a = false →
        exec (.mbTimeConfig src) s = .next (orderDone s src 0x0501 a 0 [] (configTime b a))) ∧
      (Ready s src 0x0502 a b → badArgs a 16 [1, 2, 3, 4, 5, 6, 7] = false → fld a 0 1 = 0 →
        (b.time.state = .unset ∨ b.time.state = .freerun) → follows b.time = false →
        exec (.mbTimeSet src) s = .next (orderDone s src 0x0502 a 0 [] (setDeviceTime b (BitVec.ofNat 64 (fld a 8 8))))) ∧
      (Ready s src 0x0502 a b → badArgs a 16 [1, 2, 3, 4, 5, 6, 7] = false → fld a 0 1 = 1 →
        (b.time.state = .unset ∨ b.time.state = .freerun) → follows b.time = false →
        exec (.mbTimeSet src) s = .next (orderDone s src 0x0502 a 0 []
          (modTime b fun t => { t with ppsLabel := some (fld a 8 8) }))) ∧
      (Ready s src 0x0502 a b → badArgs a 16 [1, 2, 3, 4, 5, 6, 7] = false → fld a 0 1 ≤ 1 →
        b.time.state ≠ .unset → b.time.state ≠ .freerun →
        exec (.mbTimeSet src) s = .next (orderDone s src 0x0502 a 0x20 [] b)))

/-- MB_CONTAIN_POLICY, MB_RECOVERY_SET, MB_HAMLET_RESET, MB_PKG_RESET of kind WARM, MB_RETURN_TO_SERVICE, MB_JOB_SET, MB_JOB_DEAD
and MB_JOB_CLEAR, once their order is ready and their conditions hold (R363, R386, R387, R392, R396, R401, R403, R407, R410,
R413). -/
def Obligations.Order_recovery_acts : Prop :=
  ∀ (s : State) (src : OrderSource) (a : Bytes) (b : Ctl),
    (Ready s src 0x0600 a b → a.length = 1 → fld a 0 1 ≤ 1 →
      exec (.mbContainPolicy src) s = .next (orderDone s src 0x0600 a 0 []
        (modPkg b fun k => { k with policyPackage := fld a 0 1 == 1 }))) ∧
    (Ready s src 0x0601 a b → recoverySetBad a = false →
      exec (.mbRecoverySet src) s = .next (orderDone s src 0x0601 a 0 [] (modPkg b (setRecovery a)))) ∧
    (Ready s src 0x0105 a b → a.length = 1 → fld a 0 1 < 32 → (getHam b (fld a 0 1)).assign ≠ .unassigned →
      (getHam b (fld a 0 1)).assign ≠ .releasing → (getHam b (fld a 0 1)).outOfService = false →
      exec (.mbHamletReset src) s = .next { s with toCtl := joinResets (underway s.toCtl src 0x0105 a (.ok []) []
        (startHamletReset b (fld a 0 1) s.reeve.nextJseq 0x80 false)) }) ∧
    (Ready s src 0x0602 a b → a.length = 1 → fld a 0 1 = 0 → b.pkg.life = .operating → b.pkg.fullJseq = 0 →
      exec (.mbPkgReset src) s = .next (orderPending s src 0x0602 a []
        (startWarm b { jseq := s.reeve.nextJseq, start := now b, policy := false, counted := false, cause := 0x80 }))) ∧
    (Ready s src 0x0602 a b → a.length = 1 → fld a 0 1 = 1 →
      exec (.mbPkgReset src) s = .next (orderReset s src 0x0602 a (modPkg b fun k => { k with fullJseq := s.reeve.nextJseq }))) ∧
    (Ready s src 0x0602 a b → a.length = 1 → fld a 0 1 = 2 → b.pkg.fullJseq = 0 →
      exec (.mbPkgReset src) s = .next (orderPending s src 0x0602 a []
        (raiseIbi (modPkg (pushHistory b 2 0x80 false) fun k => { k with powerCycle := true }) 0x10))) ∧
    (Ready s src 0x0603 a b → a.length = 2 → fld a 0 1 = 0 → fld a 1 1 < 32 → (getHam b (fld a 1 1)).outOfService = true →
      unfit (getHam b (fld a 1 1)) = false →
      exec (.mbReturnToService src) s = .next (orderPending s src 0x0603 a [] (startHamletReset
        (modHam b (fld a 1 1) fun y => { y with outOfService := false, resetTimes := [] }) (fld a 1 1) s.reeve.nextJseq 0x80
        false))) ∧
    (Ready s src 0x0603 a b → a.length = 2 → fld a 0 1 = 1 → fld a 1 1 = 0 → b.pkg.outOfService = true →
      exec (.mbReturnToService src) s = .next (orderPending s src 0x0603 a [] (startWarm b {
        jseq := s.reeve.nextJseq, start := now b, policy := false, counted := false, cause := 0x80, returning := true }))) ∧
    (∀ k, Ready s src 0x0604 a b → a.length = 36 → fld a 0 2 ≠ 0 → fld a 3 1 ≤ 1 → jobClash b a = false →
      jobSlot b (fld a 0 2) = some k →
      exec (.mbJobSet src) s = .next (orderDone s src 0x0604 a 0 [] { b with jobs := Tbl.set b.jobs k (argJob b a) })) ∧
    (∀ k, Ready s src 0x0605 a b → a.length = 3 → fld a 0 2 ≠ 0 → jobById b (fld a 0 2) = some k →
      exec (.mbJobDead src) s = .next (orderDone s src 0x0605 a 0 [] (declareDead b (fld a 0 2) (fld a 2 1)))) ∧
    (∀ k, Ready s src 0x0606 a b → a.length = 2 → fld a 0 2 ≠ 0 → jobById b (fld a 0 2) = some k → jobBusy b (fld a 0 2) = false →
      exec (.mbJobClear src) s = .next (orderDone s src 0x0606 a 0 [] { b with jobs := Tbl.erase b.jobs k.1 }))

/-- MB_MIG_FREEZE, MB_MIG_SAVE, MB_MIG_RESTORE, MB_MIG_RESUME, once their order is ready and their conditions hold (R352 to R354,
R357, R361). MB_CHARTER_READ, MB_CHARTER_WRITE, MB_FW_WRITE, MB_FW_SVN_COMMIT, MB_REBOOT and MB_DEBUG_UNLOCK, once their order
is ready and their conditions hold (R337, R474, R484, R488, R494): a write erases the copy not in force, or not running, and
leaves a flash operation to be done; the fused security version only rises; a reboot clears the lantern latch and resets the
package. -/
def Obligations.Order_migration_and_provisioning : Prop :=
   (∀ (s : State) (src : OrderSource) (a : Bytes) (b : Ctl) (image : DmaResult),
      (Ready s src 0x0700 a b → a.length = 1 → mayFreeze b (fld a 0 1) = true →
        exec (.mbMigFreeze src) s = .next (orderPending s src 0x0700 a [] (startFreeze b (fld a 0 1) s.reeve.nextJseq))) ∧
      (∀ img, Ready s src 0x0701 a b → migSaveBad a = false → migReady b (fld a 0 1) (fld a 1 1) = true →
        completionsWritten b (fld a 0 1) = true → imageOf s.mem b (fld a 0 1) (bitList 32 (fld a 4 4)) = some img →
        fld a 8 8 % 4096 = 0 →
        (bitList 32 (fld a 4 4) = [] ∨ othersFrozen b (fld a 0 1) = true) →
        (∀ h ∈ bitList 32 (fld a 4 4), h ∈ tenantHamlets b (getSlice b (fld a 0 1)).tenant) →
        transientShort b (fld a 1 1) true = none →
        exec (.mbMigSave src) s = .next (if img.length ≤ fld a 16 8 then orderPending s src 0x0701 a (leBytes 8 img.length)
          (startSave b (fld a 0 1) s.reeve.nextJseq img)
        else orderDone s src 0x0701 a 0x23 (leBytes 4 (ceilDiv img.length 4096)) b)) ∧
      (Ready s src 0x0702 a b image → migRestoreBad a = false → migReady b (fld a 0 1) (fld a 1 1) = true →
        hasComputeLane (getSlice b (fld a 0 1)) = false → completionsWritten b (fld a 0 1) = true →
        (∀ p ∈ migPairs a, grantedTo b (fld a 0 1) p.2 = true) → transientShort b (fld a 1 1) false = none →
        exec (.mbMigRestore src image) s = .next (orderPending s src 0x0702 a [] (startRestore b (fld a 0 1) s.reeve.nextJseq a)
          image)) ∧
      (Ready s src 0x0703 a b → a.length = 1 → (getSlice b (fld a 0 1)).state = .frozen → (getSlice b (fld a 0 1)).proc = none →
        ((getSlice b (fld a 0 1)).saved = false ∨ (getSlice b (fld a 0 1)).arm ≠ none) →
        exec (.mbMigResume src) s = .next (orderDone s src 0x0703 a 0 [] (resumeSlice b (fld a 0 1))))) ∧
   (∀ (s : State) (src : OrderSource) (a : Bytes) (b : Ctl) (image : DmaResult),
      (Ready s src 0x0800 a b → badArgs a 8 [1, 2, 3] = false → fld a 0 1 ≤ 3 → fld a 4 4 % 4 = 0 →
        exec (.mbCharterRead src) s = .next (orderDone s src 0x0800 a 0
          (padTo 240 ((shownCopy (charterLayer b.pkg (fld a 0 1))).drop (fld a 4 4))) b)) ∧
      (Ready s src 0x0801 a b → charterWriteBad a = false → charterSeq b.pkg + 1 < 2 ^ 32 →
        exec (.mbCharterWrite src) s = .next (orderPending s src 0x0801 a [] (startCharter b s.reeve.nextJseq
          (charterTarget b.pkg)
          (buildCopy (charterSeq b.pkg + 1) (mergeRecords (recordsInForce b.pkg) ((charterWrites a).getD [])))))) ∧
      (Ready s src 0x0802 a b image → badArgs a 20 [1, 2, 3, 4, 5, 6, 7] = false → fld a 0 1 ≤ 1 → fld a 8 8 % 4096 = 0 →
        fld a 16 4 ≤ 8 * 2 ^ 20 → (getPort b (portOf (fld a 0 1))).linkUp = true →
        exec (.mbFwWrite src image) s = .next (orderPending s src 0x0802 a [] (startFirmware b s.reeve.nextJseq a image) image)) ∧
      (Ready s src 0x0803 a b → a.length = 0 →
        exec (.mbFwSvnCommit src) s = .next (orderDone s src 0x0803 a 0 []
          (modPkg b fun k => { k with fusedSvn := max k.fusedSvn k.runningSvn }))) ∧
      (Ready s src 0x0805 a b → a.length = 128 → b.tenants = [] →
        exec (.mbDebugUnlock src) s = .next (if Config.unlockTokenValid a = true then
          orderDone s src 0x0805 a 0 [] (modPkg b fun k => { k with debugUnlocked := true })
        else orderDone s src 0x0805 a 0x13 [] b)) ∧
      (Ready s src 0x0804 a b → a.length = 0 →
        exec (.mbReboot src) s = .next (orderReset s src 0x0804 a
          (modPkg b fun k => { k with latch := false, latchCode := 0, fullJseq := s.reeve.nextJseq }))))

/-- RD, WR_STAGE, RESERVE and UNRESERVE that pass the checks and the limits of R222 and R223, at a hamlet no reset fences (R397):
the bytes are answered, the write joins its set, the reservation is granted or deferred, or it ends (R164, R165, R219). A
request that a receiving hamlet turns away is answered NACK: reason 3 where a reset fences the hamlet, 2 where the access is
outside windows, pages or limits, 1 where no reservation of the source takes the write, 4 where the request is larger than the
partition (R164, R219, R223, R397). -/
def Obligations.Road_requests : Prop :=
   (∀ (s : State) (r : Fin 64) (m : RoadMsg) (p : Bytes) (e : Ctl) (h : Nat), h = endHamlet m.dst.toNat → 
      (Arrives s r.val 0x01 m p e → resetting e h = false → accessOk e m false = true →
        isPoisoned s.poison h (addrOffset m.addr.toNat) m.len.toNat = false →
        exec (.rd r m) s = .next (setCtl s (loadDraw (reply e m 0x11 0 m.len
          (loadBytes s.mem e h (addrOffset m.addr.toNat) m.len.toNat [])) (addrOffset m.addr.toNat)))) ∧
      (∀ y, Arrives s r.val 0x02 m p e → resetting e h = false → accessOk e m true = true →
        findSet e h m.src.toNat (m.operand.toNat % 65536) = some y → setUsed y + p.length ≤ y.granted →
        exec (.wrStage r m) s = .next (setCtl s (reply
          (modSet e h m.src.toNat (m.operand.toNat % 65536) fun y => { y with
            writes := y.writes ++ [(memKey h (addrOffset m.addr.toNat), p)] }) m 0x12 0 0 []))) ∧
      (Arrives s r.val 0x21 m p e → resetting e h = false → m.len.toNat ≤ remoteBytes (getHam e h) →
        canGrant (getHam e h) m.len.toNat = true →
        exec (.reserve r m) s = .next (setCtl s
          (reply (holdSpace e h m.src.toNat m.ttag.toNat (getHam e h).tenant m.len.toNat) m 0x14 0 0 []))) ∧
      (Arrives s r.val 0x21 m p e → m.len.toNat ≤ remoteBytes (getHam e h) →
        (resetting e h = true ∨ canGrant (getHam e h) m.len.toNat = false) →
        exec (.reserve r m) s = .next (setCtl s (reply
          (modHam e h fun x => { x with deferred := x.deferred ++
            [{ src := m.src.toNat, ttag := m.ttag.toNat, tenant := x.tenant, bytes := m.len.toNat }] }) m 0x15 0 0 []))) ∧
      (Arrives s r.val 0x22 m p e →
        exec (.unreserve r m) s = .next (setCtl s
          (settled (reply (dropSet e h m.src.toNat m.ttag.toNat) m 0x17 0 0 []))))) ∧
   (∀ (s : State) (r : Fin 64) (m : RoadMsg) (p : Bytes) (e : Ctl) (h : Nat), h = endHamlet m.dst.toNat → 
      (Arrives s r.val 0x01 m p e → resetting e h = true →
        exec (.rd r m) s = .next (setCtl s (reply e m 0x18 3 0 []))) ∧
      (Arrives s r.val 0x01 m p e → resetting e h = false → accessOk e m false = false →
        exec (.rd r m) s = .next (setCtl s (reply e m 0x18 2 0 []))) ∧
      (Arrives s r.val 0x02 m p e → resetting e h = true →
        exec (.wrStage r m) s = .next (setCtl s (reply e m 0x18 3 0 []))) ∧
      (Arrives s r.val 0x02 m p e → resetting e h = false → accessOk e m true = false →
        exec (.wrStage r m) s = .next (setCtl s (reply e m 0x18 2 0 []))) ∧
      (Arrives s r.val 0x02 m p e → resetting e h = false → accessOk e m true = true →
        (∀ y, findSet e h m.src.toNat (m.operand.toNat % 65536) = some y → y.granted < setUsed y + p.length) →
        exec (.wrStage r m) s = .next (setCtl s (reply e m 0x18 1 0 []))) ∧
      (Arrives s r.val 0x21 m p e → remoteBytes (getHam e h) < m.len.toNat →
        exec (.reserve r m) s = .next (setCtl s (reply e m 0x18 4 0 []))) ∧
      (Arrives s r.val 0x25 m p e → endIsHearth m.dst.toNat = false → resetting e h = true →
        exec (.tallyOp r m) s = .next (setCtl s (reply e m 0x18 3 0 []))))

/-- COMMIT and DISCARD that pass the checks (R166 to R170, R180, R398): a COMMIT applies the whole set of its source and tag in the
hamlet or in the Hearth and is answered APPLIED, a second copy is only answered; a DISCARD drops the set, or takes the command
of a receiver back unless its token has issued. -/
def Obligations.Road_sets_end : Prop :=
  ∀ (s : State) (r : Fin 64) (m : RoadMsg) (p : Bytes) (e : Ctl) (h : Nat), h = endHamlet m.dst.toNat → 
    (∀ y, Arrives s r.val 0x23 m p e → endIsHearth m.dst.toNat = false → findSet e h m.src.toNat m.ttag.toNat = some y →
      exec (.commit r m) s = .next (setDev s
        (withCtl (applySet { s.toDev with toCtl := e } h y) fun d => settled (reply d m 0x13 0 0 [])))) ∧
    (Arrives s r.val 0x23 m p e → endIsHearth m.dst.toNat = false → findSet e h m.src.toNat m.ttag.toNat = none →
      exec (.commit r m) s = .next (setCtl s (settled (reply e m 0x13 0 0 [])))) ∧
    (Arrives s r.val 0x23 m p e → endIsHearth m.dst.toNat = true →
      exec (.commit r m) s = .next (setCtl s
        (settled (reply (applyHearthSet e m.src.toNat m.ttag.toNat) m 0x13 0 0 [])))) ∧
    (Arrives s r.val 0x24 m p e → m.operand.getLsbD 0 = false → endIsHearth m.dst.toNat = false →
      exec (.discardMessage r m) s = .next (setCtl s
        (settled (reply (dropSet e h m.src.toNat m.ttag.toNat) m 0x17 0 0 [])))) ∧
    (Arrives s r.val 0x24 m p e → m.operand.getLsbD 0 = false → endIsHearth m.dst.toNat = true →
      exec (.discardMessage r m) s = .next (setCtl s (settled (reply { e with
        hearthSets := e.hearthSets.filter fun y => !(y.src == m.src.toNat && y.ttag == m.ttag.toNat) } m 0x17 0 0 [])))) ∧
    (Arrives s r.val 0x24 m p e → m.operand.getLsbD 0 = true →
      exec (.discardMessage r m) s = .next (setCtl s (settled (discardedByReceiver e m))))

/-- TALLY_OP, WAIT_REGISTER and MARK that pass the checks (R175 to R177, R180, R235): an operation on a tally that is named, lies at
the destination and is open to the tenant is answered with its result or staged, a wait is acknowledged and joins the waiters, a
MARK is answered MARK_SEEN. -/
def Obligations.Road_tallies_and_marks : Prop :=
  ∀ (s : State) (r : Fin 64) (m : RoadMsg) (p : Bytes) (e : Ctl) (t n : Nat) (op : TallyOp) (a : Option TallyResult × Ctl),
    t = ((tenantById e m.tenant.toNat).map Prod.fst).getD 32 → n = syncTally m → tallyNamed n = true →
    tallyEndpoint n = m.dst.toNat → operandOp m.operand = some op →
    (Arrives s r.val 0x25 m p e → tallyOpen e t n = true →
      (endIsHearth m.dst.toNat = true ∨ resetting e (endHamlet m.dst.toNat) = false) →
      a = tallyAt e n op (BitVec.ofNat 32 m.operand.toNat) (msgOwner m) (remoteWaiter m) →
      (∀ x, a.1 = some x → ¬ (op = .release ∧ x = .owner) →
        exec (.tallyOp r m) s = .next (setCtl s (reply a.2 m 0x16 (resultOperand x) 0 []))) ∧
      (∀ f d, a.1 = none → effectOf op (BitVec.ofNat 32 m.operand.toNat) = some f → stageRemote a.2 m n t f = some d →
        exec (.tallyOp r m) s = .next (setCtl s (reply d m 0x12 0 0 []))) ∧
      (∀ f, a.1 = none → effectOf op (BitVec.ofNat 32 m.operand.toNat) = some f → stageRemote a.2 m n t f = none →
        exec (.tallyOp r m) s = .next (setCtl s (reply e m 0x18 2 0 []))) ∧
      (∀ d, a.1 = some .owner → op = .release → stageRemote a.2 m n t .release = some d →
        exec (.tallyOp r m) s = .next (setCtl s (reply d m 0x16 (resultOperand .owner) 0 [])))) ∧
    (Arrives s r.val 0x26 m p e →
      tallyOpen (reply e m 0x17 0 0 []) t n = true →
      a = tallyAt (reply e m 0x17 0 0 []) n op (BitVec.ofNat 32 m.operand.toNat) (msgOwner m)
        (remoteWaiter m) →
      (∀ x, a.1 = some x → exec (.waitRegister r m) s = .next (setCtl s (notify a.2 m x))) ∧
      (a.1 = none → exec (.waitRegister r m) s = .next (setCtl s (a.2)))) ∧
    (Arrives s r.val 0x0F m p e →
      exec (.mark r m) s = .next (setCtl s (sendCtrl e 0x37 (endPkg m.src.toNat) 0
        (BitVec.ofNat 64 (m.src.toNat + 2 ^ 16 * m.dst.toNat + 2 ^ 32 * m.cls.toNat)) 0)))

/-- The answers RD_DATA, STAGED_ACK, APPLIED, GRANT, DEFERRED, TALLY_RESULT and NACK that pass the checks, for the request they
belong to (R164, R165, R168, R169, R175, R222): the request ends, except that DEFERRED leaves it, and its command goes on, or
ends with the status of the NACK's reason. SYNC_ACK and WAIT_NOTIFY that pass the checks (R176, R219, R398): the answer to a
receiver's DISCARD applies the set if the token had issued and drops it otherwise, the answer to a WAIT_REGISTER leaves the wait
standing, a WAIT_NOTIFY is acknowledged and releases the waiting tile, a second copy is only acknowledged; an answer without a
request changes nothing but the count of its hamlet where its tag is retired (R384). -/
def Obligations.Road_responses : Prop :=
   (∀ (s : State) (r : Fin 64) (m : RoadMsg) (p : Bytes) (e : Ctl) (q : Request), requestFor e m = some q → 
      (Arrives s r.val 0x11 m p e → q.opcode = 0x01 →
        exec (.rdData r m) s = .next (setCtl s
          (seeTile (emit (endWait (dropRequest e q) q) (.readData q.cmd p)) q.cmd (q.tile.getD ⟨0, 0⟩) [p]))) ∧
      (Arrives s r.val 0x12 m p e → q.opcode = 0x02 ∨ q.opcode = 0x25 →
        exec (.stagedAck r m) s = .next (setCtl s
          (modGrantsTo (endWait (dropRequest e q) q) q.cmd m.src.toNat fun g => { g with acks := g.acks - 1 }))) ∧
      (Arrives s r.val 0x13 m p e → q.opcode = 0x23 →
        exec (.applied r m) s = .next (setCtl s
          (finishCommit (modGrantsTo (dropRequest e q) q.cmd m.src.toNat fun g => { g with applied := false }) q.cmd))) ∧
      (Arrives s r.val 0x14 m p e → q.opcode = 0x21 →
        exec (.grant r m) s = .next (setCtl s
          (shareUp e (settled (modGrantsTo (dropRequest e q) q.cmd m.src.toNat fun g => { g with held := true }))))) ∧
      (Arrives s r.val 0x15 m p e → q.opcode = 0x21 →
        exec (.deferred r m) s = .next (setCtl s ({ e with
          requests := e.requests.map fun k => if k = q then { k with deferred := true } else k }))) ∧
      (∀ op x, Arrives s r.val 0x16 m p e → q.opcode = 0x25 → operandOp q.operand = some op →
        x = resultOf (bits m.operand.toNat 39 32) (m.operand.toNat % 2 ^ 32) →
        exec (.tallyResult r m) s = .next (setCtl s
          (tellTile (returnSpace (endWait (dropRequest e q) q) q m.src.toNat op x) q.cmd (requestTally q)
            (q.tile.getD ⟨0, 0⟩) (if op = .release then .read else op) x))) ∧
      (Arrives s r.val 0x18 m p e →
        exec (.nack r m) s = .next (setCtl s
          (settled (discard (dropRequest e q) q.cmd (nackStatus (m.operand.toNat % 256))))))) ∧
   (∀ (s : State) (r : Fin 64) (m : RoadMsg) (p : Bytes) (e : Ctl) (h : Nat), h = endHamlet m.dst.toNat → 
      (∀ y, Arrives s r.val 0x17 m p e →
        ((getHam e h).sets.find? fun y => y.src == m.src.toNat && y.ttag == m.ttag.toNat && y.discardSent) = some y →
        exec (.syncAck r m) s = .next (setDev s (syncAnswer { s.toDev with toCtl := e } h m y))) ∧
      (∀ q, Arrives s r.val 0x17 m p e →
        ((getHam e h).sets.find? fun y => y.src == m.src.toNat && y.ttag == m.ttag.toNat && y.discardSent) = none →
        requestFor e m = some q → q.opcode = 0x26 →
        exec (.syncAck r m) s = .next (setCtl s ({ e with
          requests := e.requests.map fun k => if k = q then { k with deferred := true } else k }))) ∧
      (∀ q x d, Arrives s r.val 0x27 m p e → d = reply e m 0x17 0 0 [] →
        (d.requests.find? fun q => q.hamlet == h && q.ttag == m.ttag.toNat && q.opcode == 0x26) = some q →
        x = resultOf (bits m.operand.toNat 39 32) (m.operand.toNat % 2 ^ 32) →
        exec (.waitNotify r m) s = .next (setCtl s (tellTile (endWait (dropRequest d q) q) q.cmd (requestTally q)
          (q.tile.getD ⟨0, 0⟩) (if x = .granted ∨ x = .priorLost then .claimWait else .waitGe) x))) ∧
      (∀ d, Arrives s r.val 0x27 m p e → d = reply e m 0x17 0 0 [] →
        (d.requests.find? fun q => q.hamlet == h && q.ttag == m.ttag.toNat && q.opcode == 0x26) = none →
        exec (.waitNotify r m) s = .next (setCtl s (d))) ∧
      (Arrives s r.val 0x11 m p e → requestFor e m = none →
        (Tbl.find? (getHam e h).retiredTtags m.ttag.toNat).isSome = true →
        exec (.rdData r m) s = .next (setCtl s (modHam e h fun x => { x with staleRsp := addCount x.staleRsp 1 }))) ∧
      (Arrives s r.val 0x11 m p e → requestFor e m = none → Tbl.find? (getHam e h).retiredTtags m.ttag.toNat = none →
        exec (.rdData r m) s = .next (setCtl s (e))))

/-- EPOCH_INSTALL, EPOCH_RETIRE and EPOCH_ACK that pass the checks (R227, R228, R315, R351): the generation is installed beside the
ones held, or only asked for, and acknowledged; a retired generation leaves, a marked removal ends what the tenant has from the
package; an awaited acknowledgement advances the tenant's barrier. -/
def Obligations.Road_epochs : Prop :=
  ∀ (s : State) (r : Fin 64) (m : RoadMsg) (p : Bytes) (e : Ctl) (i g : Nat) (x : Tenant) (d : Ctl),
    epochTenant e m = some (i, x) → g = m.operand.toNat % 2 ^ 32 →
    (Arrives s r.val 0x31 m p e → d = { e with removed := e.removed.filter (· != (x.ident, endPkg m.src.toNat)) } →
      (g ≠ 0 → x.state = .claimed → (∀ k ∈ x.roadCur.toList ++ x.roadPrev.toList, k.gen ≠ g) →
        exec (.epochInstall r m) s = .next (setCtl s
          (sendEpochAck (modTenant d i fun x => { x with roadPrev := some ⟨g, roadKeyOf x g⟩ }) m))) ∧
      ((g = 0 ∨ x.state ≠ .claimed ∨ ∃ k ∈ x.roadCur.toList ++ x.roadPrev.toList, k.gen = g) →
        exec (.epochInstall r m) s = .next (setCtl s (sendEpochAck d m)))) ∧
    (Arrives s r.val 0x32 m p e → m.operand.getLsbD 48 = false →
      exec (.epochRetire r m) s = .next (setCtl s (sendEpochAck (retireKey e i g x) m))) ∧
    (Arrives s r.val 0x32 m p e → m.operand.getLsbD 48 = true →
      exec (.epochRetire r m) s = .next (setCtl s (sendEpochAck (removalMark e i (endPkg m.src.toNat) x) m))) ∧
    (∀ b bad, Arrives s r.val 0x33 m p e → x.barrier = some b → b.awaited.contains (endPkg m.src.toNat) = true →
      m.len = barrierMark b → bad = ((b.kind == 2 || b.kind == 4) && m.addr != 0 && m.addr != saltDigest x) →
      exec (.epochAck r m) s = .next (setCtl s (barrierStep e x (ackBarrier (modTenant e i fun x => { x with
        saltMismatch := x.saltMismatch || bad, barrier := some { b with largest := max b.largest g } }) i
        (endPkg m.src.toNat)))))

/-- ORPHAN_NOTICE, JOB_DEAD, ROUTE_NOTICE, MARK_SEEN, REPLAY_QUERY, REPLAY_REPLY and LIVE that pass the checks take their effect
(R179, R230, R231, R232, R235, R237, R413). TIME_PROBE and TIME_REPLY that pass the checks (R239, R470): the leader answers on
the same road with the reception time, a follower takes its leader's answer to the open probe as a measurement, unless a step
lies between. -/
def Obligations.Road_control_and_time : Prop :=
   (∀ (s : State) (r : Fin 64) (m : RoadMsg) (p : Bytes) (e : Ctl) (q v : Nat), q = endPkg m.src.toNat → v = m.operand.toNat → 
      (Arrives s r.val 0x34 m p e →
        exec (.orphanNotice r m) s = .next (setCtl s (orphanWhere e fun o => o.pkg == q && o.slice == v % 256 &&
          o.gen.toNat == bits v 15 8 && (bitOf v 33 || o.context == bits v 32 16)))) ∧
      (Arrives s r.val 0x35 m p e →
        exec (.jobDead r m) s = .next (setCtl s (settled (mirrorStep e (.job (v % 65536)) 0 (jobDies e (v % 65536) (bits v 23 16)))))) ∧
      (Arrives s r.val 0x36 m p e →
        exec (.routeNotice r m) s = .next (setCtl s (modPeer e q fun p => { p with
          reportsMesh := BitVec.ofNat 32 v, reportsReserve := m.operand.getLsbD 32 }))) ∧
      (Arrives s r.val 0x37 m p e →
        exec (.markSeen r m) s = .next (setCtl s (releaseHeld (modPeer e q fun p => { p with
          marks := p.marks.erase (bits v 15 0, bits v 31 16, bits v 33 32) }) q))) ∧
      (∀ h, Arrives s r.val 0x38 m p e → h = lastDelivered (getRoad e (farRoadOf (v % 64))) →
        exec (.replayQuery r m) s = .next (setCtl s (sendCtrl
          (modRoad e (farRoadOf (v % 64)) fun x => { x with hseqLast := h }) 0x39 q 0
          (BitVec.ofNat 64 ((h.map BitVec.toNat).getD 0 + 2 ^ 32 * b2n h.isSome + 2 ^ 40 * (v % 64))) 0))) ∧
      (∀ f, Arrives s r.val 0x39 m p e → f = bits v 45 40 → (getRoad e f).replayPending = true →
        roadPeer (pkgNum e) f = q →
        exec (.replayReply r m) s = .next (setCtl s
          (replayRoad e f (if bitOf v 32 then some (BitVec.ofNat 32 v) else none)))) ∧
      (Arrives s r.val 0x3C m p e →
        exec (.live r m) s = .next (setCtl s (modPeer e q fun p => { p with lastLive := now e })))) ∧
   (∀ (s : State) (r : Fin 64) (m : RoadMsg) (p : Bytes) (e : Ctl) (q : Nat), q = endPkg m.src.toNat →
      (Arrives s r.val 0x3A m p e → e.time.role = .leader →
        exec (.timeProbe r m) s = .next (setCtl s (sendOn e r.val false 3 0x3B (timeMsg e q m.addr (devNow e))))) ∧
      (Arrives s r.val 0x3A m p e → e.time.role ≠ .leader → exec (.timeProbe r m) s = .next (setCtl s (e))) ∧
      (Arrives s r.val 0x3B m p e → follows e.time = true → q = timeLeader e →
        e.time.probe = some (m.addr, e.time.steps) →
        exec (.timeReply r m) s = .next (setCtl s
          (measure (modTime e fun t => { t with probe := none, lastReply := some t.interval }) .leader q
            (((m.operand - m.addr).toInt - (devNow e - (m.operand + BitVec.ofNat 64 m.len.toNat)).toInt) * 500)))) ∧
      (∀ t1 n, Arrives s r.val 0x3B m p e → e.time.probe = some (t1, n) →
        (follows e.time = false ∨ q ≠ timeLeader e ∨ m.addr ≠ t1 ∨ n ≠ e.time.steps) →
        exec (.timeReply r m) s = .next (setCtl s (e))))

/-- SHADOW_LO_READ and SHADOW_HI_READ in a space that answers (R442 to R444, R498): a 32-bit read of _LO returns bits [31:0] and
latches bits [63:32] in the reader's shadow; a 32-bit read of _HI returns the shadow that holds the pair, or else the live bits
with SHADOW_MISS; a 64-bit read takes both halves and no shadow; an access of another width or alignment returns 0, in BAR2 with
BAD_ACCESS. -/
def Obligations.Register_reads : Prop :=
  ∀ (s : State) (src : RegSource) (a : RegAddr) (off : Nat), off = addrOff a → barUp s.toCtl a = true → 
    (∀ v, off % 8 = 0 → livePair s.toCtl src a off = some v →
      exec (.shadowLoRead src a 4) s = .next (setCtl s (setShadow (emit s.toCtl
        (.readValue src (v &&& 0xFFFFFFFF))) src a (off, v.extractLsb' 32 32)))) ∧
    (∀ v hi, off % 8 = 4 → livePair s.toCtl src a (off - 4) = some v → getShadow s.toCtl src a = some (off - 4, hi) →
      exec (.shadowHiRead src a 4) s = .next (setCtl s (emit s.toCtl (.readValue src (hi.setWidth 64))))) ∧
    (∀ v, off % 8 = 4 → livePair s.toCtl src a (off - 4) = some v →
      (∀ x, getShadow s.toCtl src a = some x → x.1 ≠ off - 4) →
      exec (.shadowHiRead src a 4) s =
        .next (setCtl s (setRegErr (emit s.toCtl (.readValue src (v >>> 32))) 0))) ∧
    (off % 8 = 0 →
      exec (.shadowLoRead src a 8) s = .next (setCtl s (emit s.toCtl
        (.readValue src (liveWord s.toCtl src a (off + 4) ++ liveWord s.toCtl src a off))))) ∧
    (∀ w, goodAccess off w = false →
      exec (.shadowLoRead src a w) s = .next (setCtl s (emit (badAccess s.toCtl a) (.readValue src 0))) ∧
      exec (.shadowHiRead src a w) s = .next (setCtl s (emit (badAccess s.toCtl a) (.readValue src 0))))

/-- REGISTER_WRITE on an operating package (R14, R62, R63, R76, R438, R440, R496, R498, R501): a counter takes what the write loads and
the hardware update that meets it; HRT_PF_IRQ_EN takes bits [2:0]; a bit of HRT_REG_ERR or LN_ERR written 1 is cleared unless
hardware sets it in that write; LN_IRQ_CTL takes ENABLE and the two thresholds, which are evaluated at once; an access of another
width or alignment to BAR2 only sets BAD_ACCESS; a write to HRT_ID, or by the Reeve to a PF mailbox block, has no effect; a masked MSI-X entry takes its data word. -/
def Obligations.Register_writes : Prop :=
  ∀ (s : State) (src : RegSource) (p : Port) (i : Fin 256) (l : Fin 64) (off : BitVec 20) (width : Nat) (v : W64) (hw : HwUpdate)
    (n : Nat) (w : W32), n = off.toNat → w = v.extractLsb' 0 32 → s.toCtl.pkg.life = .operating →
    (∀ c, goodAccess n width = true → counterAt s.toCtl (n - n % 8) = some c →
      exec (.registerWrite src (.bar2 off) width v hw) s = .next (setCtl s (setCounter s.toCtl (n - n % 8)
        (BitVec.ofNat 64 (collide .counter 64 c.toNat (counterLoad (n % 8 != 0) width v) hw))))) ∧
    (n = 0x034 → exec (.registerWrite src (.bar2 off) 4 v hw) s =
      .next (setCtl s (modReeve s.toCtl fun r => { r with pfIrqEn := v.extractLsb' 0 3 }))) ∧
    (n = 0x038 → exec (.registerWrite src (.bar2 off) 4 v hw) s = .next (setCtl s (modReeve s.toCtl fun r => { r with
      regErr := BitVec.ofNat 2 (collide .w1c 2 r.regErr.toNat (some w.toNat) hw) }))) ∧
    (goodAccess n width = false →
      exec (.registerWrite src (.bar2 off) width v hw) s = .next (setCtl s (setRegErr s.toCtl 1))) ∧
    (n = 0x000 → exec (.registerWrite src (.bar2 off) 4 v hw) s = .next s) ∧
    (goodAccess n width = true → width = 4 → 0x1000 ≤ n → n < 0x1800 →
      exec (.registerWrite .reeve (.bar2 off) width v hw) s = .next s) ∧
    (windowLive s.toCtl i.val l.val = true → windowOn s.toCtl (.port p) i.val = true →
      (getLane s.toCtl i.val l.val).state ≠ .disabled →
      exec (.registerWrite (.port p) (.bar0 i l 0x018) 4 v hw) s = .next (setCtl s (modLane s.toCtl i.val l.val fun x => { x with
        err := BitVec.ofNat 5 (collide .w1c 5 x.err.toNat (some w.toNat) hw) })) ∧
      exec (.registerWrite (.port p) (.bar0 i l 0x020) 4 v hw) s = .next (setCtl s (checkIrq
        (modLane s.toCtl i.val l.val fun x => { x with irqCtl := w &&& 0xFFFFFF01#32 }) i.val l.val))) ∧
    (∀ o : BitVec 16, o.toNat % 16 = 8 → o.toNat < 0x8000 →
      (Tbl.getD (getPort s.toCtl p).msix (o.toNat / 16) {}).masked = true →
      exec (.registerWrite (.port p) (.bar4 o) 4 v hw) s = .next (setCtl s (modPort s.toCtl p fun x => { x with
        msix := Tbl.modify x.msix (o.toNat / 16) {} fun e => { e with data := w } })))

/-- MBX_ACK, WIDE_REQ and WIDE_ACK while BAR2 answers (R422 to R424, R446): ACK returns a RESPONDED mailbox to IDLE and is otherwise
ignored; a request of a port or of the Reeve while its block holds no snapshot is served at once, with BAD_SEL for a selector or index out of range; a request
while VALID is 1 waits; ACK releases the snapshot and serves a request that waits. LDG_COMMIT.COMMIT, LDG_COMMIT.CAPTURE, a
range register write and the start and end of a pass (R448 to R451, R505): the ledger is CLEAN when the committed sequence is
the configuration's and COMMIT_STALE else; a capture takes the next complete pass's CRC; a range register keeps its value
outside the mirror; a pass that saw LDG_CFG_SEQ change is discarded; a differing CRC while CLEAN is a MISMATCH, and no
comparison is made in another state. -/
def Obligations.Mailboxes_and_ledger : Prop :=
   (∀ (s : State) (p : Port) (src : RegSource) (k : Byte) (i : W16), bar2Up s.toCtl = true →
      ((getPort s.toCtl p).mbx.state = .responded →
        exec (.mbxAck p) s =
          .next (setCtl s (modPort s.toCtl p fun x => { x with mbx := { x.mbx with state := .idle } }))) ∧
      ((getPort s.toCtl p).mbx.state ≠ .responded → exec (.mbxAck p) s = .next s) ∧
      ((getWide s.toCtl src).valid = true →
        exec (.wideReq src k i) s = .next (setCtl s (modWide s.toCtl src fun w => { w with req := true, selector := k, index := i }))) ∧
      (∀ d ws, (getWide s.toCtl src).valid = false →
        d = modWide s.toCtl src (fun w => { w with req := true, selector := k, index := i }) → snapshot d k i.toNat = some ws →
        exec (.wideReq src k i) s = .next (setCtl s (modWide d src fun w => { w with req := false, valid := true, words := ws }))) ∧
      (∀ d, (getWide s.toCtl src).valid = false →
        d = modWide s.toCtl src (fun w => { w with req := true, selector := k, index := i }) → snapshot d k i.toNat = none →
        exec (.wideReq src k i) s = .next (setCtl s (modWide d src fun w => { w with req := false, badSel := true }))) ∧
      ((getWide s.toCtl src).req = false →
        exec (.wideAck src) s = .next (setCtl s (modWide s.toCtl src fun w => { w with valid := false, words := [] }))) ∧
      (∀ d ws, (getWide s.toCtl src).req = true →
        d = modWide s.toCtl src (fun w => { w with valid := false, words := [] }) →
        snapshot d (getWide s.toCtl src).selector (getWide s.toCtl src).index.toNat = some ws →
        exec (.wideAck src) s = .next (setCtl s (modWide d src fun w => { w with req := false, valid := true, words := ws })))) ∧
   (∀ (s : State) (l : Ledger), l = s.toCtl.ledger → bar2Up s.toCtl = true →
      (l.commitSeq.toNat = l.cfgSeq → exec .ldgCommitCommit s = .next (setCtl s { s.toCtl with
        ledger := { l with reference := l.ref, state := 1 } })) ∧
      (l.commitSeq.toNat ≠ l.cfgSeq → exec .ldgCommitCommit s = .next (setCtl s { s.toCtl with
        ledger := { l with stale := true } })) ∧
      (exec .ldgCommitCapture s = .next (setCtl s { s.toCtl with ledger := { l with capturing := true } })) ∧
      (∀ (n : Fin 16) (limit : Bool) (v : W32), (v &&& 0xFFFFC#32).toNat < 0x40000 ∨ 0x7FFFF < (v &&& 0xFFFFC#32).toNat →
        exec (.ldgRangeWrite n limit v) s = .next (setCtl s (setRegErr s.toCtl 1))) ∧
      (∀ (n : Fin 16) (v : W32), 0x40000 ≤ (v &&& 0xFFFFC#32).toNat → (v &&& 0xFFFFC#32).toNat ≤ 0x7FFFF →
        ldgBase l n.val ≠ v &&& 0xFFFFC#32 →
        exec (.ldgRangeWrite n false v) s = .next (setCtl s (setCfgSeq { s.toCtl with
          ledger := { l with base := Tbl.set l.base n.val (v &&& 0xFFFFC#32) } } (lastSeq s.toCtl)))) ∧
      (exec .ledgerPassStart s = .next (setCtl s { s.toCtl with ledger := { l with
        pass := some (l.cfgSeq, ledgerCrc s.toCtl) } })) ∧
      (∀ n c, l.pass = some (n, c) → n ≠ l.cfgSeq →
        exec .ledgerPassEnd s = .next (setCtl s { s.toCtl with ledger := { l with pass := none } })) ∧
      (∀ c, l.pass = some (l.cfgSeq, c) → l.capturing = true →
        exec .ledgerPassEnd s = .next (setCtl s { s.toCtl with ledger := { l with
          pass := none, current := c, lastEnd := devNow s.toCtl, ref := c, reference := c, capturing := false,
          state := 1 } })) ∧
      (∀ c, l.pass = some (l.cfgSeq, c) → l.capturing = false → (l.state ≠ 1 ∨ c = l.reference) →
        exec .ledgerPassEnd s = .next (setCtl s { s.toCtl with ledger := { l with
          pass := none, current := c, lastEnd := devNow s.toCtl } })) ∧
      (∀ c, l.pass = some (l.cfgSeq, c) → l.capturing = false → l.state = 1 → c ≠ l.reference →
        exec .ledgerPassEnd s = .next (setCtl s (ledgerMismatch { s.toCtl with ledger := { l with
          pass := none, current := c, lastEnd := devNow s.toCtl } }))))

/-- LN_SQ_TAIL_WRITE and LN_CQ_HEAD_WRITE at a live window (R58, R60, R66, R70, R73, R74): a tail within the ring is taken, the new
entries take their sequences and the next descriptor is asked for; one outside the ring, or at a lane in ERROR, sets DB_ERR and is
ignored; a head that consumes no more than the unconsumed entries is taken, any other sets HEAD_ERR. -/
def Obligations.Lane_ring_pointers : Prop :=
  ∀ (s : State) (p : Port) (i : Fin 256) (l : Fin 64) (v : W32) (n : Nat) (ln : Lane), lanesUp s.toCtl = true →
    windowLive s.toCtl i.val l.val = true → windowOn s.toCtl (.port p) i.val = true → ln = getLane s.toCtl i.val l.val →
    ((getSlice s.toCtl i.val).state = .active → ln.state = .enabled → v.toNat < sqSize ln → v.toNat ≠ ln.sqTail →
      exec (.lnSqTailWrite p i l v) s = .next (setCtl s (fetchNext
        (modLane s.toCtl i.val l.val fun ln => reserveSeqs { ln with sqTail := v.toNat }) i.val l.val))) ∧
    ((ln.state = .error ∨ ((getSlice s.toCtl i.val).state = .active ∧ ln.state = .enabled ∧ sqSize ln ≤ v.toNat)) →
      exec (.lnSqTailWrite p i l v) s = .next (setCtl s (setLnErr s.toCtl i.val l.val 0))) ∧
    (ln.state = .fenced → exec (.lnSqTailWrite p i l v) s = .next s) ∧
    (ln.state ≠ .disabled → v.toNat % 65536 < cqSize ln →
      n = (v.toNat % 65536 + cqSize ln - ln.cqHead) % cqSize ln → n ≤ ln.unconsumed →
      exec (.lnCqHeadWrite p i l v) s = .next (setCtl s (fetchNext (modLane s.toCtl i.val l.val fun ln => { ln with
        cqHead := v.toNat % 65536, unconsumed := ln.unconsumed - n, delivered := ln.delivered.drop n }) i.val l.val))) ∧
    (ln.state ≠ .disabled →
      n = (v.toNat % 65536 + cqSize ln - ln.cqHead) % cqSize ln → (cqSize ln ≤ v.toNat % 65536 ∨ ln.unconsumed < n) →
      exec (.lnCqHeadWrite p i l v) s = .next (setCtl s (setLnErr s.toCtl i.val l.val 1)))

/-- GQI_ADM_IDENTIFY, GQI_ADM_SET_FEATURES, GQI_ADM_QUERY_STATS and GQI_ADM_GLEANINGS_READ, once they run (R82, R115, R270, R332,
R391): the identify block, the feature set once and before a compute lane, the accounting block, the list of the tenant's own
records or the record of an index. GQI_ADM_CREATE_LANE, GQI_ADM_DELETE_LANE, GQI_ADM_RESET_LANE and GQI_ADM_SET_LANE_POLICY,
once they run (R57, R59, R112, R113, R318): a DISABLED lane below the limit becomes ENABLED as described, a lane is deleted with
its submissions, an ENABLED lane is reset or takes its policy; on a lane in another state the command fails with LANE_STATE. -/
def Obligations.Admin_reports_and_lanes : Prop :=
   (∀ (s : State) (c : Nat) (k : Cmd) (b : Ctl) (l : Nat) (mask : BitVec 64) (mine : List GleaningsRecord),
      l = fld k.raw 24 1 → mask = BitVec.ofNat 64 (fld k.raw 16 8) → mine = gleaningsOf b k →
      (AdminRuns s c 0x80 (fun _ _ => none) k b →
        (96 ≤ k.resultCap →
          exec (.gqiAdmIdentify c) s = .next (adminDone s k (adminOk b c (some (identifyBlock b k.slice)) 0))) ∧
        (k.resultCap < 96 → exec (.gqiAdmIdentify c) s = .next (adminDone s k (adminFail b c St.resultTooSmall)))) ∧
      (AdminStarts s c 0x80 k b → check6 b k = none →
        exec (.gqiAdmIdentify c) s = .next (adminDone s k (adminFail b c St.rateLimit))) ∧
      (AdminRuns s c 0x81 featureCheck k b →
        exec (.gqiAdmSetFeatures c) s = .next (adminDone s k (adminOk
          (modSlice b k.slice fun s => { s with features := mask ||| mandatory, featuresSet := true }) c none 0))) ∧
      (AdminStarts s c 0x81 k b →
        (featuresPermitted b (getSlice b k.slice).tenant mask = false →
          exec (.gqiAdmSetFeatures c) s = .next (adminDone s k (adminFail b c St.notPermitted))) ∧
        (featuresPermitted b (getSlice b k.slice).tenant mask = true →
          ((getSlice b k.slice).featuresSet = true ∨ hasComputeLane (getSlice b k.slice) = true) →
          exec (.gqiAdmSetFeatures c) s = .next (adminDone s k (adminFail b c St.featureState)))) ∧
      (AdminRuns s c 0x88 statsCheck k b → 288 ≤ k.resultCap →
        (l = 0xFF → exec (.gqiAdmQueryStats c) s = .next (adminDone s k
          (adminOk b c (some (statsBlock b k.slice none (getSlice b k.slice).stats)) 0))) ∧
        (l ≠ 0xFF → exec (.gqiAdmQueryStats c) s = .next (adminDone s k
          (adminOk b c (some (statsBlock b k.slice (some l) (getLane b k.slice l).stats)) 0)))) ∧
      (∀ r, AdminRuns s c 0x89 recordCheck k b → fld k.raw 16 4 ≠ 0xFFFFFFFF →
        mine.find? (fun r => r.index == fld k.raw 16 4) = some r → (recordBytes r).length + 32 ≤ k.resultCap →
        exec (.gqiAdmGleaningsRead c) s = .next (adminDone s k (adminOk b c (some (recordBytes r)) 0))) ∧
      (AdminRuns s c 0x89 recordCheck k b → fld k.raw 16 4 = 0xFFFFFFFF → 72 ≤ k.resultCap →
        exec (.gqiAdmGleaningsRead c) s = .next (adminDone s k (adminOk b c (some (recordList
          (sortBy (fun a b => decide (a.index < b.index)) (mine.filter fun r => decide (fld k.raw 20 4 ≤ r.index)))
          k.resultCap)) 0)))) ∧
   (∀ (s : State) (c : Nat) (k : Cmd) (b : Ctl) (l : Nat) (x : LaneState), l = fld k.raw 24 1 → x = (getLane b k.slice l).state →
      (AdminRuns s c 0x82 createCheck k b →
        exec (.gqiAdmCreateLane c) s = .next (adminDone s k
          (adminOk (addLane b k.slice l (newLane b k)) c none (BitVec.ofNat 32 l)))) ∧
      (AdminStarts s c 0x82 k b → l < (getSlice b k.slice).laneLimit → (l = 0 ∨ x ≠ .disabled) →
        exec (.gqiAdmCreateLane c) s = .next (adminDone s k (adminFail b c St.laneState))) ∧
      (AdminStarts s c 0x82 k b → ((getSlice b k.slice).laneLimit ≤ l ∨
          (0 < l ∧ x = .disabled ∧ 4096 ≤ Tbl.getD (getSlice b k.slice).laneCreations l 0)) →
        exec (.gqiAdmCreateLane c) s = .next (adminDone s k (adminFail b c St.resource))) ∧
      (AdminRuns s c 0x83 (laneCheck fun x => x != .disabled) k b →
        exec (.gqiAdmDeleteLane c) s = .next (adminDone s k (adminOk (removeLane b k.slice l) c none 0))) ∧
      (AdminStarts s c 0x83 k b → (l = 0 ∨ (getSlice b k.slice).laneLimit ≤ l ∨ x = .disabled) →
        exec (.gqiAdmDeleteLane c) s = .next (adminDone s k (adminFail b c St.laneState))) ∧
      (AdminRuns s c 0x84 (laneCheck fun x => x == .enabled) k b →
        exec (.gqiAdmResetLane c) s = .next (adminDone s k (laneReopen (startLaneReset b k.slice l c) k.slice l))) ∧
      (AdminStarts s c 0x84 k b → (l = 0 ∨ (getSlice b k.slice).laneLimit ≤ l ∨ x ≠ .enabled) →
        exec (.gqiAdmResetLane c) s = .next (adminDone s k (adminFail b c St.laneState))) ∧
      (AdminRuns s c 0x85 policyCheck k b →
        exec (.gqiAdmSetLanePolicy c) s = .next (adminDone s k (adminOk (modLane b k.slice l fun ln => { ln with
          apprentice := BitVec.ofNat 32 (fld k.raw 16 4), divert := bitOf (fld k.raw 25 1) 0
          shedExpired := bitOf (fld k.raw 25 1) 1 }) c none 0))))

/-- GQI_ADM_MODEL_LOAD and GQI_ADM_MODEL_UNLOAD, once they run (R88, R112, R323 to R328): the checks of a load in their order, the
last of which queues a sheaf for each page of the image; a resident model that no accepted command uses is unloaded. -/
def Obligations.Admin_models : Prop :=
  ∀ (s : State) (c : Nat) (k : Cmd) (b d : Ctl) (t : Nat) (x : Tenant) (img v : Bytes) (n : Nat),
    t = (getSlice b k.slice).tenant → n = fld k.raw 24 4 → v = padTo (4096 * n) img →
    (AdminStarts s c 0x86 k b → Tbl.find? b.tenants t = some x → (x.state ≠ .claimed ∨ tenantFrozen b t = true) →
      exec (.gqiAdmModelLoad c (.ok img)) s = .next (adminDone s k (adminFail b c St.notPermitted))) ∧
    (AdminRuns s c 0x86 loadCheck k b →
      exec (.gqiAdmModelLoad c .failed) s = .next (adminDone s k (adminFail (dmaFault b k.slice) c St.dmaInput))) ∧
    (AdminRuns s c 0x86 loadCheck k b → Tbl.find? b.tenants t = some x →
      d = holdPages b (getSlice b k.slice).cur k.slice (pagesAt (BitVec.ofNat 64 (fld k.raw 16 8)) (4096 * n)) →
      ((n = 0 ∨ headerOk v x.ident.toNat n = false) →
        exec (.gqiAdmModelLoad c (.ok img)) s = .next (adminDone s k (adminFail d c St.badLength))) ∧
      (n ≠ 0 → headerOk v x.ident.toNat n = true →
        gcmOpen (wrapKey x) (sub v 24 12) (v.take 40) (sub v 40 32) (sub v 72 16) = none →
        exec (.gqiAdmModelLoad c (.ok img)) s = .next (adminDone s k (adminFail d c St.tagMismatch))) ∧
      (∀ key m pages, n ≠ 0 → headerOk v x.ident.toNat n = true →
        gcmOpen (wrapKey x) (sub v 24 12) (v.take 40) (sub v 40 32) (sub v 72 16) = some key →
        readBody t (fld v 10 1) (fld v 11 1) (fld k.raw 28 4) (sub v 112 16)
          (gcmCrypt key (zeros 12) (sub v 128 (fld v 16 8))) = some (m, pages) →
        (resourcesOk d t m = false →
          exec (.gqiAdmModelLoad c (.ok img)) s = .next (adminDone s k (adminFail d c St.resource))) ∧
        (resourcesOk d t m = true →
          exec (.gqiAdmModelLoad c (.ok img)) s = .next (adminDone s k (serveSheaves (queueTransfer { d with
            loads := Tbl.set d.loads c {
              cmd := c, model := m, pages := pages, sheaves := ceilDiv (128 + fld v 16 8) 4096, key := key
              tagOk := gcmTag key (zeros 12) (v.take 112) (sub v 128 (fld v 16 8)) == sub v 112 16 } }
            k.slice (128 + fld v 16 8) false fun _ => .load c)))))) ∧
    (AdminRuns s c 0x87 (unloadCheck c) k b →
      exec (.gqiAdmModelUnload c) s = .next (adminDone s k (adminOk (dropModel b k.model.toNat) c none 0))) ∧
    (AdminStarts s c 0x87 k b →
      (∀ m, resident b k.slice k.model = some m → handleUsed b k.model c = true →
        exec (.gqiAdmModelUnload c) s = .next (adminDone s k (adminFail b c St.inUse))) ∧
      (resident b k.slice k.model = none →
        exec (.gqiAdmModelUnload c) s = .next (adminDone s k (adminFail b c St.notResident))))

/-- POSTCARD_SLOT_WRITE at a live window of an ACTIVE slice (R58, R61, R67, R69, R276): the bytes are stored; a chain that becomes
complete is accepted, or dropped with PC_SLOT_BUSY beyond the FAST limit and CQ_OVF without a completion entry; a write to a
slot that is taken, to a lane in ERROR, or to lane 0, is dropped and counted. -/
def Obligations.Postcard_writes : Prop :=
  ∀ (s : State) (p : Port) (i : Fin 256) (l : Fin 64) (k : Fin 3) (off : Fin 256) (bs : Bytes) (d : Ctl) (ln : Lane),
    ln = getLane s.toCtl i.val l.val → s.toCtl.pkg.life = .operating → windowLive s.toCtl i.val l.val = true →
    windowOn s.toCtl (.port p) i.val = true → (getSlice s.toCtl i.val).state = .active →
    d = modSlot s.toCtl i.val l.val k.val (fun x => { x with
      bytes := (bs.zipIdx off.val).foldl (fun t e => Tbl.set t e.2 e.1) x.bytes }) →
    (l.val = 0 → exec (.postcardSlotWrite p i l k off bs) s = .next (setCtl s (dropCount s.toCtl i.val 0))) ∧
    (l.val ≠ 0 → (ln.state = .error ∨ (ln.state = .enabled ∧ (Tbl.getD ln.slots k.val {}).taken = true)) →
      exec (.postcardSlotWrite p i l k off bs) s =
        .next (setCtl s (setLnErr (dropCount s.toCtl i.val l.val) i.val l.val 2))) ∧
    (l.val ≠ 0 → ln.state = .enabled → (Tbl.getD ln.slots k.val {}).taken = false →
      chainComplete (Tbl.getD (getLane d i.val l.val).slots k.val {}) = false →
      exec (.postcardSlotWrite p i l k off bs) s = .next (setCtl s d)) ∧
    (l.val ≠ 0 → ln.state = .enabled → (Tbl.getD ln.slots k.val {}).taken = false →
      chainComplete (Tbl.getD (getLane d i.val l.val).slots k.val {}) = true →
      (getSlice d i.val).fastLimit ≤ fastCount d i.val → freeEntries d i.val l.val ≠ 0 →
      exec (.postcardSlotWrite p i l k off bs) s =
        .next (setCtl s (setLnErr (dropCount (modSlot d i.val l.val k.val fun _ => {}) i.val l.val) i.val l.val 2))) ∧
    (l.val ≠ 0 → ln.state = .enabled → (Tbl.getD ln.slots k.val {}).taken = false →
      chainComplete (Tbl.getD (getLane d i.val l.val).slots k.val {}) = true →
      fastCount d i.val < (getSlice d i.val).fastLimit → freeEntries d i.val l.val = 0 →
      exec (.postcardSlotWrite p i l k off bs) s =
        .next (setCtl s (setLnErr (dropCount (modSlot d i.val l.val k.val fun _ => {}) i.val l.val) i.val l.val 3))) ∧
    (∀ a e v, l.val ≠ 0 → ln.state = .enabled → (Tbl.getD ln.slots k.val {}).taken = false →
      chainComplete (Tbl.getD (getLane d i.val l.val).slots k.val {}) = true →
      fastCount d i.val < (getSlice d i.val).fastLimit → freeEntries d i.val l.val ≠ 0 →
      a = acceptChain d p i.val l.val k.val →
      v = (if chainBits a.2.2.1 < 1 ∨ 4 < chainBits a.2.2.1 then Except.error St.chainLength
        else tagCheck (getSlice d i.val) (getLane d i.val l.val) a.2.1) →
      e = (fun x => markPath x p i.val l.val a.1 (decide (16 ≤ fastTotal d)) (strictInEffect d (getSlice d i.val).tenant &&
        decide (postRate d (getSlice d i.val).tenant ≤ tenantFast d (getSlice d i.val).tenant))) →
      (∀ st, v = .error st →
        exec (.postcardSlotWrite p i l k off bs) s =
          .next (setCtl s (e (modCmd a.2.2.2 a.1 fun c => { c with early := some st })))) ∧
      (∀ r, v = .ok r →
        exec (.postcardSlotWrite p i l k off bs) s = .next (setCtl s (e (modCmd a.2.2.2 a.1 fun c => { c with
          epoch := some r.1, input := r.2, early := formCheck (getSlice d i.val) (getLane d i.val l.val) a.2.1 })))))

/-- DESCRIPTOR_FETCH_DONE of a lane with an entry to fetch (R66, R86, R107, R108): a failed read sets FETCH_FAULT and ERROR; a
descriptor is accepted and checked in the order of R107: its tag, its form, the lane, residence and rate; one that passes enters
the journal on lane 0, has its input read, or is decided at once without input. INPUT_READ_DONE and PREDISPATCH_DECISION (R107,
R137): the input of a descriptor that fails to read or to verify completes the command, one that verifies brings its decision; a
postcard is decided by its early failure, by checks 4 to 6, or by the watchman, and without dispatch bears t_accept + 105 ns. -/
def Obligations.Checks_and_decisions : Prop :=
   (∀ (s : State) (i : Fin 256) (l : Fin 64) (bs : Bytes) (h e : Ctl) (a : Nat × Cmd × Ctl) (sl : Slice) (ln : Lane),
      lanesUp s.toCtl = true → fetchable s.toCtl i.val l.val = true → sl = getSlice h i.val → ln = getLane h i.val l.val →
      h = holdPages s.toCtl (getSlice s.toCtl i.val).cur i.val (pagesAt (fetchPlace s.toCtl i.val l.val) 64) →
      a = acceptDescriptor h i.val l.val (padTo 64 bs) → e = fillDescriptor (refillLane a.2.2 i.val l.val) i.val a.1 →
      (exec (.descriptorFetchDone i l .failed) s = .next (setCtl s
        (laneError (setLnErr (dmaFault s.toCtl i.val) i.val l.val 4) i.val l.val))) ∧
      (∀ st, tagCheck sl ln a.2.1 = .error st →
        ((a.2.1.inputLen = 0 ∨ 0x40000000 < a.2.1.inputLen) →
          exec (.descriptorFetchDone i l (.ok bs)) s =
            .next (setCtl s (fetchNext (resolve e a.1 st) i.val l.val))) ∧
        (a.2.1.inputLen ≠ 0 → a.2.1.inputLen ≤ 0x40000000 →
          exec (.descriptorFetchDone i l (.ok bs)) s =
            .next (setCtl s (fetchNext (readInput (modCmd e a.1 fun c => { c with early := some st }) a.1 a.2.1) i.val l.val)))) ∧
      (∀ r d st, tagCheck sl ln a.2.1 = .ok r → d = modCmd e a.1 (fun c => { c with epoch := some r.1 }) →
        formCheck sl ln a.2.1 = some st →
        exec (.descriptorFetchDone i l (.ok bs)) s = .next (setCtl s (fetchNext (resolve d a.1 st) i.val l.val))) ∧
      (∀ r d st d', tagCheck sl ln a.2.1 = .ok r → d = modCmd e a.1 (fun c => { c with epoch := some r.1 }) →
        formCheck sl ln a.2.1 = none → checks456 d a.2.1 = .error (st, d') →
        exec (.descriptorFetchDone i l (.ok bs)) s = .next (setCtl s (fetchNext (resolve d' a.1 st) i.val l.val))) ∧
      (∀ r d d', tagCheck sl ln a.2.1 = .ok r → d = modCmd e a.1 (fun c => { c with epoch := some r.1 }) →
        formCheck sl ln a.2.1 = none → checks456 d a.2.1 = .ok d' →
        (l.val = 0 →
          exec (.descriptorFetchDone i l (.ok bs)) s =
            .next (setCtl s (fetchNext (askImage (enterAdmin d' a.1 a.2.1) i.val a.2.1) i.val l.val))) ∧
        (l.val ≠ 0 → a.2.1.inputLen ≠ 0 →
          exec (.descriptorFetchDone i l (.ok bs)) s =
            .next (setCtl s (fetchNext (readInput d' a.1 a.2.1) i.val l.val))) ∧
        (l.val ≠ 0 → a.2.1.inputLen = 0 →
          exec (.descriptorFetchDone i l (.ok bs)) s = .next (setCtl s (fetchNext
            (decide89 d' a.1 (Tbl.getD d'.cmds a.1 a.2.1) (devNow d')) i.val l.val))))) ∧
   (∀ (s : State) (c : Nat) (k : Cmd) (e : Ctl), Tbl.find? s.toCtl.cmds c = some k → k.status = none → e = endInput s.toCtl c →
      (∀ st bs, k.phase = .input → k.early = some st →
        exec (.inputReadDone c .failed) s = .next (setCtl s (resolve e c st)) ∧
        exec (.inputReadDone c (.ok bs)) s = .next (setCtl s (resolve (inputRead e k) c st))) ∧
      (k.phase = .input → k.early = none →
        exec (.inputReadDone c .failed) s = .next (setCtl s (resolve (dmaFault e k.slice) c St.dmaInput))) ∧
      (∀ bs d, k.phase = .input → k.early = none → d = inputRead e k →
        ((k.epoch.bind fun e => openInput k e (padTo (k.inputLen + 16) bs)) = none →
          exec (.inputReadDone c (.ok bs)) s = .next (setCtl s (resolve d c St.tagMismatch))) ∧
        (∀ p, (k.epoch.bind fun e => openInput k e (padTo (k.inputLen + 16) bs)) = some p →
          exec (.inputReadDone c (.ok bs)) s = .next (setCtl s
            (decide89 (modCmd d c fun k => { k with input := p, phase := .accepted }) c { k with input := p } (devNow d))))) ∧
      (k.phase = .accepted → k.slot.isSome = true → k.waitUntil ≤ now s.toCtl →
        (∀ st, k.early = some st →
          exec (.predispatchDecision c) s = .next (setCtl s (resolveAt s.toCtl c st (k.tAccept + 105)))) ∧
        (∀ st d, k.early = none → checks456 s.toCtl k = .error (st, d) →
          exec (.predispatchDecision c) s = .next (setCtl s (resolveAt d c st (k.tAccept + 105)))) ∧
        (∀ d st d', k.early = none → checks456 s.toCtl k = .ok d → check89 d c k = .refused st d' →
          exec (.predispatchDecision c) s = .next (setCtl s (resolveAt d' c st (k.tAccept + 105)))) ∧
        (∀ d d', k.early = none → checks456 s.toCtl k = .ok d → check89 d c k = .admitted d' →
          exec (.predispatchDecision c) s = .next (setCtl s d'))) ∧
      (now s.toCtl < k.waitUntil → exec (.predispatchDecision c) s = .next s))

/-- The watchman's check 8 on a command of a model (R258, R259, R286 to R288, R294): a deadline that has passed, brownout, a hamlet
down, a full queue, and a predicted miss refuse it, each with its status; one that meets its deadline and whose output fits is
admitted on its own model. -/
def Obligations.Watchman_verdict : Prop :=
  ∀ (d e : Ctl) (id : Nat) (c : Cmd) (m : Model) (x : Entry), isModelOp c.opcode = true →
    resident d c.slice c.model = some m → entryOf m c.opcode.toNat = some x → 
    (c.deadline ≠ noDeadline → (c.deadline = 0 ∨ timeLe c.tAccept c.deadline = false) →
      check89 d id c = .refused St.deadlinePassed d) ∧
    ((c.deadline = noDeadline ∨ (c.deadline ≠ 0 ∧ timeLe c.tAccept c.deadline = true)) →
      (step8b d c (some x) = none → check89 d id c = .refused St.brownout d) ∧
      (step8b d c (some x) = some e → (c.credit || !sliceBusy e c.slice) = false → diverts c = false →
        check89 d id c = .refused St.shedNewest e) ∧
      (step8b d c (some x) = some e → (c.credit || !sliceBusy e c.slice) = true → roomFor e m x = false →
        (getLane e c.slice c.lane).shedExpired = false → diverts c = false →
        check89 d id c = .refused St.shedNewest e) ∧
      (step8b d c (some x) = some e → (c.credit || !sliceBusy e c.slice) = true → roomFor e m x = true →
        ((entryHamlets m x).any fun h => hamletDown e h x) = true → diverts c = false →
        check89 d id c = .refused St.resource e) ∧
      (step8b d c (some x) = some e → (c.credit || !sliceBusy e c.slice) = true → roomFor e m x = true →
        ((entryHamlets m x).any fun h => hamletDown e h x) = false → meetsDeadline e c (predict e c m x) = false →
        diverts c = false → check89 d id c = .refused St.predictedMiss e) ∧
      (step8b d c (some x) = some e → (c.credit || !sliceBusy e c.slice) = true → roomFor e m x = true →
        ((entryHamlets m x).any fun h => hamletDown e h x) = false → meetsDeadline e c (predict e c m x) = true →
        outputTooBig c x = true → check89 d id c = .refused St.resultTooSmall e) ∧
      (step8b d c (some x) = some e → (c.credit || !sliceBusy e c.slice) = true → roomFor e m x = true →
        ((entryHamlets m x).any fun h => hamletDown e h x) = false → meetsDeadline e c (predict e c m x) = true →
        outputTooBig c x = false → check89 d id c = .admitted (admitCmd e id c c.model m x none)))

/-- GQI_OP_RUN, GQI_OP_RUN_CTX and GQI_OP_PREFILL_CHUNK of an admitted command enter it QUEUED in each hamlet of its entry point
with its destinations in ascending order (R109, R141, R163); GQI_OP_CTX_RELEASE and GQI_OP_NOP, which run no model, are staged at
once (R109), off the fast path where an earlier submission of the lane is not resolved (R133). -/
def Obligations.Admitted_commands : Prop :=
   (∀ (s : State) (c : Nat) (k : Cmd) (m : Model) (e : Entry) (d : Ctl), Tbl.find? s.toCtl.cmds c = some k →
      k.phase = .admitted → k.status = none → cmdModel s.toCtl k = some m → cmdEntry s.toCtl k = some e →
      d = modCmd (offPath s.toCtl c 6 ((entryHamlets m e).any fun h => decide ((idleCores s.toCtl h).length < e.coreDemand))) c
        (fun c => { c with
          phase := .running, parts := (entryHamlets m e).foldl (fun t h => Tbl.set t h {}) []
          grants := (sortBy (fun a b => decide (a.1 < b.1)) e.dests).map fun x => { dest := x.1, bytes := x.2 } }) →
      (k.opcode = 1 → exec (.gqiOpRun c) s = .next (setCtl s d)) ∧
      (k.opcode = 2 → exec (.gqiOpRunCtx c) s = .next (setCtl s d)) ∧
      (k.opcode = 3 → exec (.gqiOpPrefillChunk c) s = .next (setCtl s d)) ∧
      (k.opcode ≠ 1 → exec (.gqiOpRun c) s = .next s)) ∧
   (∀ (s : State) (c : Nat) (k : Cmd), Tbl.find? s.toCtl.cmds c = some k → k.phase = .admitted → k.status = none →
      (k.opcode = 4 → exec (.gqiOpCtxRelease c) s = .next (setCtl s
        (modCmd (offPath s.toCtl c 9 (!laneClear s.toCtl c k)) c fun c => { c with phase := .running, parts := [] }))) ∧
      (k.opcode = 5 → exec (.gqiOpNop c) s = .next (setCtl s
        (modCmd (offPath s.toCtl c 9 (!laneClear s.toCtl c k)) c fun c => { c with phase := .running, parts := [] }))))

/-- GRANARY_RESERVE, BIND_COMMAND and TILE_COMPLETE (R141, R156 to R163, R185, R246, R260, R546): the parts that can reserve do, the
ready command of a hamlet that binds takes the lowest idle cores, a chunk out of order completes CONTEXT_UNKNOWN instead; a
tile's writes and output join its command, its last tile stages the part, an illegal or unmapped access ends it. -/
def Obligations.Hamlet_execution : Prop :=
  ∀ (s : State) (h : Fin 32) (c : Nat) (t : Tile) (k : Cmd) (e : TileEffects) (d : Ctl),
    (exec (.granaryReserve c) s = .next (setCtl s (shareUp s.toCtl (settled (reserveParts s.toCtl c))))) ∧
    (mayBind s.toCtl h.val = true → d = markCores s.toCtl h.val →
      (∀ r, readyCmd d h.val = some r → exec (.bindCommand h) s = .next (setCtl s (shareUp d (settled (bindReady d h.val r))))) ∧
      (readyCmd d h.val = none → exec (.bindCommand h) s = .next (setCtl s d))) ∧
    (mayBind s.toCtl h.val = false → exec (.bindCommand h) s = .next s) ∧
    (∀ o bad, Tbl.find? s.toCtl.cmds c = some k → mayComplete k t e.last = true → jobsLost s.toCtl = false →
      o = tileOutput s.toCtl (tileKey s.toCtl k t
        ((e.reads.map fun r => tileReads s.mem s.toCtl k t.hamlet.val r.1 r.2) ++ [[]])) e.output →
      bad = (e.reads ++ e.writes.map fun w => (w.1, w.2.length)).findSome? (fun w =>
        accessFault s.toCtl t.hamlet.val w.1 w.2 (isContextOp k.opcode)) → d = addTile s.mem s.toCtl c t k e →
      ((e.illegal = true ∨ ∃ x ∈ o, ((cmdEntry s.toCtl k).map Entry.outputBytes).getD 0 < x.1 + x.2.length) →
        exec (.tileComplete c t e) s = .next (setCtl s (settled (discard s.toCtl c St.program)))) ∧
      (e.illegal = false → (∀ x ∈ o, x.1 + x.2.length ≤ ((cmdEntry s.toCtl k).map Entry.outputBytes).getD 0) →
        (∀ st, bad = some st → exec (.tileComplete c t e) s = .next (setCtl s (settled (discard s.toCtl c st)))) ∧
        (bad = none → stagesTooMuch d c t.hamlet.val = true →
          exec (.tileComplete c t e) s = .next (setCtl s (settled (discard d c St.program)))) ∧
        (bad = none → stagesTooMuch d c t.hamlet.val = false → e.last = false →
          exec (.tileComplete c t e) s = .next (setCtl s d)) ∧
        (bad = none → stagesTooMuch d c t.hamlet.val = false → e.last = true →
          exec (.tileComplete c t e) s = .next (setCtl s (advanceSlice (shareUp d (stagePart d c t.hamlet.val)) k.slice))))) ∧
    (Tbl.find? s.toCtl.cmds c = some k → mayComplete k t e.last = false → exec (.tileComplete c t e) s = .next s)

/-- COMMIT_TOKEN, RESULT_DELIVERY, COMPLETION_ENTRY_WRITE and IRQ_TIME_THRESHOLD (R46, R68, R72, R76, R99 to R103, R165 to R168): a
command that meets every condition gets its token with t_commit and its status, and all it staged is applied; without them it
stays as it is, and only its slice's procedure goes on; a resolved result is written with its trailer; the oldest delivered
submission of a lane writes its entry, counts, and frees its slot and its number. After a package fault the jobs are lost: no
command commits, no result is delivered and no entry written. IRQ_TIME_THRESHOLD raises the lane's vector at a live window exactly where one of the
lane's thresholds holds (R76). -/
def Obligations.Commit_and_delivery : Prop :=
   (∀ (s : State) (c : Nat) (k : Cmd) (i l : Nat), Tbl.find? s.toCtl.cmds c = some k → i = k.slice → l = k.lane →
      jobsLost s.toCtl = false →
      (mayCommit s.toCtl c k = true →
        exec (.commitToken c) s = .next (setDev s (withCtl (applyStaged (withCtl s.toDev fun d => issueToken d c k) c k
          (ownSets s.toCtl k)) fun d => advanceSlice (shareUp s.toCtl (settled (finishCommit
            (sendCommits (commitContext d k) c k) c))) i))) ∧
      (mayCommit s.toCtl c k = false →
        exec (.commitToken c) s = .next (setCtl s (advanceSlice (shareUp s.toCtl s.toCtl) i))) ∧
      (∀ x, k.phase = .resolved → silent s.toCtl i = false →
        exec (.resultDelivery c x) s = .next (setCtl s (deliver s.toCtl c k x))) ∧
      (∀ st d e, k.phase = .delivered → silent s.toCtl i = false → (oldest s.toCtl i l).map Prod.fst = some c →
        k.status = some st →
        d = dropCmd (detailRecord (bump s.toCtl i l fun x =>
          if l = 0 then countStatus st x else countPath k st (countStatus st x)) k st) c →
        e = (match k.slot with | some n => modSlot d i l n fun _ => {} | none => d) →
        (exec (.completionEntryWrite c true) s = .next (setCtl s (fetchNext (advanceSlice (laneReopen (ringWrite
            (ringTranslated e i l true) i l (onFastPath k) k.hostWrites (completionEntry k st)) i l) i) i l))) ∧
        ((getPort (ringTranslated e i l false) (getSlice (ringTranslated e i l false) i).cur).ats = true →
          exec (.completionEntryWrite c false) s =
            .next (setCtl s (advanceSlice (ringFailed (ringTranslated e i l false) i l) i))))) ∧
   (∀ (s : State) (c : Nat) (k : Cmd) (x : ResultTranslation) (b : Bool), Tbl.find? s.toCtl.cmds c = some k →
      jobsLost s.toCtl = true →
      exec (.commitToken c) s = .next (setCtl s (advanceSlice (shareUp s.toCtl s.toCtl) k.slice)) ∧
      exec (.resultDelivery c x) s = .next s ∧ exec (.completionEntryWrite c b) s = .next s) ∧
   (∀ (s : State) (i : Fin 256) (l : Fin 64), windowLive s.toCtl i.val l.val = true →
      (irqDue s.toCtl (getLane s.toCtl i.val l.val) = true →
        exec (.irqTimeThreshold i l) s = .next (setCtl s (raiseLane s.toCtl i.val l.val))) ∧
      (irqDue s.toCtl (getLane s.toCtl i.val l.val) = false → exec (.irqTimeThreshold i l) s = .next s))

/-- SHEAF_DONE (R302, R321, R322, R327, R347): the unit that holds the sheaf is free, an engine's key registers with it. A squashed
sheaf is discarded there and has no other effect; one in the first of its two units waits in a Hearth buffer for the second; one
that has passed both leaves with its effect: the last sheaf of a load finishes it, any other counts down, a migration's takes its
save or restore on. Then what waits is served, and a fenced slice's procedure and a tenant's removal go on. A sheaf that stands in
no unit stays. -/
def Obligations.Sheaf_boundary : Prop :=
  ∀ (s : State) (n : Nat) (x : Sheaf) (d e : Dev), Tbl.find? s.toCtl.sheaves n = some x →
    d = withCtl s.toDev (fun d => leaveUnit d x) → e = withCtl d (fun d => { d with sheaves := Tbl.erase d.sheaves n }) →
    (inUnit x = false → exec (.sheafDone n) s = .next s) ∧
    (inUnit x = true → x.squashed = true → exec (.sheafDone n) s = .next (setDev s (withCtl e fun d => disposed d x))) ∧
    (inUnit x = true → x.squashed = false → firstUnit x = true →
      exec (.sheafDone n) s = .next (setDev s (withCtl d fun d =>
        serveSheaves { d with sheaves := Tbl.set d.sheaves n { x with place := .buffered } }))) ∧
    (inUnit x = true → x.squashed = false → firstUnit x = false →
      (∀ c a, x.use = .input c a → exec (.sheafDone n) s = .next (setDev s (withCtl e fun d => disposed d x))) ∧
      (∀ c ld, x.use = .load c → Tbl.find? e.loads c = some ld → 1 < ld.sheaves →
        exec (.sheafDone n) s = .next (setDev s (withCtl e fun d => disposed
          { d with loads := Tbl.set d.loads c { ld with sheaves := ld.sheaves - 1 } } x))) ∧
      (∀ c ld, x.use = .load c → Tbl.find? e.loads c = some ld → ld.sheaves ≤ 1 →
        exec (.sheafDone n) s = .next (setDev s (withCtl (finishLoad e c ld) fun d => disposed d x))) ∧
      (∀ p, x.use = .migration → (getSlice e.toCtl x.slice).proc = some p →
        (p.kind = .save → exec (.sheafDone n) s = .next (setDev s (withCtl e fun d =>
          disposed (saveSheaf d x.slice x.index p) x))) ∧
        (p.kind = .restore → migLeft e.toCtl x.slice = 0 →
          exec (.sheafDone n) s = .next (setDev s (withCtl (finishRestore e x.slice p) fun d => disposed d x)))))

/-- Tally operations of a running tile on a named tally of this package that is open to its tenant (R161, R173 to R177, R181): reads,
claims and a release return at once, a wait and a claim wait that find nothing join the tile's waits, TLY_ADD and TLY_SET are
staged until the commit, a mode that does not match returns BAD_MODE, and what asks at once of another hamlet that resets ends its
command ABORTED/HAMLET_RESET. TALLY_WAIT_RELEASE releases exactly the waiters of a tally whose condition an apply has met and that
no reset holds, each told in its order (R176, R181). REMOTE_READ and REMOTE_WRITE of a running tile (R156, R161, R162, R164, R185,
R222, R223): a read within this package that nothing stops returns the bytes at once, with what the command has staged and written in
the tile's own hamlet over them; one of another package leaves as RD messages; a write to the own hamlet is a local one, and one to
another hamlet is staged there within its grant. -/
def Obligations.Tallies_and_remote_access : Prop :=
   (∀ (s : State) (x : CmdTile) (k : Cmd) (name v : W32) (c n : Nat) (y : Tally) (o : Owner) (w : WaitKind → Waiter) (t : Tile)
      (d : Ctl), d = s.toCtl → c = x.cmd → t = x.tile → n = name.toNat →
      Tbl.find? d.cmds c = some k → runsTile k t = true → tallyNamed n = true → tallyPkg n = pkgNum d →
      tallyOpen d (getSlice d k.slice).tenant n = true → y = getTally d n → o = ownerOf d c k →
      w = (fun q => { kind := q, cmd := some c, tile := some t }) →
      ((tallyAway n t.hamlet.val = false ∨ (getHam d (tallyHamlet n)).reset = none) →
        exec (.tlyRead x name) s = .next (setCtl s (settled (tellTile d c n t .read (.value (readTally y))))) ∧
        (y.claimMode = false → exec (.tlyAdd x name v) s = .next (setCtl s (settled (stageTally d c n t k (.add v)))) ∧
          exec (.tlySet x name v) s = .next (setCtl s (settled (stageTally d c n t k (.set v))))) ∧
        (y.claimMode = true → exec (.tlyAdd x name v) s = .next (setCtl s (settled (tellTile d c n t .add .badMode)))) ∧
        (y.claimMode = true → exec (.tlyClaim x name) s = .next (setCtl s (settled
          (tellTile (claimNow d n o).2 c n t .claim (claimNow d n o).1)))) ∧
        (y.claimMode = true → (isOwner y o = false ∨ tallyAway n t.hamlet.val = false) →
          exec (.tlyRelease x name) s = .next (setCtl s (settled
            (tellTile d c n t .release (if isOwner y o then .owner else .notOwner))))) ∧
        (y.claimMode = true → isOwner y o = true → tallyAway n t.hamlet.val = true →
          exec (.tlyRelease x name) s = .next (setCtl s (settled (stageTally (seeTile (emit d (.tallyResult c .owner)) c t
            [leBytes 4 (resultCode .owner) ++ leBytes 4 (resultValue .owner)]) c n t k .release))))) ∧
      (tallyAway n t.hamlet.val = true → (getHam d (tallyHamlet n)).reset.isSome = true →
        exec (.tlyRead x name) s = .next (setCtl s (settled (discard d c St.hamletReset)))) ∧
      (y.claimMode = false →
        exec (.tlyWaitGe x name v) s = .next (setCtl s (settled
          (modCmd (addWaiter d n (w (.ge v))) c fun z => { z with waits := z.waits ++ [.tally t (BitVec.ofNat 32 n)] }))) ∧
        exec (.tlyWaitEq x name v) s = .next (setCtl s (settled
          (modCmd (addWaiter d n (w (.eq v))) c fun z => { z with waits := z.waits ++ [.tally t (BitVec.ofNat 32 n)] })))) ∧
      (y.claimMode = true → y.claim ≠ .claimed → wakes d n (w (.claim o)) = true →
        exec (.tlyClaimWait x name) s = .next (setCtl s (settled
          (tellTile (claimNow d n o).2 c n t .claimWait (claimNow d n o).1)))) ∧
      (y.claimMode = true → (y.claim = .claimed ∨ wakes d n (w (.claim o)) = false) →
        exec (.tlyClaimWait x name) s = .next (setCtl s (settled
          (modCmd (modTally d n fun y => { y with waiters := y.waiters ++ [w (.claim o)] }) c fun z => { z with
            waits := z.waits ++ [.tally t (BitVec.ofNat 32 n)] }))))) ∧
   (∀ (s : State) (name : W32) (y : Tally) (out : Waiter → Bool), Tbl.find? s.toCtl.tallies name.toNat = some y →
      out = (fun w => w.due.isSome && wakes s.toCtl name.toNat w) →
      exec (.tallyWaitRelease name) s = .next (setCtl s ((y.waiters.filter out).foldl
        (fun d w => tellWaiter d name.toNat y w)
        (modTally s.toCtl name.toNat fun y => { y with waiters := y.waiters.filter fun w => !out w })))) ∧
   (∀ (s : State) (x : CmdTile) (k : Cmd) (a : W64) (n c q h off : Nat) (bs : Bytes) (d : Ctl) (t : Tile), d = s.toCtl →
      c = x.cmd → t = x.tile → h = t.hamlet.val → off = addrOffset a.toNat → Tbl.find? d.cmds c = some k → runsTile k t = true →
      addrValid a.toNat = true → q = addrHamlet a.toNat →
      (addrPkg a.toNat = pkgNum d → readFault d k h q off n = none → isPoisoned s.poison q off n = false →
        (q = h → bs = tileReads s.mem d k h off n) → (q ≠ h → bs = loadBytes s.mem d q off n []) →
        exec (.remoteRead x a n) s = .next (setCtl s (loadDraw (seeTile (emit d (.readData c bs)) c t [bs]) off))) ∧
      (∀ st, addrPkg a.toNat = pkgNum d → readFault d k h q off n = some st →
        exec (.remoteRead x a n) s = .next (setCtl s (settled (discard d c st)))) ∧
      (addrPkg a.toNat = pkgNum d → readFault d k h q off n = none → isPoisoned s.poison q off n = true →
        exec (.remoteRead x a n) s = .next (setCtl s (settled (discard (poisonRead s.poison d q off n) c St.memory)))) ∧
      (addrPkg a.toNat ≠ pkgNum d →
        (hasRoadOps d k = false → exec (.remoteRead x a n) s = .next (setCtl s (settled (discard d c St.program)))) ∧
        (hasRoadOps d k = true → roomForRequest d h (spans off n).length = true →
          exec (.remoteRead x a n) s = .next (setCtl s (settled (readAfar d c t a.toNat n))))) ∧
      (a.toNat / 2 ^ 43 = rackHamlet d h →
        (∀ e, accessFault d h off bs.length (isContextOp k.opcode) = none → e = writeLocal d c h (off, bs) →
          exec (.remoteWrite x a bs) s = .next (setCtl s
            (if stagesTooMuch e c h = true then settled (discard e c St.program) else e))) ∧
        (∀ st, accessFault d h off bs.length (isContextOp k.opcode) = some st →
          exec (.remoteWrite x a bs) s = .next (setCtl s (settled (discard d c st))))) ∧
      (a.toNat / 2 ^ 43 ≠ rackHamlet d h →
        (addrPkg a.toNat = pkgNum d ∨ roomForRequest d (homeHamlet d k) (spans off bs.length).length = true) →
        exec (.remoteWrite x a bs) s = .next (setCtl s (settled (remoteStage d c a.toNat t k bs)))))

/-- The arithmetic of the cores (R145 to R150): the number of a finite encoding converts back to that encoding in every
floating-point format and overflow mode; rounded additions commute; a NaN among the products of a K step makes its accumulator
the canonical NaN; a K step of INT8 takes 16 products, accumulates exactly within INT32, and outside it saturates with SAT; a K step
takes the operand formats and counts of R146 to R148, and no others. -/
def Obligations.Core_arithmetic : Prop :=
  (∀ (f : FloatFormat) (x : Nat) (mode : OverflowMode) (n : Bool), f ∈ [e4m3, e5m2, e2m1, bf16, fp16, fp32] →
    x < 2 ^ (1 + f.expBits + f.manBits) → x % 2 ^ (f.expBits + f.manBits) ≤ maxFinite f →
    convertNum f mode (decodeNum f x) n = x) ∧
  (∀ a b : ExactNum, addRound a b = addRound b a) ∧
  (∀ (n : Nat) (acc : W32) (ps : List ExactNum), ExactNum.nan ∈ ps → ps.length = 2 ^ n → (kStep n acc ps).1 = canonicalNan) ∧
  (∀ (acc : W32) (xs ys : List Byte) (v : Int), v = acc.toInt + intSum xs ys →
    (xs.length = 16 → ys.length = 16 →
      (-(2 ^ 31) ≤ v → v ≤ 2 ^ 31 - 1 → ∃ r, intStep acc xs ys = some (r, 0) ∧ r.toInt = v) ∧
      (v < -(2 ^ 31) → intStep acc xs ys = some (0x80000000, 4)) ∧
      (2 ^ 31 - 1 < v → intStep acc xs ys = some (0x7FFFFFFF, 4))) ∧
    ((xs.length ≠ 16 ∨ ys.length ≠ 16) → intStep acc xs ys = none)) ∧
  ∀ (a b : FloatFormat) (acc : W32) (sA sB : Byte) (xs ys : List Nat), a ∈ [e4m3, e5m2, e2m1, bf16, fp16] →
    b ∈ [e4m3, e5m2, e2m1, bf16, fp16] →
    ((millStep a b acc xs ys).isSome = true ↔
      (a ∈ [e4m3, e5m2] ∧ b ∈ [e4m3, e5m2] ∧ xs.length = 16 ∧ ys.length = 16) ∨
        (a = b ∧ a ∈ [bf16, fp16] ∧ xs.length = 8 ∧ ys.length = 8)) ∧
    ((mxStep a b acc sA sB xs ys).isSome = true ↔
      ((a ∈ [e4m3, e5m2] ∧ b ∈ [e4m3, e5m2]) ∨ (a = e2m1 ∧ b = e2m1)) ∧ xs.length = 32 ∧ ys.length = 32)

/-- ALMANAC_ACTIVATION, ALMANAC_SLOT_BOUNDARY, PREEMPT_TRIGGER, BROWNOUT_GRANTS_APPLY and STRICT_FRAME_BOUNDARY (R249, R250, R262 to
R268, R290 to R293, R333): each takes effect when its time or trigger has come; the slot trigger is evaluated as a slot starts, and
again once a preemption that ran then has ended. STILE_REACHED, PARK_DONE and RESUME_DONE (R172, R267, R271): a victim that has
completed the wave before its stile and awaits no answer begins to park; its live ranges are copied to the park area and its cores
are idle; they are copied back before the next wave. -/
def Obligations.Scheduling_and_preemption : Prop :=
   (∀ (s : State) (h : Fin 32) (x : Hamlet) (d : Ctl), x = getHam s.toCtl h.val → d = s.toCtl →
      (∀ a, x.pendingAlmanac = some a → timeLe a.tAct (devNow d) = true →
        exec (.almanacActivation h) s = .next (setCtl s
          (shareUp d (slotTrigger (mirrorStep d (.hamlet h.val) 0 (installAlmanac d h.val a)) h.val)))) ∧
      (∀ a, x.pendingAlmanac = some a → timeLe a.tAct (devNow d) = false →
        exec (.almanacActivation h) s = .next s) ∧
      (∀ e, x.almanac.entries[x.entryInForce]? = some e →
        timeLe (x.entryStart + BitVec.ofNat 64 (slotNs e)) (devNow d) = true →
        exec (.almanacSlotBoundary h) s = .next (setCtl s (shareUp d (slotTrigger (takeSlot d h.val) h.val)))) ∧
      (∀ e r, mayBind d h.val = true → stepTrigger d h.val = some (e, r) →
        exec (.preemptTrigger h) s = .next (setCtl s (shareUp d (startPreempt d h.val e r)))) ∧
      (mayBind d h.val = true → stepTrigger d h.val = none → x.slotDue = true → x.preempting = none →
        exec (.preemptTrigger h) s = .next (setCtl s (shareUp d (slotTrigger d h.val)))) ∧
      (stepTrigger d h.val = none → x.slotDue = false → exec (.preemptTrigger h) s = .next s) ∧
      ((applyGrants d).reservations ≠ d.reservations →
        exec .brownoutGrantsApply s = .next (setCtl s (internalStep d .package fun d _ => applyGrants d))) ∧
      (d.pkg.life = .operating → (∃ e ∈ d.tenants, strictInEffect d e.1 = true) →
        ∀ e, e = strictAssign d →
        exec .strictFrameBoundary s = .next (setCtl s
          (serveSheaves { e with units := { e.units with frameStart := nowNs e } })))) ∧
   (∀ (s : State) (c : Nat) (h : Fin 32) (k : Cmd) (p : Part) (st : Stile), Tbl.find? s.toCtl.cmds c = some k →
      Tbl.find? k.parts h.val = some p →
      (runsIn k h.val = true → p.parkAt = some st → p.wave = st.wave → p.parking = false → waitsIn k h.val = false →
        exec (.stileReached c h) s = .next (setCtl s (modPart s.toCtl c h.val fun p => { p with parking := true }))) ∧
      (waitsIn k h.val = true → exec (.stileReached c h) s = .next s) ∧
      (p.state = .bound → p.parking = true → p.parkAt = some st → unsettled k = true →
        exec (.parkDone c h) s =
          .next (setDev s (withCtl (moveLive s.toDev c k h.val p true) (endPark s.toCtl c h.val k st)))) ∧
      (p.state = .bound → p.restoring = true →
        exec (.resumeDone c h) s = .next (setDev s (withCtl (moveLive s.toDev c k h.val p false) (endResume c h.val k p)))))

/-- PATROL_SCRUB, HBM_UNCORRECTABLE, CORRECTED_WRITEBACK, CHANNEL_FAILURE and ZERO_FILL_DONE (R196 to R203, R223, R343): what a read
of a block finds is acted on, a reader of lost data ends FAULT/MEMORY before what the block held is lost, or for a committed
command's spill loses its set; a corrected block is written back, a channel of an operating package fails, a filled hamlet that no
reset holds reads 0 and is GRANTED with remote window 0 over all of it and an empty almanac. A block outside the window of a hamlet
that is GRANTED or RELEASING, in a package that operates, is not read. -/
def Obligations.Hbm_events : Prop :=
  ∀ (s : State) (h : Fin 32) (b c : Nat) (cls : EccClass) (k : Cmd) (v : Dev), v = (eccRead s.toDev h.val b cls id).1 →
    (readable s.toCtl h.val b = true →
      exec (.patrolScrub h b cls) s = .next (setDev s v) ∧
      exec (.hbmUncorrectable h b cls none) s = .next (setDev s v) ∧
      (Tbl.find? s.toCtl.cmds c = some k →
        ((k.token = false ∨ isSpill s.toCtl h.val (64 * b / 4096) = false) →
          exec (.hbmUncorrectable h b cls (some c)) s =
            .next (setDev s (eccRead s.toDev h.val b cls fun d => settled (discard d c St.memory)).1)) ∧
        (k.token = true → isSpill s.toCtl h.val (64 * b / 4096) = true →
          exec (.hbmUncorrectable h b cls (some c)) s = .next (setDev s
            (if (eccRead s.toDev h.val b cls id).2 = true then withCtl v fun d => loseSpill d h.val c k else v))))) ∧
    (readable s.toCtl h.val b = false →
      exec (.patrolScrub h b cls) s = .next s ∧ ∀ q, exec (.hbmUncorrectable h b cls q) s = .next s) ∧
    (exec (.correctedWriteback h b) s = .next (setCtl s (modHam s.toCtl h.val fun x => { x with
      writeBacks := x.writeBacks.filter (· != b) }))) ∧
    (∀ ch : Fin 4, s.toCtl.pkg.life = .operating →
      exec (.channelFailure h ch) s = .next (setCtl s (channelFails s.toCtl h.val ch.val))) ∧
    ((getHam s.toCtl h.val).assign = .filling → s.toCtl.pkg.warm = none → (getHam s.toCtl h.val).reset = none →
      exec (.zeroFillDone h) s = .next (setDev s (withCtl (zeroHamlet s.toDev h.val) fun d =>
        mirrorStep d (.hamlet h.val) 0 (modHam d h.val fun y => { y with
          assign := .granted, windows := [(0, { base := 0, limit := 0x7FFFFFFFFFF, perm := 2 })], almanac := {}
          pendingAlmanac := none, entryInForce := 0, entryStart := devNow d })))) ∧
    (((getHam s.toCtl h.val).reset.isSome = true ∨ s.toCtl.pkg.warm.isSome = true) →
      exec (.zeroFillDone h) s = .next s)

/-- CORE_ECC, MILL_RESIDUE, DISPATCH and SPAD_ECC while the package operates (R367 to R369): a corrected error is counted, any other
ends the culprit and retires its croft; an uncorrected scratchpad word is poisoned. GRANARY_ECC, TALLY_VOTE and TMR_REREAD while
the package operates (R367, R368, R375): a corrected error is counted, an uncorrected granary word ends the commands staged in
it, a lost tally or hamlet field resets the hamlet, a lost field of the Hearth is a package fabric fault; the value of a lost
tally is a free value. -/
def Obligations.Hamlet_and_croft_detectors : Prop :=
   (∀ (s : State) (h : Fin 32) (croft : Fin 13) (core : Fin 72) (off k : Nat), s.toCtl.pkg.life = .operating →
      (exec (.coreEcc h croft core true) s = .next (setCtl s (countedFault s.toCtl 1 h.val croft.val 1))) ∧
      (exec (.coreEcc h croft core false) s = .next (setCtl s (croftFault s.toCtl 1 h.val croft.val core.val))) ∧
      (exec (.millResidue h croft core) s = .next (setCtl s (croftFault s.toCtl 2 h.val croft.val core.val))) ∧
      (exec (.dispatch h croft core) s = .next (setCtl s (croftFault s.toCtl 4 h.val croft.val core.val))) ∧
      (exec (.spadEcc h croft off true) s = .next (setCtl s (countedFault s.toCtl 3 h.val croft.val 1))) ∧
      (logCroft (getHam s.toCtl h.val) croft.val = some k →
        exec (.spadEcc h croft off false) s =
          .next (setDev s (spadLost s.toDev h.val croft.val k (4194304 * k + off % 4194304)))) ∧
      (logCroft (getHam s.toCtl h.val) croft.val = none → exec (.spadEcc h croft off false) s = .next s)) ∧
   (∀ (s : State) (h : Fin 32) (n : Nat) (l : List Nat) (i : Fin 256) (f : TmrField) (d : Ctl), d = s.toCtl →
      d.pkg.life = .operating →
      (exec (.granaryEcc h n .corrected l) s = .next (setCtl s (countedFault d 5 h.val (n % 256) 1))) ∧
      (exec (.granaryEcc h n .uncorrected l) s = .next (setCtl s (settled
        (forEach l (faultRecord d 5 1 2 h.val 0xFF (hamHandle d h.val) 0xFFFF 0) fun d c => discard d c St.compute)))) ∧
      (∀ e, d.pkg.policyPackage = false →
        e = discardWhere d (fun _ c => inHamlet d h.val c || stagersOf d h.val c) St.hamletReset →
        exec (.granaryEcc h n .hardBank l) s =
          .next (setCtl s (settled (internalStep e (.hamlet h.val) fun d j => leaveService d h.val 5 j false)))) ∧
      (exec (.tallyVote h i false) s = .next (setCtl s (countedFault d 6 h.val 0xFF 1))) ∧
      (∀ e, e = faultRecord d 6 (contained d 4) 2 h.val 0xFF (hamHandle d h.val) 0xFFFF 0 →
        exec (.tallyVote h i true) s = .next (setCtl s (hamletFault (modTally (drawn e) (fieldTally e h.val i.val)
          fun y => { y with value := BitVec.ofNat 32 (leNat (drawBytes e 4)) }) h.val 6))) ∧
      (exec (.tmrReread [⟨f, false⟩]) s = .next (setCtl s (countedFault
        (modReeve d fun r => { r with tmrCorr := addCount r.tmrCorr 1 }) 0xE ((fieldHamlet f).getD 0xFFFF) 0xFF 1))) ∧
      (∀ k, fieldHamlet f = some k → exec (.tmrReread [⟨f, true⟩]) s = .next (setCtl s (hamletFault
        (faultRecord d 0xE (contained d 4) 2 k 0xFF (hamHandle d k) 0xFFFF 0) k 0xE))) ∧
      (fieldHamlet f = none → exec (.tmrReread [⟨f, true⟩]) s = .next (setCtl s (failPackage d 0xE 0xFFFF 0xFF))))

/-- BRIDGE, FIELD_NET, HEARTH_SRAM, CRYPTO_KAT, CLOCK, RAIL, THERMAL_SAMPLE and THERMTRIP on a package that is powered and out of
reset (R46, R47, R366, R367, R477, R538, R539): retries are counted, and each fault of the package fabric fails the package.
REEVE_LOCK, REEVE_WDOG, REEVE_TAKEOVER_DONE and REEVE_PAIR_RETURN (R372 to R374): the active pair's fault hands over to a
standby, the loss of the last pair fails the package, a failed pair returns as standby when its BIST passes. -/
def Obligations.Fabric_and_Reeve : Prop :=
   (∀ (s : State) (f : Fin 4) (n : Nat) (d e : Ctl), d = s.toCtl → awake d = true →
      e = modPkg d (fun k => { k with bridgeRetry := Tbl.modify k.bridgeRetry f.val 0 fun x => addCount x n }) →
      (n < 8 → exec (.bridge f n) s = .next (setCtl s (countedFault e 0xA 0xFFFF 0xFF n))) ∧
      (8 ≤ n → exec (.bridge f n) s = .next (setCtl s
        (failPackage (modPkg e fun k => { k with bridgeBad := k.bridgeBad ++ [f.val] }) 0xA 0xFFFF 0xFF))) ∧
      (exec (.fieldNet f) s = .next (setCtl s
        (failPackage (modPkg d fun k => { k with bridgeBad := k.bridgeBad ++ [8 + f.val] }) 0xB 0xFFFF 0xFF))) ∧
      (exec (.hearthSram true) s = .next (setCtl s (alertFault d 0xF 0xFFFF 0xFF))) ∧
      (exec (.hearthSram false) s = .next (setCtl s (failPackage d 0xF 0xFFFF 0xFF))) ∧
      (∀ g : Fin 16, exec (.cryptoKat g) s = .next (setCtl s (failPackage d 0x10 0xFFFF g.val))) ∧
      (d.pkg.life ≠ .selftest → exec .clock s =
        .next (setCtl s (failPackage (modPkg d fun k => { k with refclk := false }) 0x11 0xFFFF 0xFF))) ∧
      (d.pkg.life = .selftest → exec .clock s = .next (setCtl s (modPkg d fun k => { k with refclk := false }))) ∧
      (∀ g : Fin 9, exec (.rail g) s = .next (setCtl s (failPackage d 0x12 0xFFFF g.val))) ∧
      (∀ (g : Fin 5) l, d.pkg.life ≠ .failed →
        exec (.thermalSample g l) s = .next (setCtl s (thermalSample d g.val l))) ∧
      (∀ g : Fin 5, exec (.thermtrip g) s =
        .next (setCtl s (modPkg (failPackage d 0x14 0xFFFF g.val) fun k => { k with thermtrip := true }))) ∧
      (d.pkg.life ≠ .failed → ∀ n u v, failPackage d n u v =
        modPkg (pushHistory (fenceRoads (faultRecord d n 9 2 u v 0 0xFFFF 0)) 1 n true) fun k => { k with
          life := .failed, fullStart := now (pushHistory (fenceRoads (faultRecord d n 9 2 u v 0 0xFFFF 0)) 1 n true), warm := none }) ∧
      (d.pkg.life = .failed → ∀ n u v, failPackage d n u v = faultRecord d n 9 2 u v 0 0xFFFF 0)) ∧
   (∀ (s : State) (p : Fin 2) (d : Ctl) (q : Nat), d = s.toCtl → awake d = true → q = 1 - p.val →
      (pairState d.reeve p.val = .active → pairState d.reeve q = .standby → d.reeve.takeover = false →
        exec (.reeveLock p) s = .next (setCtl s (modReeve (pairFails (faultRecord d 0xC 7 2 p.val 0xFF 0 0xFFFF 0) p.val)
          fun r => { r with takeover := true }))) ∧
      (pairState d.reeve p.val = .active → pairState d.reeve q ≠ .standby →
        exec (.reeveLock p) s = .next (setCtl s (failPackage (pairFails d p.val) 0xC p.val 0xFF))) ∧
      (pairState d.reeve p.val = .active → pairState d.reeve q = .standby → d.reeve.takeover = false →
        exec (.reeveWdog p) s = .next (setCtl s (modReeve (pairFails (faultRecord d 0xD 7 2 p.val 0xFF 0 0xFFFF 0) p.val)
          fun r => { r with takeover := true }))) ∧
      (pairState d.reeve p.val = .standby → d.reeve.takeover = false →
        exec (.reeveWdog p) s = .next (setCtl s (pairFails (faultRecord d 0xD 7 2 p.val 0xFF 0 0xFFFF 0) p.val))) ∧
      (pairState d.reeve p.val = .standby → d.reeve.takeover = true →
        exec (.reeveWdog p) s = .next (setCtl s (failPackage (pairFails d p.val) 0xD p.val 0xFF))) ∧
      (d.reeve.takeover = true →
        exec .reeveTakeoverDone s = .next (setCtl s (modReeve d fun r => { setPair r (1 - r.active) .active with
          active := 1 - r.active, takeover := false, takeovers := min 255 (r.takeovers + 1) }))) ∧
      (∀ b, pairState d.reeve p.val = .selftest →
        exec (.reevePairReturn p b) s =
          .next (setCtl s (modReeve d fun r => setPair r p.val (if b then .standby else .out)))))

/-- SPARE_BIST_DONE, CROFT_REMAP_DONE, CHANNEL_REBUILD_DONE, CORE_IDLE_TIMEOUT and CROFT_SELF_CHECK_DONE (R202, R369, R371, R394,
R400, R406, R407): the steps of a croft's or a channel's retirement and of a croft reset, each once what it waits for has come
and no larger recovery runs. HANG_TIMEOUT and REQUEST_TIMEOUT (R224, R392 to R394): a command that ran past its hang timeout
completes TIMEOUT/HANG with its record, one whose request is unanswered for 20 µs ends; before that time nothing happens. -/
def Obligations.Croft_recovery_and_timeouts : Prop :=
   (∀ (s : State) (h : Fin 32) (c : Fin 13) (x : Hamlet) (b : Bool), x = getHam s.toCtl h.val →
      (∀ r, x.retirement = some r → r.spareOk = none → hasSpare x = true →
        exec (.spareBistDone h b) s = .next (setCtl s (modHam s.toCtl h.val fun x => { x with
          retirement := some { r with spareOk := some b } }))) ∧
      (∀ r, x.retirement = some r → (hasSpare x = true → r.spareOk.isSome = true) →
        (gleans s.toCtl h.val = true → r.collected = true) → x.reset = none → s.toCtl.reeve.takeover = false →
        exec (.croftRemapDone h) s = .next (setDev s (internalDev s.toDev (.hamlet h.val) (endRetirement h.val r)))) ∧
      (x.retirement = none → exec (.croftRemapDone h) s = .next s) ∧
      (x.channelRetiring.isSome = true → x.reset = none → s.toCtl.reeve.takeover = false →
        exec (.channelRebuildDone h) s = .next (setDev s (internalDev s.toDev (.hamlet h.val) fun d _ =>
          withCtl (endChannel d h.val) settled))) ∧
      (s.toCtl.pkg.life = .operating →
        exec (.coreIdleTimeout h c) s = .next (setCtl s (startCroftReset s.toCtl h.val c.val 0x81))) ∧
      (∀ r, Tbl.find? x.croftResets c.val = some r → r.collected = true →
        exec (.croftSelfCheckDone h c b) s = .next (setCtl s
          (internalStep s.toCtl (.hamlet h.val) fun d _ => endCroftReset h.val c.val b d)))) ∧
   (∀ (s : State) (c : Nat) (k : Cmd) (h : Fin 32) (ttag : W16), Tbl.find? s.toCtl.cmds c = some k →
      (k.phase = .running → unsettled k = true → hangRuns k = true →
        k.bindTime + (hangLimit s.toCtl k - k.hangRun) ≤ now s.toCtl →
        exec (.hangTimeout c) s = .next (setCtl s (settled (advanceSlice (faultRecord (discard s.toCtl c St.hang) 8 1 2
          (homeHamlet s.toCtl k) 0xFF (handleOf s.toCtl (getSlice s.toCtl k.slice).tenant) k.slice 0) k.slice)))) ∧
      (now s.toCtl < k.bindTime + (hangLimit s.toCtl k - k.hangRun) → exec (.hangTimeout c) s = .next s) ∧
      (∀ q, (s.toCtl.requests.find? fun q => q.hamlet == h.val && q.ttag == ttag.toNat && !q.deferred &&
          decide (q.time + us 20 ≤ now s.toCtl)) = some q →
        exec (.requestTimeout h ttag) s = .next (setCtl s (settled (discard s.toCtl q.cmd St.roadTimeout)))) ∧
      ((∀ q ∈ s.toCtl.requests, now s.toCtl < q.time + us 20) → exec (.requestTimeout h ttag) s = .next s))

/-- GLEANINGS_COLLECTED, HAMLET_RESET_DONE, PACKAGE_WARM_RESET_DONE and WARM_RESET_HOLD_EXPIRY (R365, R389, R401, R403, R411): the
record of what is under recovery is stored; a squashed hamlet whose answers and record have come resets, no earlier than 100 µs
after its fence; a warm reset ends when its work is done, under PACKAGE no earlier than 180 ms. -/
def Obligations.Resets_end : Prop :=
  ∀ (s : State) (h : Fin 32) (g : GleaningsSample) (x : Hamlet), x = getHam s.toCtl h.val → 
    (∀ r, s.toCtl.pkg.warm = none → x.reset = some r → r.squashed = true → r.release = false → x.sampled ≠ [] →
      exec (.gleaningsCollected h g) s = .next (setCtl s (modHam (storeGleanings s.toCtl h.val 3 r.reason x.sampled g) h.val
        fun x => { x with sampled := [], run := .resetting }))) ∧
    (∀ r, s.toCtl.pkg.warm = none → x.reset = none → x.retirement = some r → r.collected = false →
      exec (.gleaningsCollected h g) s = .next (setCtl s (modHam
        (storeGleanings s.toCtl h.val 2 r.reason (r.crofts.filterMap (logCroft x)) g) h.val fun x => { x with
          retirement := x.retirement.map fun r => { r with collected := true } }))) ∧
    (∀ w, s.toCtl.pkg.warm = some w → w.squashed = true → x.sampled ≠ [] →
      exec (.gleaningsCollected h g) s = .next (setCtl s (modHam (storeGleanings s.toCtl h.val 4 w.cause x.sampled g) h.val
        fun x => { x with sampled := [], run := .resetting }))) ∧
    (∀ r, x.reset = some r → r.release = false → r.squashed = true → r.answers = 0 → gleanDue s.toCtl h.val = false →
      r.start + us 100 ≤ now s.toCtl → s.toCtl.reeve.takeover = false →
      exec (.hamletResetDone h) s =
        .next (setDev s (resetStep s.toDev (.hamlet h.val) r.jseq fun d j => endHamletReset d h.val r j))) ∧
    (∀ r, x.reset = some r → now s.toCtl < r.start + us 100 → exec (.hamletResetDone h) s = .next s) ∧
    (∀ w, s.toCtl.pkg.warm = some w → warmReady s.toCtl w = true → w.policy = false →
      exec .packageWarmResetDone s = .next (setDev s (resetStep s.toDev .package w.jseq fun d j => finishWarm d w j))) ∧
    (∀ w, s.toCtl.pkg.warm = some w → warmReady s.toCtl w = true → w.policy = true →
      exec .packageWarmResetDone s =
        .next (setCtl s (modPkg s.toCtl fun k => { k with warm := some { w with workDone := true } }))) ∧
    (∀ w, s.toCtl.pkg.warm = some w → w.policy = true → w.workDone = true → w.start + ms 180 ≤ now s.toCtl →
      exec .warmResetHoldExpiry s = .next (setDev s (resetStep s.toDev .package w.jseq fun d j => finishWarm d w j))) ∧
    (∀ w, s.toCtl.pkg.warm = some w → now s.toCtl < w.start + ms 180 → exec .warmResetHoldExpiry s = .next s)

/-- FENCE_DEADLINE (R344, R346, R348, R350, R395): when the deadline after the fence has come, the slice, hamlet, package or tenant
that is fenced and not squashed yet is squashed; a released hamlet leaves its tenant. RESET_TARGET_EXPIRY and FULL_RESET_TIMEOUT
(R382, R396, R405, R406): a reset that is late starts the step that contains it: a croft reset its retirement, a retirement the
hamlet's reset, a hamlet reset a package warm reset, a warm reset a full reset, and a full reset asks the tray controller for a
power cycle. -/
def Obligations.Deadlines_and_escalation : Prop :=
   (∀ (s : State) (i : Fin 256) (h : Fin 32) (d : Ctl), d = s.toCtl →
      (∀ p, (getSlice d i.val).proc = some p → p.squashed = false → (p.kind = .reset ∨ p.kind = .destroy) →
        fenced d p.start = true →
        exec (.fenceDeadline (.slice i)) s = .next (setCtl s (advanceSlice (squashSlice d i.val St.fenced) i.val))) ∧
      (∀ r, (getHam d h.val).reset = some r → r.squashed = false → fenced d r.start = true → r.release = false →
        exec (.fenceDeadline (.hamlet h)) s = .next (setCtl s (squashHamlet d h.val))) ∧
      (∀ r, (getHam d h.val).reset = some r → r.squashed = false → fenced d r.start = true → r.release = true → r.jseq ≠ 0 →
        exec (.fenceDeadline (.hamlet h)) s = .next (setCtl s (finishRelease d h.val r.jseq))) ∧
      (∀ r, (getHam d h.val).reset = some r → r.release = true → r.jseq = 0 →
        exec (.fenceDeadline (.hamlet h)) s = .next s) ∧
      (∀ w, d.pkg.warm = some w → w.squashed = false → fenced d w.start = true →
        exec (.fenceDeadline .package) s = .next (setCtl s (squashPackage d))) ∧
      (∀ x, Tbl.find? d.tenants h.val = some x → x.state = .removing → x.removeStep = 1 →
        x.removeStart + us 100 ≤ now d →
        exec (.fenceDeadline (.tenant h)) s = .next (setCtl s (squashTenant d h.val))) ∧
      (∀ r, (getHam d h.val).reset = some r → fenced d r.start = false →
        exec (.fenceDeadline (.hamlet h)) s = .next s)) ∧
   (∀ (s : State) (h : Fin 32) (c : Fin 13) (x : Hamlet), x = getHam s.toCtl h.val → 
      (∀ r, Tbl.find? x.croftResets c.val = some r → r.start + us 20 ≤ now s.toCtl →
        exec (.resetTargetExpiry (.croft h c)) s = .next (setCtl s (startRetirement (modHam s.toCtl h.val fun x => { x with
          croftResets := Tbl.erase x.croftResets c.val }) h.val c.val 0x81))) ∧
      (∀ r, x.retirement = some r → r.start + ms 5 ≤ now s.toCtl →
        exec (.resetTargetExpiry (.retirement h)) s = .next (setCtl s (startHamletReset s.toCtl h.val 0 0x81 true))) ∧
      (∀ r, x.reset = some r → r.release = false → r.start + ms 2 + fenceExcess s.toCtl ≤ now s.toCtl →
        exec (.resetTargetExpiry (.hamlet h)) s = .next (setCtl s (faultWarm s.toCtl 0x81 h.val false [] []))) ∧
      (∀ w, s.toCtl.pkg.warm = some w → w.workDone = false → w.start + ms 180 + fenceExcess s.toCtl ≤ now s.toCtl →
        exec (.resetTargetExpiry .warm) s = .next (setDev s (fullReset s.toDev 0x81 true))) ∧
      (fullLate s.toCtl = true →
        exec (.resetTargetExpiry .full) s = .next (setCtl s (askPowerCycle s.toCtl))) ∧
      (fullLate s.toCtl = true → exec .fullResetTimeout s = .next (setCtl s (askPowerCycle s.toCtl))) ∧
      (fullLate s.toCtl = false → exec .fullResetTimeout s = .next s))

/-- ROAD_TRAINING_START, ROAD_TRAINING_DONE, ROAD_TRAINING_TIMEOUT and ROAD_SIGNAL_LOST (R47, R48, R207, R216, R232): while roads
train, a DOWN road enters TRAINING, and at its end sends this package's identity and comes UP where the far end is the cabling map's
or is a MISMATCH where it is not; it returns to DOWN after 5 ms or when its signal is lost. While roads do not train none starts or
comes UP. ROAD_BLOCK_RECEIVED on a road that is UP or FENCED (R214 to R216): corrected codewords are counted; the next intact block
of the trained far end is accepted, an intact block of another identity is NAKed and retrains a road that is UP, any other is
NAKed. In another state a road takes no block. -/
def Obligations.Road_link : Prop :=
   (∀ (s : State) (r : Fin 64) (far : RoadIdentity) (x : Road), x = getRoad s.toCtl r.val →
      (roadsOn s.toCtl = true → x.state = .down →
        exec (.roadTrainingStart r) s = .next (setCtl s (leaveUp (modRoad s.toCtl r.val fun x => { x with
          trainStart := some (now s.toCtl) }) r.val .training))) ∧
      (∀ e, e = modRoad (sendIdentity s.toCtl r.val) r.val (learnFar far) → roadsOn s.toCtl = true → x.state = .training →
        (far.pkg.val = roadPeer (pkgNum s.toCtl) r.val → far.road.val = farRoadOf r.val →
          exec (.roadTrainingDone r far) s = .next (setCtl s (joinRoad e r.val far.pkg.val far.gen))) ∧
        ((far.pkg.val ≠ roadPeer (pkgNum s.toCtl) r.val ∨ far.road.val ≠ farRoadOf r.val) →
          exec (.roadTrainingDone r far) s = .next (setCtl s (leaveUp e r.val .mismatch)))) ∧
      (roadsOn s.toCtl = false →
        exec (.roadTrainingStart r) s = .next s ∧ exec (.roadTrainingDone r far) s = .next s) ∧
      (∀ t, x.state = .training → x.trainStart = some t → t + ms 5 ≤ now s.toCtl →
        exec (.roadTrainingTimeout r) s = .next (setCtl s (leaveUp (modRoad s.toCtl r.val fun x => { x with
          trainStart := none }) r.val .down))) ∧
      (∀ t, x.trainStart = some t → now s.toCtl < t + ms 5 → exec (.roadTrainingTimeout r) s = .next s) ∧
      ((x.state = .up ∨ x.state = .fenced ∨ x.state = .training) →
        exec (.roadSignalLost r) s = .next (setCtl s (modRoad (leaveUp s.toCtl r.val .down) r.val fun x => { x with
          fencedTx := false, fencedRx := false, trainStart := none })))) ∧
   (∀ (s : State) (r : Fin 64) (b : RoadBlock) (x : Road) (d : Ctl), x = getRoad s.toCtl r.val →
      d = countRoad s.toCtl r.val 0 b.correctedCodewords → ((x.state = .up ∨ x.state = .fenced) →
      (blockIntact b = true → identityHeld x b = true → fld b.linkA 0 4 = (x.rxAck + 1).toNat →
        exec (.roadBlockReceived r b) s = .next (setCtl s (acceptBlock d r.val b))) ∧
      (blockIntact b = true → identityHeld x b = false → exec (.roadBlockReceived r b) s = .next (setCtl s
        (if x.state = .up then retrain (markNak d r.val b) r.val else markNak d r.val b))) ∧
      (blockIntact b = false → exec (.roadBlockReceived r b) s = .next (setCtl s (nakBlock d r.val b))) ∧
      (blockIntact b = true → identityHeld x b = true → fld b.linkA 0 4 ≠ (x.rxAck + 1).toNat →
        exec (.roadBlockReceived r b) s = .next (setCtl s (nakBlock d r.val b)))) ∧
      (x.state ≠ .up → x.state ≠ .fenced → exec (.roadBlockReceived r b) s = .next s))

/-- ROUTE_RECOMPUTE, PEER_SILENCE_TIMEOUT, LIVE_TIMER, EPOCH_ROTATION and TTAG_QUARANTINE_EXPIRY (R227, R232, R237, R384): the
routes that changed are taken anew; a peer whose roads have trained, on a route that needs no relay, is lost when it was silent for
20 µs; LIVE goes to relayed peers, and those silent for 20 µs are lost; a nonce counter at 2^47 rotates the epoch; a retired tag is
free again after 40 µs. -/
def Obligations.Route_and_peer_timers : Prop :=
  ∀ (s : State) (q : Fin 32) (ttag : W16) (d : Ctl) (ps : List Nat), d = s.toCtl →
    (ps = ((List.range 32).filter fun q => q != pkgNum d && routeTo d q != ((getPeer d q).route, (getPeer d q).via)) →
      (ps ≠ [] → exec .routeRecompute s = .next (setCtl s (internalStep d .package fun d _ => forEach ps d reroute))) ∧
      (ps = [] → exec .routeRecompute s = .next s)) ∧
    ((getPeer d q.val).route ≠ .relaySrc → (getPeer d q.val).route ≠ .relayDst → (getPeer d q.val).known = true →
      (getPeer d q.val).lost = false → (getPeer d q.val).lastBlock + us 20 ≤ now d →
      exec (.peerSilenceTimeout q) s = .next (setCtl s (peerLost d q.val St.roadTimeout))) ∧
    (now d < (getPeer d q.val).lastBlock + us 20 → exec (.peerSilenceTimeout q) s = .next s) ∧
    (ps = ((livePeers d).filter fun q => (getPeer d q).route == .relaySrc || (getPeer d q).route == .relayDst) →
      ∀ e, e = forEach ps d (fun d q => sendCtrl d 0x3C q 0 0 0) →
      exec .liveTimer s = .next (setCtl s (forEach (ps.filter fun q => decide ((getPeer e q).lastLive + us 20 ≤ now e)) e
        fun d q => peerLost d q St.roadTimeout))) ∧
    (∀ x k, Tbl.find? d.tenants q.val = some x → x.roadCur = some k → x.joined = true → x.barrier = none →
      2 ^ 47 ≤ topNonce d x →
      exec (.epochRotation q) s = .next (setCtl s
        (internalStep d (.tenant x.ident.toNat) fun d _ => startBarrier d q.val 0 (k.gen + 1) 0x31))) ∧
    (∀ t, Tbl.find? (getHam d q.val).retiredTtags ttag.toNat = some t → t + us 40 ≤ now d →
      exec (.ttagQuarantineExpiry q ttag) s = .next (setCtl s (modHam d q.val fun x => { x with
        retiredTtags := Tbl.erase x.retiredTtags ttag.toNat }))) ∧
    (∀ t, Tbl.find? (getHam d q.val).retiredTtags ttag.toNat = some t → now d < t + us 40 →
      exec (.ttagQuarantineExpiry q ttag) s = .next s)

/-- VDD_AUX_CHANGE, PWR_OK_ASSERT, PWR_OK_DEASSERT, PKG_RESET_N_ASSERT, PKG_RESET_N_DEASSERT and REFCLK_RESTORED (R47, R404, R408,
R473, R476, R479, R481, R539): AUX is reached with the auxiliary supplies and left for self-test once PWR_OK and PKG_RESET_N are
both high; the loss of PWR_OK or PKG_RESET_N sets FENCED on every road, and what a die held is lost. SELFTEST_PHASE_DONE (R480,
R481, R494): phases 1 to 8 end in turn. A phase that meets no lantern condition is followed by the next, phase 5 shows Device ID
0x0040, phase 8 leads to OPERATING with READY's IBI. Up to phase 5 a lantern condition leads to lantern state with Device ID
0x0041; after it, it is latched and a full reset follows, and the latch leads to lantern state at phase 5. -/
def Obligations.Power_and_selftest : Prop :=
   (∀ (s : State) (tray : Fin 8) (slot : Fin 4) (k : Package), k = s.toCtl.pkg →
      (k.life = .off → (k.pwrOk = false ∨ k.resetN = false) → exec (.vddAuxChange true) s = .next (setCtl s (modPkg s.toCtl fun k => { k with
        vddAux := true, life := .aux }))) ∧
      exec (.vddAuxChange false) s = .next (setDev s (withCtl (clearedDev s.toDev .off) fun d => modPkg d fun k => { k with
        vddAux := false, latch := false, latchCode := 0, thermtrip := false, jtag := .idcode, boundary := 0 })) ∧
      (k.life = .aux → k.resetN = true → k.thermtrip = false →
        exec .pwrOkAssert s = .next (setCtl s (modPkg s.toCtl fun k => { k with
          pwrOk := true, life := .selftest, phase := 0, code := 0, fullStart := now s.toCtl }))) ∧
      (k.resetN = false → exec .pwrOkAssert s = .next (setCtl s (modPkg s.toCtl fun k => { k with pwrOk := true }))) ∧
      (awake s.toCtl = true →
        exec .pwrOkDeassert s = .next (setDev s (withCtl (clearedDev (withCtl s.toDev fenceRoads) .aux) fun d =>
          modPkg d fun k => { k with pwrOk := false, life := .aux, thermtrip := false }))) ∧
      (k.life = .operating →
        exec .pkgResetNAssert s = .next (setDev s (clearedDev (withCtl s.toDev fun d =>
          pushHistory (fenceRoads (modPkg d fun k => { k with resetN := false })) 1 0x80 false) .inReset))) ∧
      (k.resetN = true → exec (.pkgResetNDeassert tray slot) s = .next s) ∧
      (k.resetN = false → k.pwrOk = true → (k.life = .aux ∨ k.life = .inReset) → k.thermtrip = false →
        exec (.pkgResetNDeassert tray slot) s = .next (setCtl s (modPkg s.toCtl fun k => { k with
          resetN := true, tray := tray.val, slot := slot.val, life := .selftest, phase := 0, code := 0
          fullStart := now s.toCtl }))) ∧
      (k.refclk = false → k.life = .selftest →
        exec .refclkRestored s = .next (setDev s (clearedDev (withCtl s.toDev fun d =>
          modPkg d fun k => { k with refclk := true }) .selftest))) ∧
      (k.refclk = false → k.life = .failed → k.thermtrip = true →
        exec .refclkRestored s = .next (setDev s (withCtl (clearedDev (withCtl s.toDev fun d =>
          modPkg d fun k => { k with refclk := true }) .inReset) fun d => modPkg d fun k' => { k' with phase := k.phase })))) ∧
   (∀ (s : State) (r : PhaseResult) (n : Nat) (d : Ctl), s.toCtl.pkg.life = .selftest → s.toCtl.pkg.refclk = true →
      n = s.toCtl.pkg.phase + 1 → d = testHamlets (r.failed.foldl (unitFailed n) (phaseWork s.toCtl n)) n →
      (∀ e, e = recordPhase d n r (lanternCondition d n r) →
        (lanternCondition d n r = false → n ≠ 5 → n ≠ 8 →
          exec (.selftestPhaseDone r) s = .next (setCtl s e)) ∧
        (lanternCondition d n r = false → n = 5 → e.pkg.latch = false →
          exec (.selftestPhaseDone r) s = .next (setCtl s (modPkg e fun k => { k with deviceId := some 0x0040 }))) ∧
        (lanternCondition d n r = false → n = 5 → e.pkg.latch = true →
          exec (.selftestPhaseDone r) s = .next (setCtl s (enterLantern e e.pkg.latchCode))) ∧
        (lanternCondition d n r = false → n = 8 →
          exec (.selftestPhaseDone r) s = .next (setCtl s (raiseIbi (modPkg e fun k => { k with life := .operating }) 0x14))) ∧
        (lanternCondition d n r = true → n ≤ 5 →
          exec (.selftestPhaseDone r) s = .next (setCtl s (enterLantern e (failCode n r)))) ∧
        (lanternCondition d n r = true → 5 < n →
          exec (.selftestPhaseDone r) s = .next (setDev s (fullReset { s.toDev with
            toCtl := modPkg e fun k => { k with latch := true, latchCode := failCode n r } } 0x81 false)))))

/-- AVS_TARGET_CHANGE, I3C_STATUS_READ, I3C_DYNAMIC_ADDRESS and FLASH_OPERATION_DONE (R477, R485, R491, R492): a Field rail's target
moves from 650 to 800 mV in steps of 5 mV, once per ms, with its IBI; the status read clears what is pending; a flash operation
ends. EXTEST, IDCODE, SAMPLE_PRELOAD, CLAMP, HIGHZ and BYPASS (R533): each takes the TAP. While PKG_RESET_N is low the cells
drive the outputs under EXTEST and CLAMP, and HIGHZ frees them; while it is high no instruction moves a pin. IDCODE is
0xB00407B3. -/
def Obligations.Board_interface : Prop :=
   (∀ (s : State) (f : Fin 4) (mv : Nat) (a : BitVec 7) (d : Ctl), d = s.toCtl → i3cUp d = true →
      ((∀ t, Tbl.find? d.pkg.avsTimes f.val = some t → t + ms 1 ≤ now d) → 650 ≤ mv → mv ≤ 800 → mv % 5 = 0 →
        exec (.avsTargetChange f mv) s = .next (setCtl s (raiseIbi (modPkg d fun k => { k with
          avs := Tbl.set k.avs f.val mv, avsTimes := Tbl.set k.avsTimes f.val (now d) }) 0x11))) ∧
      (mv < 650 ∨ 800 < mv → exec (.avsTargetChange f mv) s = .next s) ∧
      exec .i3cStatusRead s = .next (setCtl s (modPkg (emit d (.i3cData (i3cStatus d))) fun k => { k with ibi := [] })) ∧
      exec (.i3cDynamicAddress a) s = .next (setCtl s (modPkg d fun k => { k with i3cAddress := some a })) ∧
      (∀ j b v rest e, d.pkg.flash = .charter j b v :: rest → e = modPkg d (fun k => { k with flash := rest }) →
        exec (.flashOperationDone true) s = .next (setCtl s (completeOrder (modPkg e (setCopy b v)) j
          (if (copyRecords v).isSome then 0 else 0x40) [])) ∧
        exec (.flashOperationDone false) s = .next (setCtl s (completeOrder e j 0x40 []))) ∧
      (∀ j b v rest e, d.pkg.flash = .firmware j b v :: rest → v ≠ [] → e = modPkg d (fun k => { k with flash := rest }) →
        exec (.flashOperationDone true) s = .next (setCtl s (completeOrder (modPkg e (setFirmware b v)) j
          (if fwLoads d.pkg.fusedSvn v then 0 else 0x40) []))) ∧
      (d.pkg.flash = [] → exec (.flashOperationDone true) s = .next s)) ∧
   (∀ (s : State) (x y : BitVec 64) (g : JtagInstr → Ctl), s.toCtl.pkg.life ≠ .off →
      (∀ i, g i = modPkg s.toCtl fun k => { k with jtag := i }) →
      exec .extest s = .next (setCtl s (g .extest)) ∧ exec .clamp s = .next (setCtl s (g .clamp)) ∧
      exec .highz s = .next (setCtl s (g .highz)) ∧
      (s.toCtl.pkg.resetN = false →
        pins (g .extest) = ⟨.scan, .scan, .scan, .scan, .scan, .scan⟩ ∧
        pins (g .clamp) = ⟨.scan, .scan, .scan, .scan, .scan, .scan⟩ ∧ pins (g .highz) = ⟨.z, .z, .z, .z, .z, .z⟩) ∧
      (s.toCtl.pkg.resetN = true → ∀ i, pins (g i) = pins (g .bypass)) ∧
      exec .bypass s = .next (setCtl s (g .bypass)) ∧
      exec .idcode s = .next (setCtl s (emit (g .idcode) (.jtagData 0xB00407B3))) ∧
      exec (.samplePreload x y) s = .next (setCtl s (emit (modPkg (g .samplePreload) fun k => { k with
        sampled := x, boundary := y }) (.jtagData x))))

/-- LINK_DOWN, LINK_UP, FLR, PERST_ASSERT and PERST_DEASSERT (R53, R78, R79, R87, R367, R479, R490): the loss of a link is a record
of detector 0x15 and takes the port from its slices; a link trains within the port's options; FLR and PERST reset the port's PF.
CONFIG_REQUEST and ATS_INVALIDATION (R24, R42, R85, R134, R481): Request Retry Status until phase 5 has ended, then the
identity, class and subsystem words and a free value for any other; an invalidated translation goes, and one of a postcard
result area is asked for again. -/
def Obligations.Host_ports : Prop :=
   (∀ (s : State) (p : Port) (rate : LinkRate) (width : LinkWidth) (d : Ctl), d = s.toCtl →
      (awake d = true → (getPort d p).linkUp = true →
        exec (.linkDown p) s = .next (setCtl s (portGone (faultRecord (modPort d p fun x => { x with linkUp := false }) 0x15 6 2
          (portNum p) 0xFF 0 0xFFFF 0) p false))) ∧
      (awake d = true → (getPort d p).linkUp = false → exec (.linkDown p) s = .next s) ∧
      (awake d = true → (getPort d p).linkUp = true → exec (.flr p) s = .next (setCtl s (portGone (modPort d p fun x =>
        { x with msix := [], pba := [], mbx := {}, wide := {}, shadow := none, laneShadow := [] }) p true))) ∧
      (∀ e, mayTrain d p = true → rate ≤ (optionsOf d p).rate → width ≤ (optionsOf d p).width →
        e = modPort d p (fun x => { x with linkUp := true, rate := rate, width := width }) →
        exec (.linkUp p rate width) s = .next (setCtl s (mirrorStep e .package 0
          (forEach (slicesWhere d fun x => x.state == .portLost && boundOn x p) e fun d i =>
            modSlice d i fun x => { x with cur := p })))) ∧
      ((mayTrain d p = false ∨ (optionsOf d p).rate < rate ∨ (optionsOf d p).width < width) →
        exec (.linkUp p rate width) s = .next s) ∧
      (d.pkg.resetN = true → awake d = true →
        exec (.perstAssert p) s = .next (setCtl s (modPort (linkLost (modPort d p fun x => { x with perst := true }) p) p
          resetFunction))) ∧
      (d.pkg.resetN = true → exec (.perstDeassert p) s = .next (setCtl s (modPort d p fun x => { x with perst := false }))) ∧
      (d.pkg.resetN = false → exec (.perstDeassert p) s = .next s)) ∧
   (∀ (s : State) (p : Port) (off : BitVec 12) (v : W32) (pasid : BitVec 20) (page : Nat) (d e : Ctl), d = s.toCtl →
      awake d = true → (getPort d p).linkUp = true →
      (d.pkg.deviceId = none → exec (.configRequest p off none) s = .next (setCtl s (emit d (.config p none)))) ∧
      (∀ i, d.pkg.deviceId = some i →
        exec (.configRequest p 0x000 none) s = .next (setCtl s (emit d (.config p (some (i ++ 0xA7F3#16)))))) ∧
      (d.pkg.deviceId.isSome = true →
        exec (.configRequest p 0x008 none) s = .next (setCtl s (emit d (.config p (some 0x120000B0)))) ∧
        exec (.configRequest p 0x02C none) s = .next (setCtl s (emit d (.config p (some 0x0D32A7F3)))) ∧
        (off ≠ 0x000 → off ≠ 0x008 → off ≠ 0x02C → exec (.configRequest p off none) s = .next (setCtl s
          (drawn (emit d (.config p (some ((Config.freeWord d.fresh).truncate 32))))))) ∧
        exec (.configRequest p off (some v)) s = .next (setCtl s
          (if off = Config.atsControl then modPort d p fun x => { x with ats := v.getLsbD 31 } else d))) ∧
      (e = emit (modPort d p fun x => { x with
          atc := x.atc.filter fun k => !(k.pasid == pasid.toNat && k.page == page) }) (.atsDone p) →
        (∀ i, atcHolds (getPort d p) pasid page = true → inResultArea d p pasid page = true → sliceOfPasid d p pasid = some i →
          exec (.atsInvalidation p pasid page) s = .next (setCtl s (holdPage (askPage e p i page) p i page))) ∧
        ((atcHolds (getPort d p) pasid page = false ∨ inResultArea d p pasid page = false) →
          exec (.atsInvalidation p pasid page) s = .next (setCtl s e))))

/-- TENANT_CLAIM, SLICE_KEY_INSTALL, SLICE_KEY_RETIRE, TENANT_STATUS and MIGRATION_ARM (R304, R305, R309, R310, R312, R313, R352):
what a well-formed trust message of an existing tenant does, its counter above the last of its session: a signature that fails
is answered 3, anything else has the message's own effect and its counter becomes the session's. The results of R310's table
that a trust message is refused with, in its order: tenant unknown 1, counter not above the last accepted 4, already claimed 2,
and 5 where its precondition fails; nothing else changes. -/
def Obligations.Trust : Prop :=
   (∀ (s : State) (p : Port) (id i : Nat) (m : Bytes) (q : SpdmSession) (b : Ctl) (x : Tenant),
      tenantById b (fld m 4 2) = some (i, x) → (∀ c, q.lastCounter = some c → c < fld m 8 4) →
      (TrustRuns s p rowClaim id m q b → x.state = .created → ∀ e y,
        e = startBarrier (forEach ((tenantHamlets (claimTenant b i m) i).filter fun h =>
          (getHam (claimTenant b i m) h).assign == .assigned) (claimTenant b i m) startFill) i 2 0 0x31 →
        Tbl.find? e.tenants i = some y →
        exec (.tenantClaim p id m) s = .next (if trustSigned rowClaim x q m then
          trustOk s p rowClaim id m q b (y.ownerDigest ++ y.claimSalt) e else trustDone s p rowClaim id m b 3 [] b)) ∧
      (TrustRuns s p rowInstall id m q b → x.state = .claimed → ∀ z, z = getSlice b (fld m 16 1) → z.state ≠ .free →
        z.tenant = i → z.state ≠ .frozen → ((z.keys.current.map EpochKeys.epoch).getD 0) < fld m 18 2 →
        exec (.sliceKeyInstall p id m) s = .next (if trustSigned rowInstall x q m then
          trustOk s p rowInstall id m q b (leBytes 4 z.incarnation.toNat ++ leBytes 1 z.gen.toNat ++ zeros 3 ++ x.claimSalt)
            (activateBound (modSlice b (fld m 16 1) fun y => installEpoch y (epochKeys x z (fld m 18 2))) (fld m 16 1))
          else trustDone s p rowInstall id m b 3 [] b)) ∧
      (TrustRuns s p rowRetire id m q b → ∀ z k, z = getSlice b (fld m 16 1) → z.state ≠ .free → z.tenant = i →
        z.keys.previous = some k → k.epoch = fld m 18 2 →
        exec (.sliceKeyRetire p id m) s = .next (if trustSigned rowRetire x q m then
          trustOk s p rowRetire id m q b [] (modSlice b (fld m 16 1) fun y => { y with
            keys := { y.keys with previous := none, emptied := y.keys.emptied ++ [emptyEpoch z k] } })
          else trustDone s p rowRetire id m b 3 [] b)) ∧
      (TrustRuns s p rowStatus id m q b →
        exec (.tenantStatus p id m) s = .next (trustOk s p rowStatus id m q b ((tenantMeasure b i x).take 48 ++
          leBytes 1 (b2n x.saltMismatch) ++ zeros 3 ++ leBytes 4 (slicesWhere b fun y => y.tenant == i).length) b)) ∧
      (TrustRuns s p rowArm id m q b → x.permitMigration = true → ∀ z, z = getSlice b (fld m 32 1) → z.state ≠ .free →
        z.tenant = i → featureOn z 10 = true →
        exec (.migrationArm p id m) s = .next (if trustSigned rowArm x q m then
          trustOk s p rowArm id m q b [] (modSlice b (fld m 32 1) fun y => { y with arm := some (sub m 16 16) })
          else trustDone s p rowArm id m b 3 [] b))) ∧
   (∀ (s : State) (p : Port) (id i : Nat) (m : Bytes) (q : SpdmSession) (b : Ctl) (x : Tenant) (c : Nat),
      (TrustRuns s p rowStatus id m q b → tenantById b (fld m 4 2) = none →
        exec (.tenantStatus p id m) s = .next (trustDone s p rowStatus id m b 1 [] b)) ∧
      (TrustRuns s p rowStatus id m q b → tenantById b (fld m 4 2) = some (i, x) → q.lastCounter = some c → fld m 8 4 ≤ c →
        exec (.tenantStatus p id m) s = .next (trustDone s p rowStatus id m b 4 [] b)) ∧
      (TrustRuns s p rowClaim id m q b → tenantById b (fld m 4 2) = some (i, x) → q.lastCounter = none → x.state = .claimed →
        exec (.tenantClaim p id m) s = .next (trustDone s p rowClaim id m b (if trustSigned rowClaim x q m then 2 else 3) [] b)) ∧
      (TrustRuns s p rowArm id m q b → tenantById b (fld m 4 2) = some (i, x) → q.lastCounter = none →
        x.permitMigration = false →
        exec (.migrationArm p id m) s = .next (trustDone s p rowArm id m b (if trustSigned rowArm x q m then 5 else 3) [] b)))

/-- GET_VERSION, GET_CAPABILITIES, NEGOTIATE_ALGORITHMS, GET_DIGESTS and GET_CERTIFICATE (R306, R307): the connection starts anew
and is negotiated in that order; the algorithms are ECDSA P-384 and SHA-384, the chain is slot 0's; one out of turn is an error.
CHALLENGE, GET_MEASUREMENTS, KEY_EXCHANGE and FINISH (R303, R306, R308, R309): on a negotiated connection each is answered with
a nonce of the device and signed by the alias key where the request asks for it; KEY_EXCHANGE makes a session, a fifth ends the
least recently used, and FINISH establishes it once the requester's verify data match. -/
def Obligations.Spdm : Prop :=
   (∀ (s : State) (p : Port) (req : Bytes) (d : Ctl) (x : PortState), d = s.toCtl → x = getPort d p → 
      (∀ rsp, rsp = [0x10, 0x04, 0, 0, 0, 1, 0x00, 0x12] → doeUp d p = true → fld req 1 1 = 0x84 → 4 ≤ req.length →
        fld req 0 1 = 0x10 →
        exec (.getVersion p req) s = .next (setCtl s (emit (modPort d p fun x => { x with
          sessions := [], spdmVersion := true, spdmCaps := false, spdmAlgs := false, spdmLog := req ++ rsp, spdmCerts := []
          spdmMeas := [] }) (.doe p rsp)))) ∧
      (∀ rsp, rsp = [0x12, 0x61, 0, 0, 0] ++ leBytes 1 Config.spdmLimits.1 ++ [0, 0] ++ leBytes 4 0x2D6 ++
          leBytes 4 Config.spdmLimits.2.1 ++ leBytes 4 Config.spdmLimits.2.2 →
        SpdmAsks d p req 0xE1 20 → x.spdmVersion = true →
        exec (.getCapabilities p req) s = .next (setCtl s (emit (modPort d p fun x => { x with
          spdmCaps := true, spdmLog := x.spdmLog ++ req ++ rsp }) (.doe p rsp)))) ∧
      (SpdmAsks d p req 0xE1 20 → x.spdmVersion = false →
        exec (.getCapabilities p req) s = .next (setCtl s (emit d (.doe p (spdmError 4 0))))) ∧
      (∀ rsp, rsp = [0x12, 0x63] ++ leBytes 1 (algStructs req).length ++ [0] ++ leBytes 2 (36 + 4 * (algStructs req).length) ++
          leBytes 1 (fld req 6 1 % 2) ++ leBytes 1 (fld req 7 1 / 2 % 2 * 2) ++ leBytes 4 1 ++ leBytes 4 0x80 ++ leBytes 4 2 ++
          zeros 16 ++ (algStructs req).flatMap (fun a => leBytes 1 a.1 ++ [0x20] ++ leBytes 2 a.2) →
        SpdmAsks d p req 0xE3 32 → x.spdmVersion = true → x.spdmCaps = true → bitOf (fld req 8 4) 7 = true →
        bitOf (fld req 12 4) 1 = true →
        exec (.negotiateAlgorithms p req) s = .next (setCtl s (emit (modPort d p fun x => { x with
          spdmAlgs := true, spdmLog := x.spdmLog ++ req ++ rsp }) (.doe p rsp)))) ∧
      (∀ rsp, rsp = [0x12, 0x01, 0, 1] ++ sha384 (certChain d) → SpdmAsks d p req 0x81 4 → negotiated d p = true →
        exec (.getDigests p req) s = .next (setCtl s (emit (modPort d p fun x => { x with
          spdmCerts := x.spdmCerts ++ req ++ rsp }) (.doe p rsp)))) ∧
      (∀ part rsp, part = sub (certChain d) (fld req 4 2) (fld req 6 2) →
        rsp = [0x12, 0x02, 0, 0] ++ leBytes 2 part.length ++
          leBytes 2 ((certChain d).length - fld req 4 2 - part.length) ++ part →
        SpdmAsks d p req 0x82 8 → negotiated d p = true → fld req 2 1 = 0 →
        exec (.getCertificate p req) s = .next (setCtl s (if (certChain d).length ≤ fld req 4 2 then emit d (.doe p (spdmError 1 0))
          else emit (modPort d p fun x => { x with spdmCerts := x.spdmCerts ++ req ++ rsp }) (.doe p rsp))))) ∧
   (∀ (s : State) (p : Port) (req : Bytes) (d : Ctl) (x : PortState), d = s.toCtl → x = getPort d p → negotiated d p = true →
      (∀ rsp, rsp = [0x12, 0x03, 0, 1] ++ sha384 (certChain d) ++ drawBytes d 32 ++ measureSummary d (fld req 3 1) ++ [0, 0] →
        SpdmAsks d p req 0x83 36 → fld req 2 1 = 0 →
        exec (.challenge p req) s = .next (setCtl s (emit (drawn (modPort d p fun x => { x with spdmCerts := [] }))
          (.doe p (rsp ++ spdmSign d "responder-challenge_auth signing" (x.spdmLog ++ x.spdmCerts ++ req ++ rsp)))))) ∧
      (∀ l rsp, measureAsked d (fld req 3 1) = some l →
        rsp = [0x12, 0x60] ++ leBytes 1 (if fld req 3 1 = 0 then (measureIndices d).length else 0) ++ [0] ++ leBytes 1 l.length ++
          leBytes 3 (measureRecord d l).length ++ measureRecord d l ++ drawBytes d 32 ++ [0, 0] →
        SpdmAsks d p req 0xE0 4 →
        (bitOf (fld req 2 1) 0 = false →
          exec (.getMeasurements p req) s = .next (setCtl s (emit (drawn (modPort d p fun x => { x with
            spdmMeas := (getPort d p).spdmMeas ++ req ++ rsp })) (.doe p rsp)))) ∧
        (bitOf (fld req 2 1) 0 = true → 37 ≤ req.length → fld req 36 1 = 0 →
          exec (.getMeasurements p req) s = .next (setCtl s (emit (drawn (modPort d p fun x => { x with spdmMeas := [] }))
            (.doe p (rsp ++ spdmSign d "responder-measurements signing" (x.spdmLog ++ (x.spdmMeas ++ req ++ rsp)))))))) ∧
      (∀ rsp sec t sig, rsp = [0x12, 0x64, 0, 0] ++ leBytes 2 x.nextSession ++ [0, 0] ++ drawBytes d 32 ++
          ecPublic (Config.ephemeralScalar d.fresh) ++ measureSummary d (fld req 2 1) ++ [0, 0] →
        sec = ecShared (Config.ephemeralScalar d.fresh) (sub req 40 96) → t = x.spdmLog ++ sha384 (certChain d) ++ req ++ rsp →
        sig = spdmSign d "responder-key_exchange_rsp signing" t →
        SpdmAsks d p req 0xE4 138 → fld req 3 1 = 0 → ecKeyValid (sub req 40 96) = true →
        ∀ v, v = hmac384 (finishedKey sec (t ++ sig) "rsp hs data") (sha384 (t ++ sig)) →
        exec (.keyExchange p req) s = .next (setCtl s (emit (drawn (addSession d p {
          id := fld req 4 2 + 2 ^ 16 * x.nextSession, transcript := t ++ sig ++ v, secret := sec, used := now d }))
            (.doe p (rsp ++ sig ++ v))))) ∧
      (∀ n m, m = req.drop 4 → SpdmAsks d p m 0xE5 52 →
        (x.sessions.find? fun n => n.id == fld req 0 4 && !n.established) = some n →
        exec (.finish p req) s = .next (setCtl s
          (if hmac384 (finishedKey n.secret (exchanged n.transcript) "req hs data") (sha384 (n.transcript ++ m.take 4)) = sub m 4 48
            then emit (modSession d p (fld req 0 4) fun n => { n with
              established := true, transcript := sha384 (n.transcript ++ m ++ [0x12, 0x65, 0, 0]), secret := [], used := now d })
              (.doe p [0x12, 0x65, 0, 0])
            else emit d (.doe p (spdmError 6 0))))) ∧
      (∀ m, m = req.drop 4 → SpdmAsks d p m 0xE5 52 →
        (x.sessions.find? fun n => n.id == fld req 0 4 && !n.established) = none →
        exec (.finish p req) s = .next (setCtl s (emit d (.doe p (spdmError 2 (fld req 0 4)))))))

/-- PTP_ANNOUNCE, PTP_SYNC and PTP_FOLLOW_UP (R459 to R462): the better master is followed, a one-step Sync is measured at once, a
two-step one when the Follow_Up of its sequence comes; other messages change nothing. PTP_DELAY_REQ_TIMER, PTP_DELAY_RESP,
PTP_PDELAY_REQ, PTP_PDELAY_RESP and PTP_PDELAY_RESP_FOLLOW_UP (R459): a delay request leaves with its transmit time, and its
answer gives the mean path delay, end to end from the last Sync, peer to peer from the answer's own times; a Pdelay_Req is
answered in two steps. -/
def Obligations.Ptp_messages : Prop :=
   (∀ (s : State) (hd : PtpHeader) (a b : PtpAnnounceBody) (t : PtpTime) (d e : Ctl) (p : PtpState), d = s.toCtl → p = d.time.ptp →
      ptpOurs d hd = true →
      (a.ptpTimescale = true → p.master = none →
        exec (.ptpAnnounce hd a) s = .next (setCtl s (modTime d fun t => { t with
          gmId := a.gmId, utcOffset := a.utcOffset, utcValid := a.utcValid
          ptp := { t.ptp with
            master := some a, masterPort := hd.source, lastAnnounce := some t.interval, announceInterval := hd.logInterval
            pendingSync := if hd.source == p.masterPort then t.ptp.pendingSync else none } }))) ∧
      (a.ptpTimescale = true → p.master = some b → hd.source ≠ p.masterPort → betterMaster a hd.source b p.masterPort = true →
        e = modTime d (fun t => { t with
          gmId := a.gmId, utcOffset := a.utcOffset, utcValid := a.utcValid
          ptp := { t.ptp with
            master := some a, masterPort := hd.source, lastAnnounce := some t.interval, announceInterval := hd.logInterval
            pendingSync := none } }) →
        exec (.ptpAnnounce hd a) s = .next (setCtl s (if b.gmId ≠ a.gmId ∧ d.time.source = .ptp then changeSource e .ptp else e))) ∧
      (p.master = some b → hd.source ≠ p.masterPort → announceLate d = false → betterMaster a hd.source b p.masterPort = false →
        exec (.ptpAnnounce hd a) s = .next s) ∧
      (p.master = some b → hd.source = p.masterPort → -7 ≤ hd.logInterval → hd.logInterval ≤ 0 →
        (hd.twoStep = true → exec (.ptpSync hd t) s = .next (setCtl s (modPtp d fun p => { p with
          lastSync := some (now d), syncInterval := hd.logInterval
          pendingSync := some (hd.seq.toNat, devNow d, hd.correction) }))) ∧
        (hd.twoStep = false → exec (.ptpSync hd t) s = .next (setCtl s (ptpMeasure (modPtp d fun p => { p with
          lastSync := some (now d), syncInterval := hd.logInterval, pendingSync := none }) t.ns (devNow d) hd.correction)))) ∧
      ((hd.source ≠ p.masterPort ∨ p.master = none ∨ 0 < hd.logInterval ∨ hd.logInterval < -7) →
        exec (.ptpSync hd t) s = .next s) ∧
      (∀ rx c, hd.source = p.masterPort → p.pendingSync = some (hd.seq.toNat, rx, c) →
        exec (.ptpFollowUp hd t) s = .next (setCtl s (ptpMeasure (modPtp d fun p => { p with pendingSync := none }) t.ns rx
          (c + hd.correction)))) ∧
      (p.pendingSync = none → exec (.ptpFollowUp hd t) s = .next s)) ∧
   (∀ (s : State) (hd : PtpHeader) (t : PtpTime) (d : Ctl) (p : PtpState) (t1 t2 t4 : W64), d = s.toCtl → p = d.time.ptp →
      ptpOurs d hd = true →
      ((d.time.peerDelay = true ∨ p.master.isSome = true) →
        exec .ptpDelayReqTimer s = .next (setCtl s (emit (modPtp d fun p => { p with
          pendingDelay := some (p.nextDelaySeq, devNow d), pendingPdelay := none, nextDelaySeq := (p.nextDelaySeq + 1) % 65536 })
          (.ptp (b2n d.time.peerDelay) p.nextDelaySeq)))) ∧
      (d.time.peerDelay = false → p.master = none → exec .ptpDelayReqTimer s = .next s) ∧
      (∀ o rx, d.time.peerDelay = false → p.pendingDelay = some (hd.seq.toNat, t1) → p.lastPair = some (o, rx) →
        hd.source = p.masterPort →
        exec (.ptpDelayResp hd t) s = .next (setCtl s (if t.requester = Config.clockIdentity then modPtp d fun p => { p with
          delay := (rx - o + ((t.ns - t1).toInt * 1000 - hd.correction * 1000 / 65536)) / 2, pendingDelay := none } else d))) ∧
      (d.time.peerDelay = true → exec (.ptpPdelayReq hd t) s = .next (setCtl s
        (emit (emit d (.ptp 2 hd.seq.toNat)) (.ptp 3 hd.seq.toNat)))) ∧
      (d.time.peerDelay = false → exec (.ptpPdelayReq hd t) s = .next s) ∧
      (d.time.peerDelay = true → p.pendingDelay = some (hd.seq.toNat, t1) →
        (hd.twoStep = true → exec (.ptpPdelayResp hd t) s = .next (setCtl s
          (if t.requester = Config.clockIdentity then modPtp d fun p => { p with
            pendingDelay := none, pendingPdelay := some (hd.seq.toNat, t1, t.ns, devNow d, hd.correction) } else d))) ∧
        (hd.twoStep = false → exec (.ptpPdelayResp hd t) s = .next (setCtl s
          (if t.requester = Config.clockIdentity then modPtp d fun p => { p with
            pendingDelay := none, delay := ((devNow d - t1).toInt * 1000 - hd.correction * 1000 / 65536) / 2 } else d)))) ∧
      (∀ c, d.time.peerDelay = true → p.pendingPdelay = some (hd.seq.toNat, t1, t2, t4, c) →
        exec (.ptpPdelayRespFollowUp hd t) s = .next (setCtl s
          (if t.requester = Config.clockIdentity then modPtp d fun p => { p with
            pendingPdelay := none
            delay := ((t4 - t1).toInt * 1000 - (t.ns - t2).toInt * 1000 - (c + hd.correction) * 1000 / 65536) / 2 } else d))))

/-- PPS_IN_EDGE, PPS_OUT_SECOND and PPS_OUT_FALL (R467, R468): an edge is captured; one that is not 1 s ± 1 µs after the last is a
glitch; a valid one marks its second and is measured where PPS is the source. The output rises at each whole second while the
unit is LOCKED or in HOLDOVER, and falls 100 ms later. SOURCE_LOST_TIMEOUT, HOLDOVER_LIMIT, TIME_PROBE_TIMER and BACKUP_TAKEOVER
(R239, R241, R458, R464, R465): a silent source is lost, PPS falling back to PTP where both are configured, and a
PPS_IN that is not in use loses its validity when silent; HOLDOVER past its
limit is FREERUN; a follower probes its leader; the BACKUP of a lost leader becomes LEADER and acquires its own source. -/
def Obligations.Pps_and_time_sources : Prop :=
   (∀ (s : State) (d e : Ctl), d = s.toCtl →
      (d.pkg.life = .operating → edgeValid d = false →
        exec .ppsInEdge s = .next (setCtl s (modTime d fun x => { x with
          ppsIn := devNow d, ppsGlitch := addCount x.ppsGlitch 1 }))) ∧
      (d.pkg.life = .operating → edgeValid d = true → ∀ n off, n = edgeSecond d →
        off = (BitVec.ofNat 64 (n * 1000000000) - devNow d).toInt * 1000 →
        e = checkPps (modTime d fun x => { x with
          ppsIn := devNow d, ppsLast := some x.interval, ppsValid := true, ppsLabel := some (n + 1) }) off →
        exec .ppsInEdge s = .next (setCtl s (if namedSource e.time = .pps then measure e .pps 0 off else e))) ∧
      (d.pkg.life ≠ .operating → exec .ppsInEdge s = .next s) ∧
      (∀ n, n = (devNow d).toNat / 1000000000 → d.time.ppsOutEn = true → (d.time.state = .locked ∨ d.time.state = .holdover) →
        (devNow d).toNat % 1000000000 < 4 → d.time.ppsOutTime.toNat / 1000000000 ≠ n →
        exec .ppsOutSecond s = .next (setCtl s (modTime d fun t => { t with
          ppsOut := true, ppsOutTime := BitVec.ofNat 64 (n * 1000000000) }))) ∧
      ((d.time.ppsOutEn = false ∨ (d.time.state ≠ .locked ∧ d.time.state ≠ .holdover)) → exec .ppsOutSecond s = .next s) ∧
      (d.time.ppsOut = true → timeLe (d.time.ppsOutTime + 100000000) (devNow d) = true →
        exec .ppsOutFall s = .next (setCtl s (modTime d fun t => { t with ppsOut := false }))) ∧
      (timeLe (d.time.ppsOutTime + 100000000) (devNow d) = false → exec .ppsOutFall s = .next s)) ∧
   (∀ (s : State) (d e : Ctl), d = s.toCtl →
      (d.time.source = .ptp → (announceLate d = true ∨ syncLate d = true) →
        exec .sourceLostTimeout s = .next (setCtl s (sourceLost (losePps d)))) ∧
      (d.time.source = .ptp → announceLate d = false → syncLate d = false →
        exec .sourceLostTimeout s = .next (setCtl s (losePps d))) ∧
      (d.time.source = .leader → repliesMissing d = true →
        exec .sourceLostTimeout s = .next (setCtl s (sourceLost (losePps d)))) ∧
      (e = modTime d (fun t => { t with ppsLast := none, ppsValid := false, ppsLabel := none }) → d.time.source = .pps →
        edgesMissing d = true →
        (d.time.config = 2 → d.time.ptp.master.isSome = true → announceLate d = false →
          exec .sourceLostTimeout s = .next (setCtl s (changeSource e .ptp))) ∧
        (d.time.config = 1 → exec .sourceLostTimeout s = .next (setCtl s (sourceLost e)))) ∧
      (d.time.state = .holdover → d.time.holdoverStart + sec d.time.holdoverLimit ≤ now d →
        exec .holdoverLimit s = .next (setCtl s (enterState d .freerun false false))) ∧
      (now d < d.time.holdoverStart + sec d.time.holdoverLimit → exec .holdoverLimit s = .next s) ∧
      (∀ q r, d.pkg.life = .operating → d.pkg.warm = none → follows d.time = true → q = timeLeader d → q ≠ pkgNum d →
        probeRoad d q = some r →
        exec .timeProbeTimer s = .next (setCtl s (sendOn (modTime d fun t => { t with probe := some (devNow d, t.steps) }) r false 3
          0x3A (timeMsg d q (devNow d) 0)))) ∧
      (follows d.time = false → exec .timeProbeTimer s = .next s) ∧
      (d.time.role = .backup → (getPeer d d.time.leader).lost = true → d.pkg.life = .operating → ∀ src id,
        src = ownSource { d.time with role := .leader, leader := pkgNum d, backup := none } →
        id = (if src = .pps then some 0 else d.time.ptp.master.map fun _ => d.time.gmId.toNat) →
        exec .backupTakeover s = .next (setCtl s (internalStep d .package fun d _ => enterState (modTime d fun t => { t with
          role := .leader, leader := pkgNum d, backup := none
          before := if t.state = .acquiring then t.before else t.state, source := src, lastSource := id.map fun n => (src, n)
          predicted := none, overStreak := 0 }) .acquiring false true))) ∧
      ((getPeer d d.time.leader).lost = false → exec .backupTakeover s = .next s))

/-- A step takes the command at the front of the queue and runs it on the state with the queue's rest. -/
def Obligations.Step_runs_the_front_command : Prop :=
  ∀ (s : State) (c : Instr) (rest : List Instr), s.pending = c :: rest → step s = exec c { s with pending := rest }

/-- On an empty queue one HCLK cycle passes (the model's choice, log 1): where clocks run, interval and device time advance by 1 ns,
in every fourth cycle with the servo's rate on top; then each host port ends the transmission in progress, the link words due leave
on the roads, and free carters and engines take sheaves. Where no transmission, link word or sheaf waits, time alone changes; where
clocks do not run, nothing does. -/
def Obligations.Empty_queue_lets_time_pass : Prop :=
  ∀ (s : State) (t : TimeUnit) (inc : Int), s.pending = [] → t = s.toCtl.time →
    inc = 2 ^ 32 + (if t.tclk = 3 then t.rate else 0) →
    (awake s.toCtl = true → s.toCtl.pkg.refclk = true → ∀ e : Ctl, e = (modTime s.toCtl fun t => { t with
        tclk := if t.tclk = 3 then 0 else t.tclk + 1, interval := t.interval + inc.toNat
        device := t.device + BitVec.ofInt 96 inc }) →
      step s = .next (setCtl s (serveSheaves (sendLinks (portSends (portSends e .ha) .hb)))) ∧
      (s.toCtl.portA.tx = [] → s.toCtl.portB.tx = [] → s.toCtl.roads.all (fun x => !x.2.linkDue) = true → s.toCtl.sheaves = [] →
        step s = .next (setCtl s e)) ∧
      (∀ t l, s.toCtl.portA.tx = t :: l → portSends e .ha = emit (modPort e .ha fun x => { x with tx := l }) t.act)) ∧
    ((awake s.toCtl = false ∨ s.toCtl.pkg.refclk = false) → step s = .next s)

/-- What a full reset leaves, and the reset state with it (R404, R419, R450, R452, R456, R473, R497): no tenant, slice, model,
context, command, job or gleanings record, no byte of memory; mailboxes IDLE, time UNSET at 0, the ledger UNCOMMITTED, an empty
journal, no pending interrupt; straps, flash copies and the latch stay. -/
def Obligations.Full_reset_clears : Prop :=
  (State.reset.pending = [] ∧ State.reset.mem = [] ∧ State.reset.toCtl.slices = [] ∧ State.reset.toCtl.tenants = [] ∧
    State.reset.toCtl.pkg.life = .selftest ∧ State.reset.toCtl.time.state = .unset ∧ State.reset.toCtl.time.device = 0 ∧
    State.reset.toCtl.ledger.state = 0 ∧ State.reset.toCtl.reeve.journal = []) ∧
  ∀ (d : Dev) (cause : Nat) (counted : Bool) (e : Dev), e = fullReset d cause counted →
    e.tenants = [] ∧ e.slices = [] ∧ e.models = [] ∧ e.contexts = [] ∧ e.cmds = [] ∧ e.jobs = [] ∧ e.gleanings = [] ∧
    e.mem = [] ∧ e.poison = [] ∧ (∀ p, (getPort e.toCtl p).mbx = {} ∧ (getPort e.toCtl p).msix = []) ∧
    e.time.state = .unset ∧ e.time.device = 0 ∧ e.ledger.state = 0 ∧ e.reeve.journal = [] ∧ e.reeve.alert = 0 ∧
    e.pkg.life = .selftest ∧ e.pkg.tray = d.pkg.tray ∧ e.pkg.slot = d.pkg.slot ∧ e.pkg.copyA = d.pkg.copyA ∧
    e.pkg.copyB = d.pkg.copyB ∧ e.pkg.latch = d.pkg.latch

/-- The byte memory of the reset state is in its canonical form. -/
def Obligations.Reset_memory_is_canonical : Prop :=
  MemOk State.reset

/-- Every step keeps the byte memory in its canonical form: addresses rise strictly and no listed byte is the value an unlisted
address reads. -/
def Obligations.Memory_stays_canonical : Prop :=
  ∀ s s' : State, MemOk s → step s = .next s' → MemOk s'

/-- Every command completes in every state, with a next state that keeps the queue of waiting commands; only the commands that
`touchesMemory` names can change byte memory or poison, all others change control state alone. -/
def Obligations.Every_command_completes : Prop :=
  ∀ (c : Instr) (s : State),
    (∃ d : Dev, exec c s = .next (setDev s d)) ∧ (touchesMemory c = false → ∃ d : Ctl, exec c s = .next (setCtl s d))

/-- The output pins in every state (R377, R468, R473, R528): READY is never high while FAULT_N is low; READY is high exactly when an
operating package is neither in a warm reset nor out of service; LANTERN marks lantern state; before phase 1 has ended and in
reset no pin is driven but a latched THERMTRIP_N, and under THERMTRIP after phase 1 every pin is low (R527). -/
def Obligations.Output_pins : Prop :=
  ∀ (s : State) (k : Package), k = s.toCtl.pkg →
    PinsOk s ∧
    (k.resetN = true → k.thermtrip = false →
      ((pins s.toCtl).ready = .high ↔ isReady s.toCtl = true) ∧
      ((pins s.toCtl).lantern = .high ↔ k.life = .lantern) ∧
      (k.life = .operating → ((pins s.toCtl).faultN = .low ↔ k.outOfService = true)) ∧
      (awake s.toCtl = false → pins s.toCtl = ⟨.z, .z, .z, .z, .z, .z⟩)) ∧
    (k.life ≠ .off → k.resetN = true → k.thermtrip = true →
      (k.phase ≠ 0 → pins s.toCtl = ⟨.low, .low, .low, .low, .low, .low⟩) ∧
      (k.phase = 0 → pins s.toCtl = ⟨.z, .z, .z, .z, .low, .z⟩))

/-- The receive checks of R229, for a message that is not to be forwarded: the first check that fails drops the message, and its
counter RD_MISROUTE, RD_TENANT_DROPS, RD_EPOCH_DROPS, RD_TAG_DROPS, RD_JOB_DROPS, RD_STALE_DROPS or RD_DUP_DROPS counts it;
steps 3 and 4 raise an event with the tenant masked. -/
def Obligations.Receive_checks : Prop :=
  ∀ (s : State) (r : Fin 64) (m : RoadMsg) (e f : Ctl) (n : Nat), roadTakes s.toCtl r.val 0x01 m = true →
    fromLost s.toCtl r.val m = false → relayRoad s.toCtl r.val m = none → e = consume s.toCtl r.val 0x01 m →
    f = roadEvent (countRoad e r.val n 1) r.val 1 (((tenantById (countRoad e r.val n 1) m.tenant.toNat).map fun e =>
      e.2.handle.toNat).getD 0) →
    (endPkg m.dst.toNat ≠ pkgNum s.toCtl → exec (.rd r m) s = .next (setCtl s (countRoad e r.val 3 1))) ∧
    (endPkg m.dst.toNat = pkgNum s.toCtl →
      (destOk s.toCtl 0x01 m = false → exec (.rd r m) s = .next (setCtl s (countRoad e r.val 4 1))) ∧
      (destOk s.toCtl 0x01 m = true → epochOk s.toCtl m = false → n = 5 →
        exec (.rd r m) s = .next (setCtl s f)) ∧
      (destOk s.toCtl 0x01 m = true → epochOk s.toCtl m = true → openMsg s.toCtl 0x01 m = none → n = 6 →
        exec (.rd r m) s = .next (setCtl s f)) ∧
      (destOk s.toCtl 0x01 m = true → epochOk s.toCtl m = true → (openMsg s.toCtl 0x01 m).isSome = true →
        (isDead s.toCtl m = true → exec (.rd r m) s = .next (setCtl s (countRoad e r.val 7 1))) ∧
        (isDead s.toCtl m = false → isStale s.toCtl m = true →
          exec (.rd r m) s = .next (setCtl s (countRoad e r.val 8 1))) ∧
        (isDead s.toCtl m = false → isStale s.toCtl m = false → isDuplicate s.toCtl r.val m = true →
          exec (.rd r m) s = .next (setCtl s (countRoad e r.val 9 1))))) ∧
    (∀ v : RoadMsg, roadTakes s.toCtl r.val 0x01 v = false → exec (.rd r v) s = .next s) ∧
    (∀ v : RoadMsg, roadTakes s.toCtl r.val 0x01 v = true → fromLost s.toCtl r.val v = true →
      exec (.rd r v) s = .next (setCtl s (consume s.toCtl r.val 0x01 v)))

/-- The arrival of orders (R425, R429, R433, R434, R515), by instances, and ORDER_START: MB_FAULT_LOG_READ in lantern state is
UNKNOWN, MB_OWNER_MAP_SET from a PF is DENIED, MB_IDENTIFY with an argument is MALFORMED, the loser of an MCLK cycle is SUPERSEDED
with the winner's sequence, an FM_RELAY envelope whose tag does not verify is answered AUTH without a journal entry, and MB_IDENTIFY
behind an unfinished order on the package is WAITING. A waiting order starts once no earlier order on its object is unfinished and
none on it executes, and not before; an order that is not waiting is not started. -/
def Obligations.Order_arrival : Prop :=
  ∀ (s : State) (a : Bytes) (d : Ctl) (src : OrderSource), d = s.toCtl → reeveUp d = true →
    (d.pkg.life = .lantern → sourceHolds d 0x0004 a src = true →
      exec (.mbFaultLogRead src) s = .next (orderRefused s src 0x0004 a 0x11 [])) ∧
    (∀ p, d.pkg.life = .operating → sourceHolds d 0x0107 a (.pf p) = true →
      exec (.mbOwnerMapSet (.pf p)) s = .next (orderRefused s (.pf p) 0x0107 a 0x12 [])) ∧
    (∀ p, sourceHolds d 0x0001 a (.pf p) = true → a ≠ [] →
      exec (.mbIdentify (.pf p)) s = .next (orderRefused s (.pf p) 0x0001 a 0x10 [])) ∧
    (∀ p w, sourceHolds d 0x0001 [] (.pf p) = true → winner d (pfMaster p) 0x0001 .package = some w →
      exec (.mbIdentify (.pf p)) s = .next (orderRefused s (.pf p) 0x0001 [] 3 (leBytes 4 w))) ∧
    (∀ p e, sourceHolds d 0x0001 [] (.pf p) = true → winner d (pfMaster p) 0x0001 .package = none →
      e = enter (takeMailbox d p) (orderEntry d (.pf p) (pfMaster p) 0x0001 [] (.ok [])) →
      (blockers e d.reeve.nextJseq .package).isEmpty = false →
      exec (.mbIdentify (.pf p)) s = .next (setCtl s (modEntry e d.reeve.nextJseq fun x => { x with state := .waiting }))) ∧
    (∀ e, e.channel = .fmRelay → chanOrder d .fmRelay = none → allZero e.tag = false → envelopeOk d 0x0001 e = false →
      exec (.mbIdentify (.env e)) s = .next (setCtl s (sendEnvelope d .fmRelay
        (responseEnvelope d .fmRelay 0x0001 0x13 e.cookie e.counter 0 [])))) ∧
    (∀ j e, Tbl.find? d.reeve.journal j = some e → e.state = .waiting →
      (∀ b ∈ blockers d j e.obj, j ≤ b.1 ∧ b.2.state ≠ .executing) →
      exec (.orderStart j) s = .next (setDev s (runFullReset (withCtl s.toDev fun d => startWaiting d s.mem j e)))) ∧
    (∀ j e, Tbl.find? d.reeve.journal j = some e → (∃ b ∈ blockers d j e.obj, b.1 < j ∨ b.2.state = .executing) → exec (.orderStart j) s = .next s) ∧
    (∀ j e, Tbl.find? d.reeve.journal j = some e → e.state ≠ .waiting → exec (.orderStart j) s = .next s)

/-- R205: a package's roads are numbered 0 to 63 and road n lies on Field n / 16; to the peer at offset d = (q − p) mod 32, from 1
to 31, go roads 2(d − 1) and 2(d − 1) + 1, both on Field (d − 1) / 8; roads 62 and 63 are the reserve roads, on Field 3, to
package p XOR 1. -/
def Obligations.Road_numbering : Prop :=
  ∀ p q : Fin 32, q ≠ p → ∀ d, d = peerOffset p.val q.val →
    d = (q.val + 32 - p.val) % 32 ∧ 1 ≤ d ∧ d ≤ 31 ∧
    meshRoad p.val q.val 0 = 2 * (d - 1) ∧ meshRoad p.val q.val 1 = 2 * (d - 1) + 1 ∧
    (∀ r, roadField r = r / 16) ∧
    (∀ c : Fin 2, meshRoad p.val q.val c.val < 62 ∧ isReserve (meshRoad p.val q.val c.val) = false ∧
      roadPeer p.val (meshRoad p.val q.val c.val) = q.val ∧ roadField (meshRoad p.val q.val c.val) = (d - 1) / 8) ∧
    (∀ r : Fin 64, 62 ≤ r.val → isReserve r.val = true ∧ roadField r.val = 3 ∧ roadPeer p.val r.val = p.val ^^^ 1)

/-- Cabling and croft numbering (R29, R30, R45, R206): the far end of a road is a road back to this package; logical crofts ascend
with the physical crofts in service, each maps back to its physical croft, and there are at most 12. -/
def Obligations.Cabling_and_crofts : Prop :=
  (∀ (p : Fin 32) (r : Fin 64), farRoadOf r.val < 64 ∧ farRoadOf (farRoadOf r.val) = r.val ∧
    roadPeer (roadPeer p.val r.val) (farRoadOf r.val) = p.val) ∧
  ∀ (x : Hamlet), croftCount x ≤ 12 ∧
    (∀ j k a b, j < k → physCroft x j = some a → physCroft x k = some b → a < b) ∧
    (∀ k c, physCroft x k = some c ↔ logCroft x c = some k) ∧
    (∀ k c, physCroft x k = some c → x.badCrofts.contains c = false ∧ c ≤ 12)

/-- The registers of a lane window show their own slice alone (R64): SLICE_BUSY is 1 exactly while the slice's accepted commands
hold as many credits as it has, and two package states that agree on a slice, on its accepted commands, on the package's state
and on device time show the same words in every lane window of that slice. -/
def Obligations.Lane_windows_show_their_slice : Prop :=
  ∀ (d e : Ctl) (src : RegSource) (i : Fin 256) (l : Fin 64) (o : BitVec 10) (off : Nat),
    ((getLane d i.val l.val).state ≠ .disabled → ((lnStatus d i.val l.val).testBit 3 = true ↔
      (getSlice d i.val).credits ≤ ((sliceCmds d i.val).filter fun c => c.2.credit).length)) ∧
    (getSlice d i.val = getSlice e i.val → sliceCmds d i.val = sliceCmds e i.val → d.pkg.life = e.pkg.life →
      devNow d = devNow e →
      liveWord d src (.bar0 i l o) off = liveWord e src (.bar0 i l o) off ∧
      livePair d src (.bar0 i l o) off = livePair e src (.bar0 i l o) off)

/-- Sealing and the collision table (R92, R95, R438): what is sealed under a key and nonce opens to itself, and only under its own
tag; a field's value after a software write and a hardware update is the table's. -/
def Obligations.Seals_and_collisions : Prop :=
  (∀ (key iv aad plain tag : Bytes),
    gcmOpen key iv aad (gcmSeal key iv aad plain).1 (gcmSeal key iv aad plain).2 = some plain ∧
    (tag ≠ gcmTag key iv aad plain → gcmOpen key iv aad plain tag = none)) ∧
  ∀ (k old v n : Nat) (m : W64) (sw : Option Nat), old < 2 ^ k →
    (∀ b, b < k → v.testBit b = true → m.toNat.testBit b = true → (collide .w1c k old (some v) (.set m)).testBit b = true) ∧
    (∀ b, b < k → v.testBit b = true → m.toNat.testBit b = false → (collide .w1c k old (some v) (.set m)).testBit b = false) ∧
    collide .counter k old (some v) (.inc n) = satAdd k (v % 2 ^ k) n ∧
    collide .goBit k old (some 1) .complete = 1 ∧ collide .faultCleared k old sw .faultClear = 0 ∧
    collide .hwStatus k old sw (.value m) = m.toNat % 2 ^ k ∧ collide .readOnly k old sw (.value m) = old

/-- The frame of register reads and of the mailbox, wide mailbox and ledger strobes: nothing but the outputs, the ports' and the
Reeve's registers changes. The frame of the time events that take no measurement, where no slice is ACTIVE or ATS is off on both
ports, so that no event's translation can fail: tenants, models, contexts, commands, hamlets, tallies, roads, peers and the ledger
stay as they are; memory too. -/
def Obligations.Register_and_time_frames : Prop :=
   (∀ (s s' : State) (c : Instr) (src : RegSource) (p : Port) (a : RegAddr) (width : Nat) (k : Byte) (i : W16),
      (c = .shadowLoRead src a width ∨ c = .shadowHiRead src a width ∨ c = .mbxAck p ∨ c = .wideReq src k i ∨ c = .wideAck src) →
      exec c s = .next s' →
      s' = setCtl s { s.toCtl with
        out := s'.toCtl.out, portA := s'.toCtl.portA, portB := s'.toCtl.portB, reeve := s'.toCtl.reeve }) ∧
   (∀ (s s' : State) (c : Instr) (hd : PtpHeader) (a : PtpAnnounceBody) (t : PtpTime),
      ((∀ i, (getSlice s.toCtl i).state ≠ .active) ∨ s.toCtl.portA.ats = false ∧ s.toCtl.portB.ats = false) →
      (c = .ptpAnnounce hd a ∨ c = .ptpDelayReqTimer ∨ c = .ptpDelayResp hd t ∨ c = .ptpPdelayReq hd t ∨ c = .ptpPdelayResp hd t ∨
        c = .ptpPdelayRespFollowUp hd t ∨ c = .ppsOutSecond ∨ c = .ppsOutFall ∨ c = .sourceLostTimeout ∨ c = .holdoverLimit) →
      exec c s = .next s' →
      s' = setCtl s { s.toCtl with
        out := s'.toCtl.out, time := s'.toCtl.time, slices := s'.toCtl.slices, reeve := s'.toCtl.reeve, pkg := s'.toCtl.pkg
        portA := s'.toCtl.portA, portB := s'.toCtl.portB })

/-- The frame of LN_SQ_TAIL_WRITE, LN_CQ_HEAD_WRITE and POSTCARD_SLOT_WRITE to a lane of slice i: of no other slice anything changes
but, where a postcard refills the lane's state, the cache way of a lane evicted for it (R28, R134); and of the rest only the
outputs, the ports' queues, the table of accepted commands and the count of draws do. A doorbell or ring head changes no other
slice and accepts no command. -/
def Obligations.Submission_frame : Prop :=
  ∀ (s s' : State) (c : Instr) (p : Port) (i j : Fin 256) (l : Fin 64) (v : W32) (k : Fin 3) (off : Fin 256) (bs : Bytes),
    (c = .lnSqTailWrite p i l v ∨ c = .lnCqHeadWrite p i l v ∨ c = .postcardSlotWrite p i l k off bs) → exec c s = .next s' →
    (j ≠ i → { getSlice s'.toCtl j.val with lanes := [] } = { getSlice s.toCtl j.val with lanes := [] } ∧
      (∀ n, { getLane s'.toCtl j.val n with way := none } = { getLane s.toCtl j.val n with way := none }) ∧
      ((c = .lnSqTailWrite p i l v ∨ c = .lnCqHeadWrite p i l v) → getSlice s'.toCtl j.val = getSlice s.toCtl j.val)) ∧
    s' = setCtl s { s.toCtl with
      out := s'.toCtl.out, slices := s'.toCtl.slices, portA := s'.toCtl.portA, portB := s'.toCtl.portB
      cmds := s'.toCtl.cmds, nextCmd := s'.toCtl.nextCmd, fresh := s'.toCtl.fresh } ∧
    ((c = .lnSqTailWrite p i l v ∨ c = .lnCqHeadWrite p i l v) → s'.toCtl.cmds = s.toCtl.cmds)

/-- Where bytes go in memory (R166, R194, R200, R201): a store writes its bytes at their addresses, and at the mirror addresses of
the bytes below the scratchpad alias; every byte outside reads as before, and so it is with the staged writes that a commit
applies. A store leaves control state as it is; applied writes change the hamlets' alone, and none below the alias does. -/
def Obligations.Stores_stay_in_their_bytes : Prop :=
  ∀ (d : Dev) (h off : Nat) (bs : Bytes) (ws : List (Nat × Bytes)) (a : Nat),
    ((a < memKey h off ∨ memKey h off + bs.length ≤ a) →
      (∀ k, k < bs.length → off < aliasBase → a ≠ memKey h (mirrorOf (off + k))) →
      Mem.read (storeBytes d h off bs).mem a = Mem.read d.mem a) ∧
    (∀ k (hk : k < bs.length), Mem.wf d.mem = true →
      (∀ j, j < bs.length → off < aliasBase → mirrorOf (off + j) ≠ off + k) →
      Mem.read (storeBytes d h off bs).mem (memKey h off + k) = bs[k]) ∧
    ((∀ w ∈ ws, (a < w.1 ∨ w.1 + w.2.length ≤ a) ∧ ∀ k, k < w.2.length → w.1 % 2 ^ 43 < aliasBase →
        a ≠ memKey (w.1 / 2 ^ 43) (mirrorOf (w.1 % 2 ^ 43 + k))) →
      Mem.read (applyWrites d ws).mem a = Mem.read d.mem a) ∧
    (storeBytes d h off bs).toCtl = d.toCtl ∧
    ((∀ w ∈ ws, w.1 % 2 ^ 43 < aliasBase) → (applyWrites d ws).toCtl = d.toCtl) ∧
    (∀ f : List (Nat × Hamlet), f = (applyWrites d ws).hamlets → (applyWrites d ws).toCtl = { d.toCtl with hamlets := f })
end

