-- ==== Sys2Proof/Laws/Mem.lean ====
section
/-! SUPPORT. Laws of the byte memory: every operation keeps its canonical form; reading after writing. -/

namespace Sys2Proof.Mem
open Sys2Proof

theorem wfFrom_mono {lo lo' : Nat} (h : lo' ≤ lo) : ∀ {m : List Host.Cell}, wfFrom lo m = true → wfFrom lo' m = true
  | [], _ => rfl
  | (a, b) :: m, hm => by
    simp only [wfFrom, Bool.and_eq_true, decide_eq_true_eq] at hm ⊢
    exact ⟨⟨le_trans h hm.1.1, hm.1.2⟩, hm.2⟩

theorem wfFrom_cons (lo a : Nat) (b : Byte) (m : List Host.Cell) :
    wfFrom lo ((a, b) :: m) = true ↔ lo ≤ a ∧ b ≠ 0#8 ∧ wfFrom (a + 1) m = true := by
  simp [wfFrom, and_assoc]

theorem wfFrom_write (b : Byte) : ∀ (m : List Host.Cell) (lo a : Nat), lo ≤ a → wfFrom lo m = true →
    wfFrom lo (write m a b) = true
  | [], lo, a, ha, _ => by
    by_cases hb : b = 0#8 <;> simp [write, wfFrom, hb, ha]
  | (j, c) :: m, lo, a, ha, hm => by
    obtain ⟨hj, hc, hm'⟩ := (wfFrom_cons ..).1 hm
    simp only [write]
    split
    · rename_i h
      split
      · exact hm
      · rename_i hb
        exact (wfFrom_cons ..).2 ⟨ha, hb, (wfFrom_cons ..).2 ⟨h, hc, hm'⟩⟩
    · rename_i h
      split
      · rename_i h'
        split
        · exact wfFrom_mono (by omega) hm'
        · rename_i hb
          exact (wfFrom_cons ..).2 ⟨ha, hb, h' ▸ hm'⟩
      · rename_i h'
        exact (wfFrom_cons ..).2 ⟨hj, hc, wfFrom_write b m (j + 1) a (by omega) hm'⟩

/-- Writing a byte keeps the canonical form. -/
theorem wf_write {m : List Host.Cell} (h : wf m = true) (a : Nat) (b : Byte) : wf (write m a b) = true :=
  wfFrom_write b m 0 a (Nat.zero_le _) h

/-- Writing bytes keeps the canonical form. -/
theorem wf_writeBytes : ∀ (bs : Bytes) {m : List Host.Cell} (a : Nat), wf m = true → wf (writeBytes m a bs) = true
  | [], _, _, h => h
  | b :: bs, _, a, h => wf_writeBytes bs (a + 1) (wf_write h a b)

theorem wfFrom_filter (p : Host.Cell → Bool) : ∀ (m : List Host.Cell) (lo : Nat), wfFrom lo m = true →
    wfFrom lo (m.filter p) = true
  | [], _, _ => rfl
  | (a, b) :: m, lo, h => by
    simp only [wfFrom, Bool.and_eq_true, decide_eq_true_eq] at h
    have ih := wfFrom_filter p m (a + 1) h.2
    by_cases hp : p (a, b) = true
    · simp only [List.filter_cons, hp, if_true, wfFrom, Bool.and_eq_true, decide_eq_true_eq]
      exact ⟨h.1, ih⟩
    · simp only [List.filter_cons, hp]
      exact wfFrom_mono (by omega) ih

/-- Zeroing addresses keeps the canonical form. -/
theorem wf_zeroWhere {m : List Host.Cell} (h : wf m = true) (p : Nat → Bool) : wf (zeroWhere m p) = true :=
  wfFrom_filter _ m 0 h

theorem wf_zero {m : List Host.Cell} (h : wf m = true) (a n : Nat) : wf (zero m a n) = true := wf_zeroWhere h _

theorem read_of_wfFrom : ∀ {m : List Host.Cell} {lo a : Nat}, wfFrom lo m = true → a < lo → read m a = 0
  | [], _, _, _, _ => rfl
  | (j, b) :: m, lo, a, h, ha => by
    simp only [wfFrom, Bool.and_eq_true, decide_eq_true_eq] at h
    have : j ≠ a := by omega
    simp [read, this, read_of_wfFrom h.2 (by omega : a < j + 1)]

theorem read_write_self (b : Byte) : ∀ (m : List Host.Cell) (lo a : Nat), wfFrom lo m = true →
    read (write m a b) a = b
  | [], _, a, _ => by by_cases hb : b = 0#8 <;> simp [write, read, hb]
  | (j, c) :: m, lo, a, h => by
    simp only [wfFrom, Bool.and_eq_true, decide_eq_true_eq] at h
    simp only [write]
    split
    · rename_i hj
      split
      · rename_i hb
        have : j ≠ a := by omega
        simp [read, this, hb, read_of_wfFrom h.2 (by omega : a < j + 1)]
      · simp [read]
    · split
      · rename_i hj
        subst hj
        split
        · rename_i hb
          simp [hb, read_of_wfFrom h.2 (by omega : a < a + 1)]
        · simp [read]
      · rename_i h1 h2
        simp [read, Ne.symm h2, read_write_self b m (j + 1) a h.2]

/-- A byte written is read back. -/
@[simp] theorem read_write {m : List Host.Cell} (h : wf m = true) (a : Nat) (b : Byte) : read (write m a b) a = b :=
  read_write_self b m 0 a h

/-- A write leaves every other byte alone. -/
theorem read_write_ne (b : Byte) : ∀ (m : List Host.Cell) {a x : Nat}, x ≠ a → read (write m a b) x = read m x
  | [], a, x, h => by by_cases hb : b = 0#8 <;> simp [write, read, hb, Ne.symm h]
  | (j, c) :: m, a, x, h => by
    simp only [write]
    split
    · split
      · rfl
      · simp [read, Ne.symm h]
    · split
      · rename_i hj
        subst hj
        split
        · simp [read, Ne.symm h]
        · simp [read, Ne.symm h]
      · simp [read, read_write_ne b m h]

/-- Writing a byte string changes no byte outside it. -/
theorem read_writeBytes_outside : ∀ (bs : Bytes) (m : List Host.Cell) (a x : Nat), x < a ∨ a + bs.length ≤ x →
    read (writeBytes m a bs) x = read m x
  | [], _, _, _, _ => rfl
  | b :: bs, m, a, x, h => by
    simp only [List.length_cons] at h
    rw [writeBytes, read_writeBytes_outside bs _ (a + 1) x (by omega), read_write_ne b m (by omega)]

/-- Writing a byte string writes each of its bytes. -/
theorem read_writeBytes : ∀ (bs : Bytes) {m : List Host.Cell} (a k : Nat), wf m = true → (hk : k < bs.length) →
    read (writeBytes m a bs) (a + k) = bs[k]
  | b :: bs, m, a, 0, h, _ => by
    rw [writeBytes, read_writeBytes_outside bs _ (a + 1) (a + 0) (by omega)]
    simp [read_write h]
  | b :: bs, m, a, k + 1, h, hk => by
    have := read_writeBytes bs (a + 1) k (wf_write h a b) (by simpa using hk)
    rw [writeBytes, show a + (k + 1) = a + 1 + k by omega, this]
    simp

end Sys2Proof.Mem
end

