-- ==== Sys2Proof/Laws/Tbl.lean ====
section
/-! SUPPORT. Laws of the sparse table: reading after writing. -/

namespace Sys2Proof.Tbl
open Sys2Proof

variable {α : Type}

@[simp] theorem find?_nil (k : Nat) : find? ([] : Tbl α) k = none := rfl

@[simp] theorem getD_nil (k : Nat) (x : α) : getD ([] : Tbl α) k x = x := rfl

@[simp] theorem find?_set_self (t : Tbl α) (k : Nat) (v : α) : find? (set t k v) k = some v := by
  induction t with
  | nil => simp [set, find?]
  | cons e t ih =>
    simp only [set]
    split
    · simp [find?]
    · split
      · simp [find?]
      · have : ¬ e.1 = k := fun h => by simp_all
        simp [find?, this, ih]

theorem find?_set_ne (t : Tbl α) {k j : Nat} (v : α) (h : j ≠ k) : find? (set t k v) j = find? t j := by
  induction t with
  | nil => simp [set, find?, Ne.symm h]
  | cons e t ih =>
    simp only [set]
    split
    · simp [find?, Ne.symm h]
    · split
      · rename_i _ h'
        simp [find?, ← h', Ne.symm h]
      · simp [find?, ih]

theorem find?_set (t : Tbl α) (k j : Nat) (v : α) : find? (set t k v) j = if j = k then some v else find? t j := by
  by_cases h : j = k
  · simp [h]
  · simp [h, find?_set_ne t v h]

@[simp] theorem getD_set_self (t : Tbl α) (k : Nat) (v x : α) : getD (set t k v) k x = v := by simp [getD]

theorem getD_set_ne (t : Tbl α) {k j : Nat} (v x : α) (h : j ≠ k) : getD (set t k v) j x = getD t j x := by
  simp [getD, find?_set_ne t v h]

theorem getD_of_find? {t : Tbl α} {k : Nat} {v : α} (x : α) (h : find? t k = some v) : getD t k x = v := by
  simp [getD, h]

theorem update_of_find? {t : Tbl α} {k : Nat} {v : α} (f : α → α) (h : find? t k = some v) :
    update t k f = set t k (f v) := by
  simp [update, h]

theorem update_of_none {t : Tbl α} {k : Nat} (f : α → α) (h : find? t k = none) : update t k f = t := by
  simp [update, h]

theorem find?_update (t : Tbl α) (k j : Nat) (f : α → α) :
    find? (update t k f) j = if j = k then (find? t k).map f else find? t j := by
  cases h : find? t k with
  | none => by_cases hj : j = k <;> simp [update, h, hj]
  | some v => simp [update, h, find?_set]

@[simp] theorem find?_update_self (t : Tbl α) (k : Nat) (f : α → α) :
    find? (update t k f) k = (find? t k).map f := by simp [find?_update]

theorem find?_update_ne (t : Tbl α) {k j : Nat} (f : α → α) (h : j ≠ k) : find? (update t k f) j = find? t j := by
  simp [find?_update, h]

theorem set_set (t : Tbl α) (k : Nat) (v w : α) : set (set t k v) k w = set t k w := by
  induction t with
  | nil => simp [set]
  | cons e t ih =>
    simp only [set]
    split
    · simp [set]
    · split
      · simp [set]
      · rename_i h1 h2
        simp [set, h1, h2, ih]

/-- What a written table lists: the new pair, or what it listed before. -/
theorem mem_set (t : Tbl α) (k : Nat) (v : α) : ∀ e ∈ set t k v, e = (k, v) ∨ e ∈ t := by
  induction t with
  | nil => intro e he; simpa [set] using he
  | cons x t ih =>
    intro e he
    simp only [set] at he
    split at he
    · simpa using he
    · split at he
      · simp only [List.mem_cons] at he ⊢
        rcases he with rfl | h
        · simp
        · simp [h]
      · simp only [List.mem_cons] at he ⊢
        rcases he with rfl | h
        · simp
        · rcases ih e h with h | h <;> simp [h]

end Sys2Proof.Tbl
end

