-- ==== Sys2Proof/Laws/State.lean ====
section
/-! SUPPORT. One law for each field of the control state and each named update: what the update leaves, and what it
writes. -/

namespace Sys2Proof.Machine
open Sys2Proof

variable (d : Ctl)

@[simp] theorem setSlice_fresh (i : Nat) (x : Slice) : (setSlice d i x).fresh = d.fresh := rfl
@[simp] theorem setSlice_out (i : Nat) (x : Slice) : (setSlice d i x).out = d.out := rfl
@[simp] theorem setSlice_time (i : Nat) (x : Slice) : (setSlice d i x).time = d.time := rfl
@[simp] theorem setSlice_pkg (i : Nat) (x : Slice) : (setSlice d i x).pkg = d.pkg := rfl
@[simp] theorem setSlice_portA (i : Nat) (x : Slice) : (setSlice d i x).portA = d.portA := rfl
@[simp] theorem setSlice_portB (i : Nat) (x : Slice) : (setSlice d i x).portB = d.portB := rfl
@[simp] theorem setSlice_reeve (i : Nat) (x : Slice) : (setSlice d i x).reeve = d.reeve := rfl
@[simp] theorem setSlice_ledger (i : Nat) (x : Slice) : (setSlice d i x).ledger = d.ledger := rfl
@[simp] theorem setSlice_tenants (i : Nat) (x : Slice) : (setSlice d i x).tenants = d.tenants := rfl
@[simp] theorem setSlice_tallyBlocks (i : Nat) (x : Slice) : (setSlice d i x).tallyBlocks = d.tallyBlocks := rfl
@[simp] theorem setSlice_owners (i : Nat) (x : Slice) : (setSlice d i x).owners = d.owners := rfl
@[simp] theorem setSlice_removed (i : Nat) (x : Slice) : (setSlice d i x).removed = d.removed := rfl
@[simp] theorem setSlice_slices (i : Nat) (x : Slice) : (setSlice d i x).slices = Tbl.set d.slices i x := rfl
@[simp] theorem setSlice_incarnations (i : Nat) (x : Slice) : (setSlice d i x).incarnations = d.incarnations := rfl
@[simp] theorem setSlice_models (i : Nat) (x : Slice) : (setSlice d i x).models = d.models := rfl
@[simp] theorem setSlice_loads (i : Nat) (x : Slice) : (setSlice d i x).loads = d.loads := rfl
@[simp] theorem setSlice_contexts (i : Nat) (x : Slice) : (setSlice d i x).contexts = d.contexts := rfl
@[simp] theorem setSlice_cmds (i : Nat) (x : Slice) : (setSlice d i x).cmds = d.cmds := rfl
@[simp] theorem setSlice_nextCmd (i : Nat) (x : Slice) : (setSlice d i x).nextCmd = d.nextCmd := rfl
@[simp] theorem setSlice_hamlets (i : Nat) (x : Slice) : (setSlice d i x).hamlets = d.hamlets := rfl
@[simp] theorem setSlice_tallies (i : Nat) (x : Slice) : (setSlice d i x).tallies = d.tallies := rfl
@[simp] theorem setSlice_hearthSets (i : Nat) (x : Slice) : (setSlice d i x).hearthSets = d.hearthSets := rfl
@[simp] theorem setSlice_roads (i : Nat) (x : Slice) : (setSlice d i x).roads = d.roads := rfl
@[simp] theorem setSlice_peers (i : Nat) (x : Slice) : (setSlice d i x).peers = d.peers := rfl
@[simp] theorem setSlice_nonces (i : Nat) (x : Slice) : (setSlice d i x).nonces = d.nonces := rfl
@[simp] theorem setSlice_requests (i : Nat) (x : Slice) : (setSlice d i x).requests = d.requests := rfl
@[simp] theorem setSlice_reservations (i : Nat) (x : Slice) : (setSlice d i x).reservations = d.reservations := rfl
@[simp] theorem setSlice_brownout (i : Nat) (x : Slice) : (setSlice d i x).brownout = d.brownout := rfl
@[simp] theorem setSlice_jobs (i : Nat) (x : Slice) : (setSlice d i x).jobs = d.jobs := rfl
@[simp] theorem setSlice_gleanings (i : Nat) (x : Slice) : (setSlice d i x).gleanings = d.gleanings := rfl
@[simp] theorem setSlice_sheaves (i : Nat) (x : Slice) : (setSlice d i x).sheaves = d.sheaves := rfl
@[simp] theorem setSlice_nextSheaf (i : Nat) (x : Slice) : (setSlice d i x).nextSheaf = d.nextSheaf := rfl
@[simp] theorem setSlice_computed (i : Nat) (x : Slice) : (setSlice d i x).computed = d.computed := rfl
@[simp] theorem setSlice_units (i : Nat) (x : Slice) : (setSlice d i x).units = d.units := rfl

@[simp] theorem modSlice_fresh (i : Nat) (f : Slice → Slice) : (modSlice d i f).fresh = d.fresh := rfl
@[simp] theorem modSlice_out (i : Nat) (f : Slice → Slice) : (modSlice d i f).out = d.out := rfl
@[simp] theorem modSlice_time (i : Nat) (f : Slice → Slice) : (modSlice d i f).time = d.time := rfl
@[simp] theorem modSlice_pkg (i : Nat) (f : Slice → Slice) : (modSlice d i f).pkg = d.pkg := rfl
@[simp] theorem modSlice_portA (i : Nat) (f : Slice → Slice) : (modSlice d i f).portA = d.portA := rfl
@[simp] theorem modSlice_portB (i : Nat) (f : Slice → Slice) : (modSlice d i f).portB = d.portB := rfl
@[simp] theorem modSlice_reeve (i : Nat) (f : Slice → Slice) : (modSlice d i f).reeve = d.reeve := rfl
@[simp] theorem modSlice_ledger (i : Nat) (f : Slice → Slice) : (modSlice d i f).ledger = d.ledger := rfl
@[simp] theorem modSlice_tenants (i : Nat) (f : Slice → Slice) : (modSlice d i f).tenants = d.tenants := rfl
@[simp] theorem modSlice_tallyBlocks (i : Nat) (f : Slice → Slice) : (modSlice d i f).tallyBlocks = d.tallyBlocks := rfl
@[simp] theorem modSlice_owners (i : Nat) (f : Slice → Slice) : (modSlice d i f).owners = d.owners := rfl
@[simp] theorem modSlice_removed (i : Nat) (f : Slice → Slice) : (modSlice d i f).removed = d.removed := rfl
@[simp] theorem modSlice_slices (i : Nat) (f : Slice → Slice) : (modSlice d i f).slices = Tbl.set d.slices i (f (getSlice d i)) := rfl
@[simp] theorem modSlice_incarnations (i : Nat) (f : Slice → Slice) : (modSlice d i f).incarnations = d.incarnations := rfl
@[simp] theorem modSlice_models (i : Nat) (f : Slice → Slice) : (modSlice d i f).models = d.models := rfl
@[simp] theorem modSlice_loads (i : Nat) (f : Slice → Slice) : (modSlice d i f).loads = d.loads := rfl
@[simp] theorem modSlice_contexts (i : Nat) (f : Slice → Slice) : (modSlice d i f).contexts = d.contexts := rfl
@[simp] theorem modSlice_cmds (i : Nat) (f : Slice → Slice) : (modSlice d i f).cmds = d.cmds := rfl
@[simp] theorem modSlice_nextCmd (i : Nat) (f : Slice → Slice) : (modSlice d i f).nextCmd = d.nextCmd := rfl
@[simp] theorem modSlice_hamlets (i : Nat) (f : Slice → Slice) : (modSlice d i f).hamlets = d.hamlets := rfl
@[simp] theorem modSlice_tallies (i : Nat) (f : Slice → Slice) : (modSlice d i f).tallies = d.tallies := rfl
@[simp] theorem modSlice_hearthSets (i : Nat) (f : Slice → Slice) : (modSlice d i f).hearthSets = d.hearthSets := rfl
@[simp] theorem modSlice_roads (i : Nat) (f : Slice → Slice) : (modSlice d i f).roads = d.roads := rfl
@[simp] theorem modSlice_peers (i : Nat) (f : Slice → Slice) : (modSlice d i f).peers = d.peers := rfl
@[simp] theorem modSlice_nonces (i : Nat) (f : Slice → Slice) : (modSlice d i f).nonces = d.nonces := rfl
@[simp] theorem modSlice_requests (i : Nat) (f : Slice → Slice) : (modSlice d i f).requests = d.requests := rfl
@[simp] theorem modSlice_reservations (i : Nat) (f : Slice → Slice) : (modSlice d i f).reservations = d.reservations := rfl
@[simp] theorem modSlice_brownout (i : Nat) (f : Slice → Slice) : (modSlice d i f).brownout = d.brownout := rfl
@[simp] theorem modSlice_jobs (i : Nat) (f : Slice → Slice) : (modSlice d i f).jobs = d.jobs := rfl
@[simp] theorem modSlice_gleanings (i : Nat) (f : Slice → Slice) : (modSlice d i f).gleanings = d.gleanings := rfl
@[simp] theorem modSlice_sheaves (i : Nat) (f : Slice → Slice) : (modSlice d i f).sheaves = d.sheaves := rfl
@[simp] theorem modSlice_nextSheaf (i : Nat) (f : Slice → Slice) : (modSlice d i f).nextSheaf = d.nextSheaf := rfl
@[simp] theorem modSlice_computed (i : Nat) (f : Slice → Slice) : (modSlice d i f).computed = d.computed := rfl
@[simp] theorem modSlice_units (i : Nat) (f : Slice → Slice) : (modSlice d i f).units = d.units := rfl

@[simp] theorem modLane_fresh (i l : Nat) (f : Lane → Lane) : (modLane d i l f).fresh = d.fresh := rfl
@[simp] theorem modLane_out (i l : Nat) (f : Lane → Lane) : (modLane d i l f).out = d.out := rfl
@[simp] theorem modLane_time (i l : Nat) (f : Lane → Lane) : (modLane d i l f).time = d.time := rfl
@[simp] theorem modLane_pkg (i l : Nat) (f : Lane → Lane) : (modLane d i l f).pkg = d.pkg := rfl
@[simp] theorem modLane_portA (i l : Nat) (f : Lane → Lane) : (modLane d i l f).portA = d.portA := rfl
@[simp] theorem modLane_portB (i l : Nat) (f : Lane → Lane) : (modLane d i l f).portB = d.portB := rfl
@[simp] theorem modLane_reeve (i l : Nat) (f : Lane → Lane) : (modLane d i l f).reeve = d.reeve := rfl
@[simp] theorem modLane_ledger (i l : Nat) (f : Lane → Lane) : (modLane d i l f).ledger = d.ledger := rfl
@[simp] theorem modLane_tenants (i l : Nat) (f : Lane → Lane) : (modLane d i l f).tenants = d.tenants := rfl
@[simp] theorem modLane_tallyBlocks (i l : Nat) (f : Lane → Lane) : (modLane d i l f).tallyBlocks = d.tallyBlocks := rfl
@[simp] theorem modLane_owners (i l : Nat) (f : Lane → Lane) : (modLane d i l f).owners = d.owners := rfl
@[simp] theorem modLane_removed (i l : Nat) (f : Lane → Lane) : (modLane d i l f).removed = d.removed := rfl
@[simp] theorem modLane_incarnations (i l : Nat) (f : Lane → Lane) : (modLane d i l f).incarnations = d.incarnations := rfl
@[simp] theorem modLane_models (i l : Nat) (f : Lane → Lane) : (modLane d i l f).models = d.models := rfl
@[simp] theorem modLane_loads (i l : Nat) (f : Lane → Lane) : (modLane d i l f).loads = d.loads := rfl
@[simp] theorem modLane_contexts (i l : Nat) (f : Lane → Lane) : (modLane d i l f).contexts = d.contexts := rfl
@[simp] theorem modLane_cmds (i l : Nat) (f : Lane → Lane) : (modLane d i l f).cmds = d.cmds := rfl
@[simp] theorem modLane_nextCmd (i l : Nat) (f : Lane → Lane) : (modLane d i l f).nextCmd = d.nextCmd := rfl
@[simp] theorem modLane_hamlets (i l : Nat) (f : Lane → Lane) : (modLane d i l f).hamlets = d.hamlets := rfl
@[simp] theorem modLane_tallies (i l : Nat) (f : Lane → Lane) : (modLane d i l f).tallies = d.tallies := rfl
@[simp] theorem modLane_hearthSets (i l : Nat) (f : Lane → Lane) : (modLane d i l f).hearthSets = d.hearthSets := rfl
@[simp] theorem modLane_roads (i l : Nat) (f : Lane → Lane) : (modLane d i l f).roads = d.roads := rfl
@[simp] theorem modLane_peers (i l : Nat) (f : Lane → Lane) : (modLane d i l f).peers = d.peers := rfl
@[simp] theorem modLane_nonces (i l : Nat) (f : Lane → Lane) : (modLane d i l f).nonces = d.nonces := rfl
@[simp] theorem modLane_requests (i l : Nat) (f : Lane → Lane) : (modLane d i l f).requests = d.requests := rfl
@[simp] theorem modLane_reservations (i l : Nat) (f : Lane → Lane) : (modLane d i l f).reservations = d.reservations := rfl
@[simp] theorem modLane_brownout (i l : Nat) (f : Lane → Lane) : (modLane d i l f).brownout = d.brownout := rfl
@[simp] theorem modLane_jobs (i l : Nat) (f : Lane → Lane) : (modLane d i l f).jobs = d.jobs := rfl
@[simp] theorem modLane_gleanings (i l : Nat) (f : Lane → Lane) : (modLane d i l f).gleanings = d.gleanings := rfl
@[simp] theorem modLane_sheaves (i l : Nat) (f : Lane → Lane) : (modLane d i l f).sheaves = d.sheaves := rfl
@[simp] theorem modLane_nextSheaf (i l : Nat) (f : Lane → Lane) : (modLane d i l f).nextSheaf = d.nextSheaf := rfl
@[simp] theorem modLane_computed (i l : Nat) (f : Lane → Lane) : (modLane d i l f).computed = d.computed := rfl
@[simp] theorem modLane_units (i l : Nat) (f : Lane → Lane) : (modLane d i l f).units = d.units := rfl

@[simp] theorem modHam_fresh (h : Nat) (f : Hamlet → Hamlet) : (modHam d h f).fresh = d.fresh := rfl
@[simp] theorem modHam_out (h : Nat) (f : Hamlet → Hamlet) : (modHam d h f).out = d.out := rfl
@[simp] theorem modHam_time (h : Nat) (f : Hamlet → Hamlet) : (modHam d h f).time = d.time := rfl
@[simp] theorem modHam_pkg (h : Nat) (f : Hamlet → Hamlet) : (modHam d h f).pkg = d.pkg := rfl
@[simp] theorem modHam_portA (h : Nat) (f : Hamlet → Hamlet) : (modHam d h f).portA = d.portA := rfl
@[simp] theorem modHam_portB (h : Nat) (f : Hamlet → Hamlet) : (modHam d h f).portB = d.portB := rfl
@[simp] theorem modHam_reeve (h : Nat) (f : Hamlet → Hamlet) : (modHam d h f).reeve = d.reeve := rfl
@[simp] theorem modHam_ledger (h : Nat) (f : Hamlet → Hamlet) : (modHam d h f).ledger = d.ledger := rfl
@[simp] theorem modHam_tenants (h : Nat) (f : Hamlet → Hamlet) : (modHam d h f).tenants = d.tenants := rfl
@[simp] theorem modHam_tallyBlocks (h : Nat) (f : Hamlet → Hamlet) : (modHam d h f).tallyBlocks = d.tallyBlocks := rfl
@[simp] theorem modHam_owners (h : Nat) (f : Hamlet → Hamlet) : (modHam d h f).owners = d.owners := rfl
@[simp] theorem modHam_removed (h : Nat) (f : Hamlet → Hamlet) : (modHam d h f).removed = d.removed := rfl
@[simp] theorem modHam_slices (h : Nat) (f : Hamlet → Hamlet) : (modHam d h f).slices = d.slices := rfl
@[simp] theorem modHam_incarnations (h : Nat) (f : Hamlet → Hamlet) : (modHam d h f).incarnations = d.incarnations := rfl
@[simp] theorem modHam_models (h : Nat) (f : Hamlet → Hamlet) : (modHam d h f).models = d.models := rfl
@[simp] theorem modHam_loads (h : Nat) (f : Hamlet → Hamlet) : (modHam d h f).loads = d.loads := rfl
@[simp] theorem modHam_contexts (h : Nat) (f : Hamlet → Hamlet) : (modHam d h f).contexts = d.contexts := rfl
@[simp] theorem modHam_cmds (h : Nat) (f : Hamlet → Hamlet) : (modHam d h f).cmds = d.cmds := rfl
@[simp] theorem modHam_nextCmd (h : Nat) (f : Hamlet → Hamlet) : (modHam d h f).nextCmd = d.nextCmd := rfl
@[simp] theorem modHam_hamlets (h : Nat) (f : Hamlet → Hamlet) : (modHam d h f).hamlets = Tbl.set d.hamlets h (f (getHam d h)) := rfl
@[simp] theorem modHam_tallies (h : Nat) (f : Hamlet → Hamlet) : (modHam d h f).tallies = d.tallies := rfl
@[simp] theorem modHam_hearthSets (h : Nat) (f : Hamlet → Hamlet) : (modHam d h f).hearthSets = d.hearthSets := rfl
@[simp] theorem modHam_roads (h : Nat) (f : Hamlet → Hamlet) : (modHam d h f).roads = d.roads := rfl
@[simp] theorem modHam_peers (h : Nat) (f : Hamlet → Hamlet) : (modHam d h f).peers = d.peers := rfl
@[simp] theorem modHam_nonces (h : Nat) (f : Hamlet → Hamlet) : (modHam d h f).nonces = d.nonces := rfl
@[simp] theorem modHam_requests (h : Nat) (f : Hamlet → Hamlet) : (modHam d h f).requests = d.requests := rfl
@[simp] theorem modHam_reservations (h : Nat) (f : Hamlet → Hamlet) : (modHam d h f).reservations = d.reservations := rfl
@[simp] theorem modHam_brownout (h : Nat) (f : Hamlet → Hamlet) : (modHam d h f).brownout = d.brownout := rfl
@[simp] theorem modHam_jobs (h : Nat) (f : Hamlet → Hamlet) : (modHam d h f).jobs = d.jobs := rfl
@[simp] theorem modHam_gleanings (h : Nat) (f : Hamlet → Hamlet) : (modHam d h f).gleanings = d.gleanings := rfl
@[simp] theorem modHam_sheaves (h : Nat) (f : Hamlet → Hamlet) : (modHam d h f).sheaves = d.sheaves := rfl
@[simp] theorem modHam_nextSheaf (h : Nat) (f : Hamlet → Hamlet) : (modHam d h f).nextSheaf = d.nextSheaf := rfl
@[simp] theorem modHam_computed (h : Nat) (f : Hamlet → Hamlet) : (modHam d h f).computed = d.computed := rfl
@[simp] theorem modHam_units (h : Nat) (f : Hamlet → Hamlet) : (modHam d h f).units = d.units := rfl

@[simp] theorem modRoad_fresh (r : Nat) (f : Road → Road) : (modRoad d r f).fresh = d.fresh := rfl
@[simp] theorem modRoad_out (r : Nat) (f : Road → Road) : (modRoad d r f).out = d.out := rfl
@[simp] theorem modRoad_time (r : Nat) (f : Road → Road) : (modRoad d r f).time = d.time := rfl
@[simp] theorem modRoad_pkg (r : Nat) (f : Road → Road) : (modRoad d r f).pkg = d.pkg := rfl
@[simp] theorem modRoad_portA (r : Nat) (f : Road → Road) : (modRoad d r f).portA = d.portA := rfl
@[simp] theorem modRoad_portB (r : Nat) (f : Road → Road) : (modRoad d r f).portB = d.portB := rfl
@[simp] theorem modRoad_reeve (r : Nat) (f : Road → Road) : (modRoad d r f).reeve = d.reeve := rfl
@[simp] theorem modRoad_ledger (r : Nat) (f : Road → Road) : (modRoad d r f).ledger = d.ledger := rfl
@[simp] theorem modRoad_tenants (r : Nat) (f : Road → Road) : (modRoad d r f).tenants = d.tenants := rfl
@[simp] theorem modRoad_tallyBlocks (r : Nat) (f : Road → Road) : (modRoad d r f).tallyBlocks = d.tallyBlocks := rfl
@[simp] theorem modRoad_owners (r : Nat) (f : Road → Road) : (modRoad d r f).owners = d.owners := rfl
@[simp] theorem modRoad_removed (r : Nat) (f : Road → Road) : (modRoad d r f).removed = d.removed := rfl
@[simp] theorem modRoad_slices (r : Nat) (f : Road → Road) : (modRoad d r f).slices = d.slices := rfl
@[simp] theorem modRoad_incarnations (r : Nat) (f : Road → Road) : (modRoad d r f).incarnations = d.incarnations := rfl
@[simp] theorem modRoad_models (r : Nat) (f : Road → Road) : (modRoad d r f).models = d.models := rfl
@[simp] theorem modRoad_loads (r : Nat) (f : Road → Road) : (modRoad d r f).loads = d.loads := rfl
@[simp] theorem modRoad_contexts (r : Nat) (f : Road → Road) : (modRoad d r f).contexts = d.contexts := rfl
@[simp] theorem modRoad_cmds (r : Nat) (f : Road → Road) : (modRoad d r f).cmds = d.cmds := rfl
@[simp] theorem modRoad_nextCmd (r : Nat) (f : Road → Road) : (modRoad d r f).nextCmd = d.nextCmd := rfl
@[simp] theorem modRoad_hamlets (r : Nat) (f : Road → Road) : (modRoad d r f).hamlets = d.hamlets := rfl
@[simp] theorem modRoad_tallies (r : Nat) (f : Road → Road) : (modRoad d r f).tallies = d.tallies := rfl
@[simp] theorem modRoad_hearthSets (r : Nat) (f : Road → Road) : (modRoad d r f).hearthSets = d.hearthSets := rfl
@[simp] theorem modRoad_roads (r : Nat) (f : Road → Road) : (modRoad d r f).roads = Tbl.set d.roads r (f (getRoad d r)) := rfl
@[simp] theorem modRoad_peers (r : Nat) (f : Road → Road) : (modRoad d r f).peers = d.peers := rfl
@[simp] theorem modRoad_nonces (r : Nat) (f : Road → Road) : (modRoad d r f).nonces = d.nonces := rfl
@[simp] theorem modRoad_requests (r : Nat) (f : Road → Road) : (modRoad d r f).requests = d.requests := rfl
@[simp] theorem modRoad_reservations (r : Nat) (f : Road → Road) : (modRoad d r f).reservations = d.reservations := rfl
@[simp] theorem modRoad_brownout (r : Nat) (f : Road → Road) : (modRoad d r f).brownout = d.brownout := rfl
@[simp] theorem modRoad_jobs (r : Nat) (f : Road → Road) : (modRoad d r f).jobs = d.jobs := rfl
@[simp] theorem modRoad_gleanings (r : Nat) (f : Road → Road) : (modRoad d r f).gleanings = d.gleanings := rfl
@[simp] theorem modRoad_sheaves (r : Nat) (f : Road → Road) : (modRoad d r f).sheaves = d.sheaves := rfl
@[simp] theorem modRoad_nextSheaf (r : Nat) (f : Road → Road) : (modRoad d r f).nextSheaf = d.nextSheaf := rfl
@[simp] theorem modRoad_computed (r : Nat) (f : Road → Road) : (modRoad d r f).computed = d.computed := rfl
@[simp] theorem modRoad_units (r : Nat) (f : Road → Road) : (modRoad d r f).units = d.units := rfl

@[simp] theorem modPeer_fresh (q : Nat) (f : Peer → Peer) : (modPeer d q f).fresh = d.fresh := rfl
@[simp] theorem modPeer_out (q : Nat) (f : Peer → Peer) : (modPeer d q f).out = d.out := rfl
@[simp] theorem modPeer_time (q : Nat) (f : Peer → Peer) : (modPeer d q f).time = d.time := rfl
@[simp] theorem modPeer_pkg (q : Nat) (f : Peer → Peer) : (modPeer d q f).pkg = d.pkg := rfl
@[simp] theorem modPeer_portA (q : Nat) (f : Peer → Peer) : (modPeer d q f).portA = d.portA := rfl
@[simp] theorem modPeer_portB (q : Nat) (f : Peer → Peer) : (modPeer d q f).portB = d.portB := rfl
@[simp] theorem modPeer_reeve (q : Nat) (f : Peer → Peer) : (modPeer d q f).reeve = d.reeve := rfl
@[simp] theorem modPeer_ledger (q : Nat) (f : Peer → Peer) : (modPeer d q f).ledger = d.ledger := rfl
@[simp] theorem modPeer_tenants (q : Nat) (f : Peer → Peer) : (modPeer d q f).tenants = d.tenants := rfl
@[simp] theorem modPeer_tallyBlocks (q : Nat) (f : Peer → Peer) : (modPeer d q f).tallyBlocks = d.tallyBlocks := rfl
@[simp] theorem modPeer_owners (q : Nat) (f : Peer → Peer) : (modPeer d q f).owners = d.owners := rfl
@[simp] theorem modPeer_removed (q : Nat) (f : Peer → Peer) : (modPeer d q f).removed = d.removed := rfl
@[simp] theorem modPeer_slices (q : Nat) (f : Peer → Peer) : (modPeer d q f).slices = d.slices := rfl
@[simp] theorem modPeer_incarnations (q : Nat) (f : Peer → Peer) : (modPeer d q f).incarnations = d.incarnations := rfl
@[simp] theorem modPeer_models (q : Nat) (f : Peer → Peer) : (modPeer d q f).models = d.models := rfl
@[simp] theorem modPeer_loads (q : Nat) (f : Peer → Peer) : (modPeer d q f).loads = d.loads := rfl
@[simp] theorem modPeer_contexts (q : Nat) (f : Peer → Peer) : (modPeer d q f).contexts = d.contexts := rfl
@[simp] theorem modPeer_cmds (q : Nat) (f : Peer → Peer) : (modPeer d q f).cmds = d.cmds := rfl
@[simp] theorem modPeer_nextCmd (q : Nat) (f : Peer → Peer) : (modPeer d q f).nextCmd = d.nextCmd := rfl
@[simp] theorem modPeer_hamlets (q : Nat) (f : Peer → Peer) : (modPeer d q f).hamlets = d.hamlets := rfl
@[simp] theorem modPeer_tallies (q : Nat) (f : Peer → Peer) : (modPeer d q f).tallies = d.tallies := rfl
@[simp] theorem modPeer_hearthSets (q : Nat) (f : Peer → Peer) : (modPeer d q f).hearthSets = d.hearthSets := rfl
@[simp] theorem modPeer_roads (q : Nat) (f : Peer → Peer) : (modPeer d q f).roads = d.roads := rfl
@[simp] theorem modPeer_peers (q : Nat) (f : Peer → Peer) : (modPeer d q f).peers = Tbl.set d.peers q (f (getPeer d q)) := rfl
@[simp] theorem modPeer_nonces (q : Nat) (f : Peer → Peer) : (modPeer d q f).nonces = d.nonces := rfl
@[simp] theorem modPeer_requests (q : Nat) (f : Peer → Peer) : (modPeer d q f).requests = d.requests := rfl
@[simp] theorem modPeer_reservations (q : Nat) (f : Peer → Peer) : (modPeer d q f).reservations = d.reservations := rfl
@[simp] theorem modPeer_brownout (q : Nat) (f : Peer → Peer) : (modPeer d q f).brownout = d.brownout := rfl
@[simp] theorem modPeer_jobs (q : Nat) (f : Peer → Peer) : (modPeer d q f).jobs = d.jobs := rfl
@[simp] theorem modPeer_gleanings (q : Nat) (f : Peer → Peer) : (modPeer d q f).gleanings = d.gleanings := rfl
@[simp] theorem modPeer_sheaves (q : Nat) (f : Peer → Peer) : (modPeer d q f).sheaves = d.sheaves := rfl
@[simp] theorem modPeer_nextSheaf (q : Nat) (f : Peer → Peer) : (modPeer d q f).nextSheaf = d.nextSheaf := rfl
@[simp] theorem modPeer_computed (q : Nat) (f : Peer → Peer) : (modPeer d q f).computed = d.computed := rfl
@[simp] theorem modPeer_units (q : Nat) (f : Peer → Peer) : (modPeer d q f).units = d.units := rfl

@[simp] theorem modTally_fresh (n : Nat) (f : Tally → Tally) : (modTally d n f).fresh = d.fresh := rfl
@[simp] theorem modTally_out (n : Nat) (f : Tally → Tally) : (modTally d n f).out = d.out := rfl
@[simp] theorem modTally_time (n : Nat) (f : Tally → Tally) : (modTally d n f).time = d.time := rfl
@[simp] theorem modTally_pkg (n : Nat) (f : Tally → Tally) : (modTally d n f).pkg = d.pkg := rfl
@[simp] theorem modTally_portA (n : Nat) (f : Tally → Tally) : (modTally d n f).portA = d.portA := rfl
@[simp] theorem modTally_portB (n : Nat) (f : Tally → Tally) : (modTally d n f).portB = d.portB := rfl
@[simp] theorem modTally_reeve (n : Nat) (f : Tally → Tally) : (modTally d n f).reeve = d.reeve := rfl
@[simp] theorem modTally_ledger (n : Nat) (f : Tally → Tally) : (modTally d n f).ledger = d.ledger := rfl
@[simp] theorem modTally_tenants (n : Nat) (f : Tally → Tally) : (modTally d n f).tenants = d.tenants := rfl
@[simp] theorem modTally_tallyBlocks (n : Nat) (f : Tally → Tally) : (modTally d n f).tallyBlocks = d.tallyBlocks := rfl
@[simp] theorem modTally_owners (n : Nat) (f : Tally → Tally) : (modTally d n f).owners = d.owners := rfl
@[simp] theorem modTally_removed (n : Nat) (f : Tally → Tally) : (modTally d n f).removed = d.removed := rfl
@[simp] theorem modTally_slices (n : Nat) (f : Tally → Tally) : (modTally d n f).slices = d.slices := rfl
@[simp] theorem modTally_incarnations (n : Nat) (f : Tally → Tally) : (modTally d n f).incarnations = d.incarnations := rfl
@[simp] theorem modTally_models (n : Nat) (f : Tally → Tally) : (modTally d n f).models = d.models := rfl
@[simp] theorem modTally_loads (n : Nat) (f : Tally → Tally) : (modTally d n f).loads = d.loads := rfl
@[simp] theorem modTally_contexts (n : Nat) (f : Tally → Tally) : (modTally d n f).contexts = d.contexts := rfl
@[simp] theorem modTally_cmds (n : Nat) (f : Tally → Tally) : (modTally d n f).cmds = d.cmds := rfl
@[simp] theorem modTally_nextCmd (n : Nat) (f : Tally → Tally) : (modTally d n f).nextCmd = d.nextCmd := rfl
@[simp] theorem modTally_hamlets (n : Nat) (f : Tally → Tally) : (modTally d n f).hamlets = d.hamlets := rfl
@[simp] theorem modTally_tallies (n : Nat) (f : Tally → Tally) : (modTally d n f).tallies = Tbl.set d.tallies n (f (getTally d n)) := rfl
@[simp] theorem modTally_hearthSets (n : Nat) (f : Tally → Tally) : (modTally d n f).hearthSets = d.hearthSets := rfl
@[simp] theorem modTally_roads (n : Nat) (f : Tally → Tally) : (modTally d n f).roads = d.roads := rfl
@[simp] theorem modTally_peers (n : Nat) (f : Tally → Tally) : (modTally d n f).peers = d.peers := rfl
@[simp] theorem modTally_nonces (n : Nat) (f : Tally → Tally) : (modTally d n f).nonces = d.nonces := rfl
@[simp] theorem modTally_requests (n : Nat) (f : Tally → Tally) : (modTally d n f).requests = d.requests := rfl
@[simp] theorem modTally_reservations (n : Nat) (f : Tally → Tally) : (modTally d n f).reservations = d.reservations := rfl
@[simp] theorem modTally_brownout (n : Nat) (f : Tally → Tally) : (modTally d n f).brownout = d.brownout := rfl
@[simp] theorem modTally_jobs (n : Nat) (f : Tally → Tally) : (modTally d n f).jobs = d.jobs := rfl
@[simp] theorem modTally_gleanings (n : Nat) (f : Tally → Tally) : (modTally d n f).gleanings = d.gleanings := rfl
@[simp] theorem modTally_sheaves (n : Nat) (f : Tally → Tally) : (modTally d n f).sheaves = d.sheaves := rfl
@[simp] theorem modTally_nextSheaf (n : Nat) (f : Tally → Tally) : (modTally d n f).nextSheaf = d.nextSheaf := rfl
@[simp] theorem modTally_computed (n : Nat) (f : Tally → Tally) : (modTally d n f).computed = d.computed := rfl
@[simp] theorem modTally_units (n : Nat) (f : Tally → Tally) : (modTally d n f).units = d.units := rfl

@[simp] theorem modCmd_fresh (c : Nat) (f : Cmd → Cmd) : (modCmd d c f).fresh = d.fresh := rfl
@[simp] theorem modCmd_out (c : Nat) (f : Cmd → Cmd) : (modCmd d c f).out = d.out := rfl
@[simp] theorem modCmd_time (c : Nat) (f : Cmd → Cmd) : (modCmd d c f).time = d.time := rfl
@[simp] theorem modCmd_pkg (c : Nat) (f : Cmd → Cmd) : (modCmd d c f).pkg = d.pkg := rfl
@[simp] theorem modCmd_portA (c : Nat) (f : Cmd → Cmd) : (modCmd d c f).portA = d.portA := rfl
@[simp] theorem modCmd_portB (c : Nat) (f : Cmd → Cmd) : (modCmd d c f).portB = d.portB := rfl
@[simp] theorem modCmd_reeve (c : Nat) (f : Cmd → Cmd) : (modCmd d c f).reeve = d.reeve := rfl
@[simp] theorem modCmd_ledger (c : Nat) (f : Cmd → Cmd) : (modCmd d c f).ledger = d.ledger := rfl
@[simp] theorem modCmd_tenants (c : Nat) (f : Cmd → Cmd) : (modCmd d c f).tenants = d.tenants := rfl
@[simp] theorem modCmd_tallyBlocks (c : Nat) (f : Cmd → Cmd) : (modCmd d c f).tallyBlocks = d.tallyBlocks := rfl
@[simp] theorem modCmd_owners (c : Nat) (f : Cmd → Cmd) : (modCmd d c f).owners = d.owners := rfl
@[simp] theorem modCmd_removed (c : Nat) (f : Cmd → Cmd) : (modCmd d c f).removed = d.removed := rfl
@[simp] theorem modCmd_slices (c : Nat) (f : Cmd → Cmd) : (modCmd d c f).slices = d.slices := rfl
@[simp] theorem modCmd_incarnations (c : Nat) (f : Cmd → Cmd) : (modCmd d c f).incarnations = d.incarnations := rfl
@[simp] theorem modCmd_models (c : Nat) (f : Cmd → Cmd) : (modCmd d c f).models = d.models := rfl
@[simp] theorem modCmd_loads (c : Nat) (f : Cmd → Cmd) : (modCmd d c f).loads = d.loads := rfl
@[simp] theorem modCmd_contexts (c : Nat) (f : Cmd → Cmd) : (modCmd d c f).contexts = d.contexts := rfl
@[simp] theorem modCmd_cmds (c : Nat) (f : Cmd → Cmd) : (modCmd d c f).cmds = Tbl.update d.cmds c f := rfl
@[simp] theorem modCmd_nextCmd (c : Nat) (f : Cmd → Cmd) : (modCmd d c f).nextCmd = d.nextCmd := rfl
@[simp] theorem modCmd_hamlets (c : Nat) (f : Cmd → Cmd) : (modCmd d c f).hamlets = d.hamlets := rfl
@[simp] theorem modCmd_tallies (c : Nat) (f : Cmd → Cmd) : (modCmd d c f).tallies = d.tallies := rfl
@[simp] theorem modCmd_hearthSets (c : Nat) (f : Cmd → Cmd) : (modCmd d c f).hearthSets = d.hearthSets := rfl
@[simp] theorem modCmd_roads (c : Nat) (f : Cmd → Cmd) : (modCmd d c f).roads = d.roads := rfl
@[simp] theorem modCmd_peers (c : Nat) (f : Cmd → Cmd) : (modCmd d c f).peers = d.peers := rfl
@[simp] theorem modCmd_nonces (c : Nat) (f : Cmd → Cmd) : (modCmd d c f).nonces = d.nonces := rfl
@[simp] theorem modCmd_requests (c : Nat) (f : Cmd → Cmd) : (modCmd d c f).requests = d.requests := rfl
@[simp] theorem modCmd_reservations (c : Nat) (f : Cmd → Cmd) : (modCmd d c f).reservations = d.reservations := rfl
@[simp] theorem modCmd_brownout (c : Nat) (f : Cmd → Cmd) : (modCmd d c f).brownout = d.brownout := rfl
@[simp] theorem modCmd_jobs (c : Nat) (f : Cmd → Cmd) : (modCmd d c f).jobs = d.jobs := rfl
@[simp] theorem modCmd_gleanings (c : Nat) (f : Cmd → Cmd) : (modCmd d c f).gleanings = d.gleanings := rfl
@[simp] theorem modCmd_sheaves (c : Nat) (f : Cmd → Cmd) : (modCmd d c f).sheaves = d.sheaves := rfl
@[simp] theorem modCmd_nextSheaf (c : Nat) (f : Cmd → Cmd) : (modCmd d c f).nextSheaf = d.nextSheaf := rfl
@[simp] theorem modCmd_computed (c : Nat) (f : Cmd → Cmd) : (modCmd d c f).computed = d.computed := rfl
@[simp] theorem modCmd_units (c : Nat) (f : Cmd → Cmd) : (modCmd d c f).units = d.units := rfl

@[simp] theorem modReeve_fresh (f : Reeve → Reeve) : (modReeve d f).fresh = d.fresh := rfl
@[simp] theorem modReeve_out (f : Reeve → Reeve) : (modReeve d f).out = d.out := rfl
@[simp] theorem modReeve_time (f : Reeve → Reeve) : (modReeve d f).time = d.time := rfl
@[simp] theorem modReeve_pkg (f : Reeve → Reeve) : (modReeve d f).pkg = d.pkg := rfl
@[simp] theorem modReeve_portA (f : Reeve → Reeve) : (modReeve d f).portA = d.portA := rfl
@[simp] theorem modReeve_portB (f : Reeve → Reeve) : (modReeve d f).portB = d.portB := rfl
@[simp] theorem modReeve_reeve (f : Reeve → Reeve) : (modReeve d f).reeve = f d.reeve := rfl
@[simp] theorem modReeve_ledger (f : Reeve → Reeve) : (modReeve d f).ledger = d.ledger := rfl
@[simp] theorem modReeve_tenants (f : Reeve → Reeve) : (modReeve d f).tenants = d.tenants := rfl
@[simp] theorem modReeve_tallyBlocks (f : Reeve → Reeve) : (modReeve d f).tallyBlocks = d.tallyBlocks := rfl
@[simp] theorem modReeve_owners (f : Reeve → Reeve) : (modReeve d f).owners = d.owners := rfl
@[simp] theorem modReeve_removed (f : Reeve → Reeve) : (modReeve d f).removed = d.removed := rfl
@[simp] theorem modReeve_slices (f : Reeve → Reeve) : (modReeve d f).slices = d.slices := rfl
@[simp] theorem modReeve_incarnations (f : Reeve → Reeve) : (modReeve d f).incarnations = d.incarnations := rfl
@[simp] theorem modReeve_models (f : Reeve → Reeve) : (modReeve d f).models = d.models := rfl
@[simp] theorem modReeve_loads (f : Reeve → Reeve) : (modReeve d f).loads = d.loads := rfl
@[simp] theorem modReeve_contexts (f : Reeve → Reeve) : (modReeve d f).contexts = d.contexts := rfl
@[simp] theorem modReeve_cmds (f : Reeve → Reeve) : (modReeve d f).cmds = d.cmds := rfl
@[simp] theorem modReeve_nextCmd (f : Reeve → Reeve) : (modReeve d f).nextCmd = d.nextCmd := rfl
@[simp] theorem modReeve_hamlets (f : Reeve → Reeve) : (modReeve d f).hamlets = d.hamlets := rfl
@[simp] theorem modReeve_tallies (f : Reeve → Reeve) : (modReeve d f).tallies = d.tallies := rfl
@[simp] theorem modReeve_hearthSets (f : Reeve → Reeve) : (modReeve d f).hearthSets = d.hearthSets := rfl
@[simp] theorem modReeve_roads (f : Reeve → Reeve) : (modReeve d f).roads = d.roads := rfl
@[simp] theorem modReeve_peers (f : Reeve → Reeve) : (modReeve d f).peers = d.peers := rfl
@[simp] theorem modReeve_nonces (f : Reeve → Reeve) : (modReeve d f).nonces = d.nonces := rfl
@[simp] theorem modReeve_requests (f : Reeve → Reeve) : (modReeve d f).requests = d.requests := rfl
@[simp] theorem modReeve_reservations (f : Reeve → Reeve) : (modReeve d f).reservations = d.reservations := rfl
@[simp] theorem modReeve_brownout (f : Reeve → Reeve) : (modReeve d f).brownout = d.brownout := rfl
@[simp] theorem modReeve_jobs (f : Reeve → Reeve) : (modReeve d f).jobs = d.jobs := rfl
@[simp] theorem modReeve_gleanings (f : Reeve → Reeve) : (modReeve d f).gleanings = d.gleanings := rfl
@[simp] theorem modReeve_sheaves (f : Reeve → Reeve) : (modReeve d f).sheaves = d.sheaves := rfl
@[simp] theorem modReeve_nextSheaf (f : Reeve → Reeve) : (modReeve d f).nextSheaf = d.nextSheaf := rfl
@[simp] theorem modReeve_computed (f : Reeve → Reeve) : (modReeve d f).computed = d.computed := rfl
@[simp] theorem modReeve_units (f : Reeve → Reeve) : (modReeve d f).units = d.units := rfl

@[simp] theorem modPkg_fresh (f : Package → Package) : (modPkg d f).fresh = d.fresh := rfl
@[simp] theorem modPkg_out (f : Package → Package) : (modPkg d f).out = d.out := rfl
@[simp] theorem modPkg_time (f : Package → Package) : (modPkg d f).time = d.time := rfl
@[simp] theorem modPkg_pkg (f : Package → Package) : (modPkg d f).pkg = f d.pkg := rfl
@[simp] theorem modPkg_portA (f : Package → Package) : (modPkg d f).portA = d.portA := rfl
@[simp] theorem modPkg_portB (f : Package → Package) : (modPkg d f).portB = d.portB := rfl
@[simp] theorem modPkg_reeve (f : Package → Package) : (modPkg d f).reeve = d.reeve := rfl
@[simp] theorem modPkg_ledger (f : Package → Package) : (modPkg d f).ledger = d.ledger := rfl
@[simp] theorem modPkg_tenants (f : Package → Package) : (modPkg d f).tenants = d.tenants := rfl
@[simp] theorem modPkg_tallyBlocks (f : Package → Package) : (modPkg d f).tallyBlocks = d.tallyBlocks := rfl
@[simp] theorem modPkg_owners (f : Package → Package) : (modPkg d f).owners = d.owners := rfl
@[simp] theorem modPkg_removed (f : Package → Package) : (modPkg d f).removed = d.removed := rfl
@[simp] theorem modPkg_slices (f : Package → Package) : (modPkg d f).slices = d.slices := rfl
@[simp] theorem modPkg_incarnations (f : Package → Package) : (modPkg d f).incarnations = d.incarnations := rfl
@[simp] theorem modPkg_models (f : Package → Package) : (modPkg d f).models = d.models := rfl
@[simp] theorem modPkg_loads (f : Package → Package) : (modPkg d f).loads = d.loads := rfl
@[simp] theorem modPkg_contexts (f : Package → Package) : (modPkg d f).contexts = d.contexts := rfl
@[simp] theorem modPkg_cmds (f : Package → Package) : (modPkg d f).cmds = d.cmds := rfl
@[simp] theorem modPkg_nextCmd (f : Package → Package) : (modPkg d f).nextCmd = d.nextCmd := rfl
@[simp] theorem modPkg_hamlets (f : Package → Package) : (modPkg d f).hamlets = d.hamlets := rfl
@[simp] theorem modPkg_tallies (f : Package → Package) : (modPkg d f).tallies = d.tallies := rfl
@[simp] theorem modPkg_hearthSets (f : Package → Package) : (modPkg d f).hearthSets = d.hearthSets := rfl
@[simp] theorem modPkg_roads (f : Package → Package) : (modPkg d f).roads = d.roads := rfl
@[simp] theorem modPkg_peers (f : Package → Package) : (modPkg d f).peers = d.peers := rfl
@[simp] theorem modPkg_nonces (f : Package → Package) : (modPkg d f).nonces = d.nonces := rfl
@[simp] theorem modPkg_requests (f : Package → Package) : (modPkg d f).requests = d.requests := rfl
@[simp] theorem modPkg_reservations (f : Package → Package) : (modPkg d f).reservations = d.reservations := rfl
@[simp] theorem modPkg_brownout (f : Package → Package) : (modPkg d f).brownout = d.brownout := rfl
@[simp] theorem modPkg_jobs (f : Package → Package) : (modPkg d f).jobs = d.jobs := rfl
@[simp] theorem modPkg_gleanings (f : Package → Package) : (modPkg d f).gleanings = d.gleanings := rfl
@[simp] theorem modPkg_sheaves (f : Package → Package) : (modPkg d f).sheaves = d.sheaves := rfl
@[simp] theorem modPkg_nextSheaf (f : Package → Package) : (modPkg d f).nextSheaf = d.nextSheaf := rfl
@[simp] theorem modPkg_computed (f : Package → Package) : (modPkg d f).computed = d.computed := rfl
@[simp] theorem modPkg_units (f : Package → Package) : (modPkg d f).units = d.units := rfl

@[simp] theorem modTime_fresh (f : TimeUnit → TimeUnit) : (modTime d f).fresh = d.fresh := rfl
@[simp] theorem modTime_out (f : TimeUnit → TimeUnit) : (modTime d f).out = d.out := rfl
@[simp] theorem modTime_time (f : TimeUnit → TimeUnit) : (modTime d f).time = f d.time := rfl
@[simp] theorem modTime_pkg (f : TimeUnit → TimeUnit) : (modTime d f).pkg = d.pkg := rfl
@[simp] theorem modTime_portA (f : TimeUnit → TimeUnit) : (modTime d f).portA = d.portA := rfl
@[simp] theorem modTime_portB (f : TimeUnit → TimeUnit) : (modTime d f).portB = d.portB := rfl
@[simp] theorem modTime_reeve (f : TimeUnit → TimeUnit) : (modTime d f).reeve = d.reeve := rfl
@[simp] theorem modTime_ledger (f : TimeUnit → TimeUnit) : (modTime d f).ledger = d.ledger := rfl
@[simp] theorem modTime_tenants (f : TimeUnit → TimeUnit) : (modTime d f).tenants = d.tenants := rfl
@[simp] theorem modTime_tallyBlocks (f : TimeUnit → TimeUnit) : (modTime d f).tallyBlocks = d.tallyBlocks := rfl
@[simp] theorem modTime_owners (f : TimeUnit → TimeUnit) : (modTime d f).owners = d.owners := rfl
@[simp] theorem modTime_removed (f : TimeUnit → TimeUnit) : (modTime d f).removed = d.removed := rfl
@[simp] theorem modTime_slices (f : TimeUnit → TimeUnit) : (modTime d f).slices = d.slices := rfl
@[simp] theorem modTime_incarnations (f : TimeUnit → TimeUnit) : (modTime d f).incarnations = d.incarnations := rfl
@[simp] theorem modTime_models (f : TimeUnit → TimeUnit) : (modTime d f).models = d.models := rfl
@[simp] theorem modTime_loads (f : TimeUnit → TimeUnit) : (modTime d f).loads = d.loads := rfl
@[simp] theorem modTime_contexts (f : TimeUnit → TimeUnit) : (modTime d f).contexts = d.contexts := rfl
@[simp] theorem modTime_cmds (f : TimeUnit → TimeUnit) : (modTime d f).cmds = d.cmds := rfl
@[simp] theorem modTime_nextCmd (f : TimeUnit → TimeUnit) : (modTime d f).nextCmd = d.nextCmd := rfl
@[simp] theorem modTime_hamlets (f : TimeUnit → TimeUnit) : (modTime d f).hamlets = d.hamlets := rfl
@[simp] theorem modTime_tallies (f : TimeUnit → TimeUnit) : (modTime d f).tallies = d.tallies := rfl
@[simp] theorem modTime_hearthSets (f : TimeUnit → TimeUnit) : (modTime d f).hearthSets = d.hearthSets := rfl
@[simp] theorem modTime_roads (f : TimeUnit → TimeUnit) : (modTime d f).roads = d.roads := rfl
@[simp] theorem modTime_peers (f : TimeUnit → TimeUnit) : (modTime d f).peers = d.peers := rfl
@[simp] theorem modTime_nonces (f : TimeUnit → TimeUnit) : (modTime d f).nonces = d.nonces := rfl
@[simp] theorem modTime_requests (f : TimeUnit → TimeUnit) : (modTime d f).requests = d.requests := rfl
@[simp] theorem modTime_reservations (f : TimeUnit → TimeUnit) : (modTime d f).reservations = d.reservations := rfl
@[simp] theorem modTime_brownout (f : TimeUnit → TimeUnit) : (modTime d f).brownout = d.brownout := rfl
@[simp] theorem modTime_jobs (f : TimeUnit → TimeUnit) : (modTime d f).jobs = d.jobs := rfl
@[simp] theorem modTime_gleanings (f : TimeUnit → TimeUnit) : (modTime d f).gleanings = d.gleanings := rfl
@[simp] theorem modTime_sheaves (f : TimeUnit → TimeUnit) : (modTime d f).sheaves = d.sheaves := rfl
@[simp] theorem modTime_nextSheaf (f : TimeUnit → TimeUnit) : (modTime d f).nextSheaf = d.nextSheaf := rfl
@[simp] theorem modTime_computed (f : TimeUnit → TimeUnit) : (modTime d f).computed = d.computed := rfl
@[simp] theorem modTime_units (f : TimeUnit → TimeUnit) : (modTime d f).units = d.units := rfl

@[simp] theorem modTenant_fresh (t : Nat) (f : Tenant → Tenant) : (modTenant d t f).fresh = d.fresh := rfl
@[simp] theorem modTenant_out (t : Nat) (f : Tenant → Tenant) : (modTenant d t f).out = d.out := rfl
@[simp] theorem modTenant_time (t : Nat) (f : Tenant → Tenant) : (modTenant d t f).time = d.time := rfl
@[simp] theorem modTenant_pkg (t : Nat) (f : Tenant → Tenant) : (modTenant d t f).pkg = d.pkg := rfl
@[simp] theorem modTenant_portA (t : Nat) (f : Tenant → Tenant) : (modTenant d t f).portA = d.portA := rfl
@[simp] theorem modTenant_portB (t : Nat) (f : Tenant → Tenant) : (modTenant d t f).portB = d.portB := rfl
@[simp] theorem modTenant_reeve (t : Nat) (f : Tenant → Tenant) : (modTenant d t f).reeve = d.reeve := rfl
@[simp] theorem modTenant_ledger (t : Nat) (f : Tenant → Tenant) : (modTenant d t f).ledger = d.ledger := rfl
@[simp] theorem modTenant_tenants (t : Nat) (f : Tenant → Tenant) : (modTenant d t f).tenants = Tbl.update d.tenants t f := rfl
@[simp] theorem modTenant_tallyBlocks (t : Nat) (f : Tenant → Tenant) : (modTenant d t f).tallyBlocks = d.tallyBlocks := rfl
@[simp] theorem modTenant_owners (t : Nat) (f : Tenant → Tenant) : (modTenant d t f).owners = d.owners := rfl
@[simp] theorem modTenant_removed (t : Nat) (f : Tenant → Tenant) : (modTenant d t f).removed = d.removed := rfl
@[simp] theorem modTenant_slices (t : Nat) (f : Tenant → Tenant) : (modTenant d t f).slices = d.slices := rfl
@[simp] theorem modTenant_incarnations (t : Nat) (f : Tenant → Tenant) : (modTenant d t f).incarnations = d.incarnations := rfl
@[simp] theorem modTenant_models (t : Nat) (f : Tenant → Tenant) : (modTenant d t f).models = d.models := rfl
@[simp] theorem modTenant_loads (t : Nat) (f : Tenant → Tenant) : (modTenant d t f).loads = d.loads := rfl
@[simp] theorem modTenant_contexts (t : Nat) (f : Tenant → Tenant) : (modTenant d t f).contexts = d.contexts := rfl
@[simp] theorem modTenant_cmds (t : Nat) (f : Tenant → Tenant) : (modTenant d t f).cmds = d.cmds := rfl
@[simp] theorem modTenant_nextCmd (t : Nat) (f : Tenant → Tenant) : (modTenant d t f).nextCmd = d.nextCmd := rfl
@[simp] theorem modTenant_hamlets (t : Nat) (f : Tenant → Tenant) : (modTenant d t f).hamlets = d.hamlets := rfl
@[simp] theorem modTenant_tallies (t : Nat) (f : Tenant → Tenant) : (modTenant d t f).tallies = d.tallies := rfl
@[simp] theorem modTenant_hearthSets (t : Nat) (f : Tenant → Tenant) : (modTenant d t f).hearthSets = d.hearthSets := rfl
@[simp] theorem modTenant_roads (t : Nat) (f : Tenant → Tenant) : (modTenant d t f).roads = d.roads := rfl
@[simp] theorem modTenant_peers (t : Nat) (f : Tenant → Tenant) : (modTenant d t f).peers = d.peers := rfl
@[simp] theorem modTenant_nonces (t : Nat) (f : Tenant → Tenant) : (modTenant d t f).nonces = d.nonces := rfl
@[simp] theorem modTenant_requests (t : Nat) (f : Tenant → Tenant) : (modTenant d t f).requests = d.requests := rfl
@[simp] theorem modTenant_reservations (t : Nat) (f : Tenant → Tenant) : (modTenant d t f).reservations = d.reservations := rfl
@[simp] theorem modTenant_brownout (t : Nat) (f : Tenant → Tenant) : (modTenant d t f).brownout = d.brownout := rfl
@[simp] theorem modTenant_jobs (t : Nat) (f : Tenant → Tenant) : (modTenant d t f).jobs = d.jobs := rfl
@[simp] theorem modTenant_gleanings (t : Nat) (f : Tenant → Tenant) : (modTenant d t f).gleanings = d.gleanings := rfl
@[simp] theorem modTenant_sheaves (t : Nat) (f : Tenant → Tenant) : (modTenant d t f).sheaves = d.sheaves := rfl
@[simp] theorem modTenant_nextSheaf (t : Nat) (f : Tenant → Tenant) : (modTenant d t f).nextSheaf = d.nextSheaf := rfl
@[simp] theorem modTenant_computed (t : Nat) (f : Tenant → Tenant) : (modTenant d t f).computed = d.computed := rfl
@[simp] theorem modTenant_units (t : Nat) (f : Tenant → Tenant) : (modTenant d t f).units = d.units := rfl

@[simp] theorem emit_fresh (a : Action) : (emit d a).fresh = d.fresh := rfl
@[simp] theorem emit_out (a : Action) : (emit d a).out = d.out ++ [a] := rfl
@[simp] theorem emit_time (a : Action) : (emit d a).time = d.time := rfl
@[simp] theorem emit_pkg (a : Action) : (emit d a).pkg = d.pkg := rfl
@[simp] theorem emit_portA (a : Action) : (emit d a).portA = d.portA := rfl
@[simp] theorem emit_portB (a : Action) : (emit d a).portB = d.portB := rfl
@[simp] theorem emit_reeve (a : Action) : (emit d a).reeve = d.reeve := rfl
@[simp] theorem emit_ledger (a : Action) : (emit d a).ledger = d.ledger := rfl
@[simp] theorem emit_tenants (a : Action) : (emit d a).tenants = d.tenants := rfl
@[simp] theorem emit_tallyBlocks (a : Action) : (emit d a).tallyBlocks = d.tallyBlocks := rfl
@[simp] theorem emit_owners (a : Action) : (emit d a).owners = d.owners := rfl
@[simp] theorem emit_removed (a : Action) : (emit d a).removed = d.removed := rfl
@[simp] theorem emit_slices (a : Action) : (emit d a).slices = d.slices := rfl
@[simp] theorem emit_incarnations (a : Action) : (emit d a).incarnations = d.incarnations := rfl
@[simp] theorem emit_models (a : Action) : (emit d a).models = d.models := rfl
@[simp] theorem emit_loads (a : Action) : (emit d a).loads = d.loads := rfl
@[simp] theorem emit_contexts (a : Action) : (emit d a).contexts = d.contexts := rfl
@[simp] theorem emit_cmds (a : Action) : (emit d a).cmds = d.cmds := rfl
@[simp] theorem emit_nextCmd (a : Action) : (emit d a).nextCmd = d.nextCmd := rfl
@[simp] theorem emit_hamlets (a : Action) : (emit d a).hamlets = d.hamlets := rfl
@[simp] theorem emit_tallies (a : Action) : (emit d a).tallies = d.tallies := rfl
@[simp] theorem emit_hearthSets (a : Action) : (emit d a).hearthSets = d.hearthSets := rfl
@[simp] theorem emit_roads (a : Action) : (emit d a).roads = d.roads := rfl
@[simp] theorem emit_peers (a : Action) : (emit d a).peers = d.peers := rfl
@[simp] theorem emit_nonces (a : Action) : (emit d a).nonces = d.nonces := rfl
@[simp] theorem emit_requests (a : Action) : (emit d a).requests = d.requests := rfl
@[simp] theorem emit_reservations (a : Action) : (emit d a).reservations = d.reservations := rfl
@[simp] theorem emit_brownout (a : Action) : (emit d a).brownout = d.brownout := rfl
@[simp] theorem emit_jobs (a : Action) : (emit d a).jobs = d.jobs := rfl
@[simp] theorem emit_gleanings (a : Action) : (emit d a).gleanings = d.gleanings := rfl
@[simp] theorem emit_sheaves (a : Action) : (emit d a).sheaves = d.sheaves := rfl
@[simp] theorem emit_nextSheaf (a : Action) : (emit d a).nextSheaf = d.nextSheaf := rfl
@[simp] theorem emit_computed (a : Action) : (emit d a).computed = d.computed := rfl
@[simp] theorem emit_units (a : Action) : (emit d a).units = d.units := rfl

@[simp] theorem drawn_fresh : (drawn d).fresh = d.fresh + 1 := rfl
@[simp] theorem drawn_out : (drawn d).out = d.out := rfl
@[simp] theorem drawn_time : (drawn d).time = d.time := rfl
@[simp] theorem drawn_pkg : (drawn d).pkg = d.pkg := rfl
@[simp] theorem drawn_portA : (drawn d).portA = d.portA := rfl
@[simp] theorem drawn_portB : (drawn d).portB = d.portB := rfl
@[simp] theorem drawn_reeve : (drawn d).reeve = d.reeve := rfl
@[simp] theorem drawn_ledger : (drawn d).ledger = d.ledger := rfl
@[simp] theorem drawn_tenants : (drawn d).tenants = d.tenants := rfl
@[simp] theorem drawn_tallyBlocks : (drawn d).tallyBlocks = d.tallyBlocks := rfl
@[simp] theorem drawn_owners : (drawn d).owners = d.owners := rfl
@[simp] theorem drawn_removed : (drawn d).removed = d.removed := rfl
@[simp] theorem drawn_slices : (drawn d).slices = d.slices := rfl
@[simp] theorem drawn_incarnations : (drawn d).incarnations = d.incarnations := rfl
@[simp] theorem drawn_models : (drawn d).models = d.models := rfl
@[simp] theorem drawn_loads : (drawn d).loads = d.loads := rfl
@[simp] theorem drawn_contexts : (drawn d).contexts = d.contexts := rfl
@[simp] theorem drawn_cmds : (drawn d).cmds = d.cmds := rfl
@[simp] theorem drawn_nextCmd : (drawn d).nextCmd = d.nextCmd := rfl
@[simp] theorem drawn_hamlets : (drawn d).hamlets = d.hamlets := rfl
@[simp] theorem drawn_tallies : (drawn d).tallies = d.tallies := rfl
@[simp] theorem drawn_hearthSets : (drawn d).hearthSets = d.hearthSets := rfl
@[simp] theorem drawn_roads : (drawn d).roads = d.roads := rfl
@[simp] theorem drawn_peers : (drawn d).peers = d.peers := rfl
@[simp] theorem drawn_nonces : (drawn d).nonces = d.nonces := rfl
@[simp] theorem drawn_requests : (drawn d).requests = d.requests := rfl
@[simp] theorem drawn_reservations : (drawn d).reservations = d.reservations := rfl
@[simp] theorem drawn_brownout : (drawn d).brownout = d.brownout := rfl
@[simp] theorem drawn_jobs : (drawn d).jobs = d.jobs := rfl
@[simp] theorem drawn_gleanings : (drawn d).gleanings = d.gleanings := rfl
@[simp] theorem drawn_sheaves : (drawn d).sheaves = d.sheaves := rfl
@[simp] theorem drawn_nextSheaf : (drawn d).nextSheaf = d.nextSheaf := rfl
@[simp] theorem drawn_computed : (drawn d).computed = d.computed := rfl
@[simp] theorem drawn_units : (drawn d).units = d.units := rfl

@[simp] theorem modPort_fresh (p : Port) (f : PortState → PortState) : (modPort d p f).fresh = d.fresh := by cases p <;> rfl
@[simp] theorem modPort_out (p : Port) (f : PortState → PortState) : (modPort d p f).out = d.out := by cases p <;> rfl
@[simp] theorem modPort_time (p : Port) (f : PortState → PortState) : (modPort d p f).time = d.time := by cases p <;> rfl
@[simp] theorem modPort_pkg (p : Port) (f : PortState → PortState) : (modPort d p f).pkg = d.pkg := by cases p <;> rfl
@[simp] theorem modPort_reeve (p : Port) (f : PortState → PortState) : (modPort d p f).reeve = d.reeve := by cases p <;> rfl
@[simp] theorem modPort_ledger (p : Port) (f : PortState → PortState) : (modPort d p f).ledger = d.ledger := by cases p <;> rfl
@[simp] theorem modPort_tenants (p : Port) (f : PortState → PortState) : (modPort d p f).tenants = d.tenants := by cases p <;> rfl
@[simp] theorem modPort_tallyBlocks (p : Port) (f : PortState → PortState) : (modPort d p f).tallyBlocks = d.tallyBlocks := by cases p <;> rfl
@[simp] theorem modPort_owners (p : Port) (f : PortState → PortState) : (modPort d p f).owners = d.owners := by cases p <;> rfl
@[simp] theorem modPort_removed (p : Port) (f : PortState → PortState) : (modPort d p f).removed = d.removed := by cases p <;> rfl
@[simp] theorem modPort_slices (p : Port) (f : PortState → PortState) : (modPort d p f).slices = d.slices := by cases p <;> rfl
@[simp] theorem modPort_incarnations (p : Port) (f : PortState → PortState) : (modPort d p f).incarnations = d.incarnations := by cases p <;> rfl
@[simp] theorem modPort_models (p : Port) (f : PortState → PortState) : (modPort d p f).models = d.models := by cases p <;> rfl
@[simp] theorem modPort_loads (p : Port) (f : PortState → PortState) : (modPort d p f).loads = d.loads := by cases p <;> rfl
@[simp] theorem modPort_contexts (p : Port) (f : PortState → PortState) : (modPort d p f).contexts = d.contexts := by cases p <;> rfl
@[simp] theorem modPort_cmds (p : Port) (f : PortState → PortState) : (modPort d p f).cmds = d.cmds := by cases p <;> rfl
@[simp] theorem modPort_nextCmd (p : Port) (f : PortState → PortState) : (modPort d p f).nextCmd = d.nextCmd := by cases p <;> rfl
@[simp] theorem modPort_hamlets (p : Port) (f : PortState → PortState) : (modPort d p f).hamlets = d.hamlets := by cases p <;> rfl
@[simp] theorem modPort_tallies (p : Port) (f : PortState → PortState) : (modPort d p f).tallies = d.tallies := by cases p <;> rfl
@[simp] theorem modPort_hearthSets (p : Port) (f : PortState → PortState) : (modPort d p f).hearthSets = d.hearthSets := by cases p <;> rfl
@[simp] theorem modPort_roads (p : Port) (f : PortState → PortState) : (modPort d p f).roads = d.roads := by cases p <;> rfl
@[simp] theorem modPort_peers (p : Port) (f : PortState → PortState) : (modPort d p f).peers = d.peers := by cases p <;> rfl
@[simp] theorem modPort_nonces (p : Port) (f : PortState → PortState) : (modPort d p f).nonces = d.nonces := by cases p <;> rfl
@[simp] theorem modPort_requests (p : Port) (f : PortState → PortState) : (modPort d p f).requests = d.requests := by cases p <;> rfl
@[simp] theorem modPort_reservations (p : Port) (f : PortState → PortState) : (modPort d p f).reservations = d.reservations := by cases p <;> rfl
@[simp] theorem modPort_brownout (p : Port) (f : PortState → PortState) : (modPort d p f).brownout = d.brownout := by cases p <;> rfl
@[simp] theorem modPort_jobs (p : Port) (f : PortState → PortState) : (modPort d p f).jobs = d.jobs := by cases p <;> rfl
@[simp] theorem modPort_gleanings (p : Port) (f : PortState → PortState) : (modPort d p f).gleanings = d.gleanings := by cases p <;> rfl
@[simp] theorem modPort_sheaves (p : Port) (f : PortState → PortState) : (modPort d p f).sheaves = d.sheaves := by cases p <;> rfl
@[simp] theorem modPort_nextSheaf (p : Port) (f : PortState → PortState) : (modPort d p f).nextSheaf = d.nextSheaf := by cases p <;> rfl
@[simp] theorem modPort_computed (p : Port) (f : PortState → PortState) : (modPort d p f).computed = d.computed := by cases p <;> rfl
@[simp] theorem modPort_units (p : Port) (f : PortState → PortState) : (modPort d p f).units = d.units := by cases p <;> rfl

@[simp] theorem getPort_modPort_self (p : Port) (f : PortState → PortState) : getPort (modPort d p f) p = f (getPort d p) := by
  cases p <;> rfl

@[simp] theorem getPort_modPort_other (p : Port) (f : PortState → PortState) :
    getPort (modPort d p f) (otherPort p) = getPort d (otherPort p) := by
  cases p <;> rfl

@[simp] theorem getSlice_modSlice (k : Nat) (f : Slice → Slice) : getSlice (modSlice d k f) k = f (getSlice d k) :=
  Tbl.getD_set_self ..
theorem getSlice_modSlice_ne {j k : Nat} (f : Slice → Slice) (h : j ≠ k) : getSlice (modSlice d k f) j = getSlice d j :=
  Tbl.getD_set_ne _ _ _ h
@[simp] theorem getHam_modHam (k : Nat) (f : Hamlet → Hamlet) : getHam (modHam d k f) k = f (getHam d k) :=
  Tbl.getD_set_self ..
theorem getHam_modHam_ne {j k : Nat} (f : Hamlet → Hamlet) (h : j ≠ k) : getHam (modHam d k f) j = getHam d j :=
  Tbl.getD_set_ne _ _ _ h
@[simp] theorem getRoad_modRoad (k : Nat) (f : Road → Road) : getRoad (modRoad d k f) k = f (getRoad d k) :=
  Tbl.getD_set_self ..
theorem getRoad_modRoad_ne {j k : Nat} (f : Road → Road) (h : j ≠ k) : getRoad (modRoad d k f) j = getRoad d j :=
  Tbl.getD_set_ne _ _ _ h
@[simp] theorem getPeer_modPeer (k : Nat) (f : Peer → Peer) : getPeer (modPeer d k f) k = f (getPeer d k) :=
  Tbl.getD_set_self ..
theorem getPeer_modPeer_ne {j k : Nat} (f : Peer → Peer) (h : j ≠ k) : getPeer (modPeer d k f) j = getPeer d j :=
  Tbl.getD_set_ne _ _ _ h
@[simp] theorem getTally_modTally (k : Nat) (f : Tally → Tally) : getTally (modTally d k f) k = f (getTally d k) :=
  Tbl.getD_set_self ..
theorem getTally_modTally_ne {j k : Nat} (f : Tally → Tally) (h : j ≠ k) : getTally (modTally d k f) j = getTally d j :=
  Tbl.getD_set_ne _ _ _ h
theorem getSlice_congr {d e : Ctl} (h : e.slices = d.slices) (k : Nat) : getSlice e k = getSlice d k := by
  simp only [getSlice, h]
theorem getHam_congr {d e : Ctl} (h : e.hamlets = d.hamlets) (k : Nat) : getHam e k = getHam d k := by
  simp only [getHam, h]
theorem getRoad_congr {d e : Ctl} (h : e.roads = d.roads) (k : Nat) : getRoad e k = getRoad d k := by
  simp only [getRoad, h]
theorem getPeer_congr {d e : Ctl} (h : e.peers = d.peers) (k : Nat) : getPeer e k = getPeer d k := by
  simp only [getPeer, h]
theorem getTally_congr {d e : Ctl} (h : e.tallies = d.tallies) (k : Nat) : getTally e k = getTally d k := by
  simp only [getTally, h]

theorem getLane_modLane (i l : Nat) (f : Lane → Lane) : getLane (modLane d i l f) i l = f (getLane d i l) := by
  simp [getLane, modLane]

@[simp] theorem getSlice_modLane (i l : Nat) (f : Lane → Lane) :
    getSlice (modLane d i l f) i = { getSlice d i with lanes := Tbl.set (getSlice d i).lanes l (f (getLane d i l)) } := by
  simp [modLane, getLane]

end Sys2Proof.Machine
end

