-- ==== Sys2Proof/Laws/Ops.lean ====
section
/-! SUPPORT. What each shared operation leaves: one law per field an operation of Machine/Ops.lean does not write. -/

namespace Sys2Proof.Machine
open Sys2Proof

variable (d : Ctl)

@[simp] theorem sendTx_fresh (p : Port) (t : Transmission) : (sendTx d p t).fresh = d.fresh := by
  simp only [sendTx]; (repeat' split) <;> simp
@[simp] theorem sendTx_out (p : Port) (t : Transmission) : (sendTx d p t).out = d.out := by
  simp only [sendTx]; (repeat' split) <;> simp
@[simp] theorem sendTx_time (p : Port) (t : Transmission) : (sendTx d p t).time = d.time := by
  simp only [sendTx]; (repeat' split) <;> simp
@[simp] theorem sendTx_pkg (p : Port) (t : Transmission) : (sendTx d p t).pkg = d.pkg := by
  simp only [sendTx]; (repeat' split) <;> simp
@[simp] theorem sendTx_reeve (p : Port) (t : Transmission) : (sendTx d p t).reeve = d.reeve := by
  simp only [sendTx]; (repeat' split) <;> simp
@[simp] theorem sendTx_ledger (p : Port) (t : Transmission) : (sendTx d p t).ledger = d.ledger := by
  simp only [sendTx]; (repeat' split) <;> simp
@[simp] theorem sendTx_tenants (p : Port) (t : Transmission) : (sendTx d p t).tenants = d.tenants := by
  simp only [sendTx]; (repeat' split) <;> simp
@[simp] theorem sendTx_tallyBlocks (p : Port) (t : Transmission) : (sendTx d p t).tallyBlocks = d.tallyBlocks := by
  simp only [sendTx]; (repeat' split) <;> simp
@[simp] theorem sendTx_owners (p : Port) (t : Transmission) : (sendTx d p t).owners = d.owners := by
  simp only [sendTx]; (repeat' split) <;> simp
@[simp] theorem sendTx_removed (p : Port) (t : Transmission) : (sendTx d p t).removed = d.removed := by
  simp only [sendTx]; (repeat' split) <;> simp
@[simp] theorem sendTx_slices (p : Port) (t : Transmission) : (sendTx d p t).slices = d.slices := by
  simp only [sendTx]; (repeat' split) <;> simp
@[simp] theorem sendTx_incarnations (p : Port) (t : Transmission) : (sendTx d p t).incarnations = d.incarnations := by
  simp only [sendTx]; (repeat' split) <;> simp
@[simp] theorem sendTx_models (p : Port) (t : Transmission) : (sendTx d p t).models = d.models := by
  simp only [sendTx]; (repeat' split) <;> simp
@[simp] theorem sendTx_loads (p : Port) (t : Transmission) : (sendTx d p t).loads = d.loads := by
  simp only [sendTx]; (repeat' split) <;> simp
@[simp] theorem sendTx_contexts (p : Port) (t : Transmission) : (sendTx d p t).contexts = d.contexts := by
  simp only [sendTx]; (repeat' split) <;> simp
@[simp] theorem sendTx_cmds (p : Port) (t : Transmission) : (sendTx d p t).cmds = d.cmds := by
  simp only [sendTx]; (repeat' split) <;> simp
@[simp] theorem sendTx_nextCmd (p : Port) (t : Transmission) : (sendTx d p t).nextCmd = d.nextCmd := by
  simp only [sendTx]; (repeat' split) <;> simp
@[simp] theorem sendTx_hamlets (p : Port) (t : Transmission) : (sendTx d p t).hamlets = d.hamlets := by
  simp only [sendTx]; (repeat' split) <;> simp
@[simp] theorem sendTx_tallies (p : Port) (t : Transmission) : (sendTx d p t).tallies = d.tallies := by
  simp only [sendTx]; (repeat' split) <;> simp
@[simp] theorem sendTx_hearthSets (p : Port) (t : Transmission) : (sendTx d p t).hearthSets = d.hearthSets := by
  simp only [sendTx]; (repeat' split) <;> simp
@[simp] theorem sendTx_roads (p : Port) (t : Transmission) : (sendTx d p t).roads = d.roads := by
  simp only [sendTx]; (repeat' split) <;> simp
@[simp] theorem sendTx_peers (p : Port) (t : Transmission) : (sendTx d p t).peers = d.peers := by
  simp only [sendTx]; (repeat' split) <;> simp
@[simp] theorem sendTx_nonces (p : Port) (t : Transmission) : (sendTx d p t).nonces = d.nonces := by
  simp only [sendTx]; (repeat' split) <;> simp
@[simp] theorem sendTx_requests (p : Port) (t : Transmission) : (sendTx d p t).requests = d.requests := by
  simp only [sendTx]; (repeat' split) <;> simp
@[simp] theorem sendTx_reservations (p : Port) (t : Transmission) : (sendTx d p t).reservations = d.reservations := by
  simp only [sendTx]; (repeat' split) <;> simp
@[simp] theorem sendTx_brownout (p : Port) (t : Transmission) : (sendTx d p t).brownout = d.brownout := by
  simp only [sendTx]; (repeat' split) <;> simp
@[simp] theorem sendTx_jobs (p : Port) (t : Transmission) : (sendTx d p t).jobs = d.jobs := by
  simp only [sendTx]; (repeat' split) <;> simp
@[simp] theorem sendTx_gleanings (p : Port) (t : Transmission) : (sendTx d p t).gleanings = d.gleanings := by
  simp only [sendTx]; (repeat' split) <;> simp
@[simp] theorem sendTx_sheaves (p : Port) (t : Transmission) : (sendTx d p t).sheaves = d.sheaves := by
  simp only [sendTx]; (repeat' split) <;> simp
@[simp] theorem sendTx_nextSheaf (p : Port) (t : Transmission) : (sendTx d p t).nextSheaf = d.nextSheaf := by
  simp only [sendTx]; (repeat' split) <;> simp
@[simp] theorem sendTx_computed (p : Port) (t : Transmission) : (sendTx d p t).computed = d.computed := by
  simp only [sendTx]; (repeat' split) <;> simp
@[simp] theorem sendTx_units (p : Port) (t : Transmission) : (sendTx d p t).units = d.units := by
  simp only [sendTx]; (repeat' split) <;> simp

@[simp] theorem raiseVector_fresh (p : Port) (v : Nat) : (raiseVector d p v).fresh = d.fresh := by
  simp only [raiseVector]; (repeat' split) <;> simp
@[simp] theorem raiseVector_out (p : Port) (v : Nat) : (raiseVector d p v).out = d.out := by
  simp only [raiseVector]; (repeat' split) <;> simp
@[simp] theorem raiseVector_time (p : Port) (v : Nat) : (raiseVector d p v).time = d.time := by
  simp only [raiseVector]; (repeat' split) <;> simp
@[simp] theorem raiseVector_pkg (p : Port) (v : Nat) : (raiseVector d p v).pkg = d.pkg := by
  simp only [raiseVector]; (repeat' split) <;> simp
@[simp] theorem raiseVector_reeve (p : Port) (v : Nat) : (raiseVector d p v).reeve = d.reeve := by
  simp only [raiseVector]; (repeat' split) <;> simp
@[simp] theorem raiseVector_ledger (p : Port) (v : Nat) : (raiseVector d p v).ledger = d.ledger := by
  simp only [raiseVector]; (repeat' split) <;> simp
@[simp] theorem raiseVector_tenants (p : Port) (v : Nat) : (raiseVector d p v).tenants = d.tenants := by
  simp only [raiseVector]; (repeat' split) <;> simp
@[simp] theorem raiseVector_tallyBlocks (p : Port) (v : Nat) : (raiseVector d p v).tallyBlocks = d.tallyBlocks := by
  simp only [raiseVector]; (repeat' split) <;> simp
@[simp] theorem raiseVector_owners (p : Port) (v : Nat) : (raiseVector d p v).owners = d.owners := by
  simp only [raiseVector]; (repeat' split) <;> simp
@[simp] theorem raiseVector_removed (p : Port) (v : Nat) : (raiseVector d p v).removed = d.removed := by
  simp only [raiseVector]; (repeat' split) <;> simp
@[simp] theorem raiseVector_slices (p : Port) (v : Nat) : (raiseVector d p v).slices = d.slices := by
  simp only [raiseVector]; (repeat' split) <;> simp
@[simp] theorem raiseVector_incarnations (p : Port) (v : Nat) : (raiseVector d p v).incarnations = d.incarnations := by
  simp only [raiseVector]; (repeat' split) <;> simp
@[simp] theorem raiseVector_models (p : Port) (v : Nat) : (raiseVector d p v).models = d.models := by
  simp only [raiseVector]; (repeat' split) <;> simp
@[simp] theorem raiseVector_loads (p : Port) (v : Nat) : (raiseVector d p v).loads = d.loads := by
  simp only [raiseVector]; (repeat' split) <;> simp
@[simp] theorem raiseVector_contexts (p : Port) (v : Nat) : (raiseVector d p v).contexts = d.contexts := by
  simp only [raiseVector]; (repeat' split) <;> simp
@[simp] theorem raiseVector_cmds (p : Port) (v : Nat) : (raiseVector d p v).cmds = d.cmds := by
  simp only [raiseVector]; (repeat' split) <;> simp
@[simp] theorem raiseVector_nextCmd (p : Port) (v : Nat) : (raiseVector d p v).nextCmd = d.nextCmd := by
  simp only [raiseVector]; (repeat' split) <;> simp
@[simp] theorem raiseVector_hamlets (p : Port) (v : Nat) : (raiseVector d p v).hamlets = d.hamlets := by
  simp only [raiseVector]; (repeat' split) <;> simp
@[simp] theorem raiseVector_tallies (p : Port) (v : Nat) : (raiseVector d p v).tallies = d.tallies := by
  simp only [raiseVector]; (repeat' split) <;> simp
@[simp] theorem raiseVector_hearthSets (p : Port) (v : Nat) : (raiseVector d p v).hearthSets = d.hearthSets := by
  simp only [raiseVector]; (repeat' split) <;> simp
@[simp] theorem raiseVector_roads (p : Port) (v : Nat) : (raiseVector d p v).roads = d.roads := by
  simp only [raiseVector]; (repeat' split) <;> simp
@[simp] theorem raiseVector_peers (p : Port) (v : Nat) : (raiseVector d p v).peers = d.peers := by
  simp only [raiseVector]; (repeat' split) <;> simp
@[simp] theorem raiseVector_nonces (p : Port) (v : Nat) : (raiseVector d p v).nonces = d.nonces := by
  simp only [raiseVector]; (repeat' split) <;> simp
@[simp] theorem raiseVector_requests (p : Port) (v : Nat) : (raiseVector d p v).requests = d.requests := by
  simp only [raiseVector]; (repeat' split) <;> simp
@[simp] theorem raiseVector_reservations (p : Port) (v : Nat) : (raiseVector d p v).reservations = d.reservations := by
  simp only [raiseVector]; (repeat' split) <;> simp
@[simp] theorem raiseVector_brownout (p : Port) (v : Nat) : (raiseVector d p v).brownout = d.brownout := by
  simp only [raiseVector]; (repeat' split) <;> simp
@[simp] theorem raiseVector_jobs (p : Port) (v : Nat) : (raiseVector d p v).jobs = d.jobs := by
  simp only [raiseVector]; (repeat' split) <;> simp
@[simp] theorem raiseVector_gleanings (p : Port) (v : Nat) : (raiseVector d p v).gleanings = d.gleanings := by
  simp only [raiseVector]; (repeat' split) <;> simp
@[simp] theorem raiseVector_sheaves (p : Port) (v : Nat) : (raiseVector d p v).sheaves = d.sheaves := by
  simp only [raiseVector]; (repeat' split) <;> simp
@[simp] theorem raiseVector_nextSheaf (p : Port) (v : Nat) : (raiseVector d p v).nextSheaf = d.nextSheaf := by
  simp only [raiseVector]; (repeat' split) <;> simp
@[simp] theorem raiseVector_computed (p : Port) (v : Nat) : (raiseVector d p v).computed = d.computed := by
  simp only [raiseVector]; (repeat' split) <;> simp
@[simp] theorem raiseVector_units (p : Port) (v : Nat) : (raiseVector d p v).units = d.units := by
  simp only [raiseVector]; (repeat' split) <;> simp

@[simp] theorem pfIrq_fresh (p : Port) (k : Nat) : (pfIrq d p k).fresh = d.fresh := by
  simp only [pfIrq]; (repeat' split) <;> simp
@[simp] theorem pfIrq_out (p : Port) (k : Nat) : (pfIrq d p k).out = d.out := by
  simp only [pfIrq]; (repeat' split) <;> simp
@[simp] theorem pfIrq_time (p : Port) (k : Nat) : (pfIrq d p k).time = d.time := by
  simp only [pfIrq]; (repeat' split) <;> simp
@[simp] theorem pfIrq_pkg (p : Port) (k : Nat) : (pfIrq d p k).pkg = d.pkg := by
  simp only [pfIrq]; (repeat' split) <;> simp
@[simp] theorem pfIrq_reeve (p : Port) (k : Nat) : (pfIrq d p k).reeve = d.reeve := by
  simp only [pfIrq]; (repeat' split) <;> simp
@[simp] theorem pfIrq_ledger (p : Port) (k : Nat) : (pfIrq d p k).ledger = d.ledger := by
  simp only [pfIrq]; (repeat' split) <;> simp
@[simp] theorem pfIrq_tenants (p : Port) (k : Nat) : (pfIrq d p k).tenants = d.tenants := by
  simp only [pfIrq]; (repeat' split) <;> simp
@[simp] theorem pfIrq_tallyBlocks (p : Port) (k : Nat) : (pfIrq d p k).tallyBlocks = d.tallyBlocks := by
  simp only [pfIrq]; (repeat' split) <;> simp
@[simp] theorem pfIrq_owners (p : Port) (k : Nat) : (pfIrq d p k).owners = d.owners := by
  simp only [pfIrq]; (repeat' split) <;> simp
@[simp] theorem pfIrq_removed (p : Port) (k : Nat) : (pfIrq d p k).removed = d.removed := by
  simp only [pfIrq]; (repeat' split) <;> simp
@[simp] theorem pfIrq_slices (p : Port) (k : Nat) : (pfIrq d p k).slices = d.slices := by
  simp only [pfIrq]; (repeat' split) <;> simp
@[simp] theorem pfIrq_incarnations (p : Port) (k : Nat) : (pfIrq d p k).incarnations = d.incarnations := by
  simp only [pfIrq]; (repeat' split) <;> simp
@[simp] theorem pfIrq_models (p : Port) (k : Nat) : (pfIrq d p k).models = d.models := by
  simp only [pfIrq]; (repeat' split) <;> simp
@[simp] theorem pfIrq_loads (p : Port) (k : Nat) : (pfIrq d p k).loads = d.loads := by
  simp only [pfIrq]; (repeat' split) <;> simp
@[simp] theorem pfIrq_contexts (p : Port) (k : Nat) : (pfIrq d p k).contexts = d.contexts := by
  simp only [pfIrq]; (repeat' split) <;> simp
@[simp] theorem pfIrq_cmds (p : Port) (k : Nat) : (pfIrq d p k).cmds = d.cmds := by
  simp only [pfIrq]; (repeat' split) <;> simp
@[simp] theorem pfIrq_nextCmd (p : Port) (k : Nat) : (pfIrq d p k).nextCmd = d.nextCmd := by
  simp only [pfIrq]; (repeat' split) <;> simp
@[simp] theorem pfIrq_hamlets (p : Port) (k : Nat) : (pfIrq d p k).hamlets = d.hamlets := by
  simp only [pfIrq]; (repeat' split) <;> simp
@[simp] theorem pfIrq_tallies (p : Port) (k : Nat) : (pfIrq d p k).tallies = d.tallies := by
  simp only [pfIrq]; (repeat' split) <;> simp
@[simp] theorem pfIrq_hearthSets (p : Port) (k : Nat) : (pfIrq d p k).hearthSets = d.hearthSets := by
  simp only [pfIrq]; (repeat' split) <;> simp
@[simp] theorem pfIrq_roads (p : Port) (k : Nat) : (pfIrq d p k).roads = d.roads := by
  simp only [pfIrq]; (repeat' split) <;> simp
@[simp] theorem pfIrq_peers (p : Port) (k : Nat) : (pfIrq d p k).peers = d.peers := by
  simp only [pfIrq]; (repeat' split) <;> simp
@[simp] theorem pfIrq_nonces (p : Port) (k : Nat) : (pfIrq d p k).nonces = d.nonces := by
  simp only [pfIrq]; (repeat' split) <;> simp
@[simp] theorem pfIrq_requests (p : Port) (k : Nat) : (pfIrq d p k).requests = d.requests := by
  simp only [pfIrq]; (repeat' split) <;> simp
@[simp] theorem pfIrq_reservations (p : Port) (k : Nat) : (pfIrq d p k).reservations = d.reservations := by
  simp only [pfIrq]; (repeat' split) <;> simp
@[simp] theorem pfIrq_brownout (p : Port) (k : Nat) : (pfIrq d p k).brownout = d.brownout := by
  simp only [pfIrq]; (repeat' split) <;> simp
@[simp] theorem pfIrq_jobs (p : Port) (k : Nat) : (pfIrq d p k).jobs = d.jobs := by
  simp only [pfIrq]; (repeat' split) <;> simp
@[simp] theorem pfIrq_gleanings (p : Port) (k : Nat) : (pfIrq d p k).gleanings = d.gleanings := by
  simp only [pfIrq]; (repeat' split) <;> simp
@[simp] theorem pfIrq_sheaves (p : Port) (k : Nat) : (pfIrq d p k).sheaves = d.sheaves := by
  simp only [pfIrq]; (repeat' split) <;> simp
@[simp] theorem pfIrq_nextSheaf (p : Port) (k : Nat) : (pfIrq d p k).nextSheaf = d.nextSheaf := by
  simp only [pfIrq]; (repeat' split) <;> simp
@[simp] theorem pfIrq_computed (p : Port) (k : Nat) : (pfIrq d p k).computed = d.computed := by
  simp only [pfIrq]; (repeat' split) <;> simp
@[simp] theorem pfIrq_units (p : Port) (k : Nat) : (pfIrq d p k).units = d.units := by
  simp only [pfIrq]; (repeat' split) <;> simp

@[simp] theorem setAlert_fresh (m : W32) : (setAlert d m).fresh = d.fresh := by
  simp only [setAlert]; (repeat' split) <;> simp
@[simp] theorem setAlert_out (m : W32) : (setAlert d m).out = d.out := by
  simp only [setAlert]; (repeat' split) <;> simp
@[simp] theorem setAlert_time (m : W32) : (setAlert d m).time = d.time := by
  simp only [setAlert]; (repeat' split) <;> simp
@[simp] theorem setAlert_pkg (m : W32) : (setAlert d m).pkg = d.pkg := by
  simp only [setAlert]; (repeat' split) <;> simp
@[simp] theorem setAlert_ledger (m : W32) : (setAlert d m).ledger = d.ledger := by
  simp only [setAlert]; (repeat' split) <;> simp
@[simp] theorem setAlert_tenants (m : W32) : (setAlert d m).tenants = d.tenants := by
  simp only [setAlert]; (repeat' split) <;> simp
@[simp] theorem setAlert_tallyBlocks (m : W32) : (setAlert d m).tallyBlocks = d.tallyBlocks := by
  simp only [setAlert]; (repeat' split) <;> simp
@[simp] theorem setAlert_owners (m : W32) : (setAlert d m).owners = d.owners := by
  simp only [setAlert]; (repeat' split) <;> simp
@[simp] theorem setAlert_removed (m : W32) : (setAlert d m).removed = d.removed := by
  simp only [setAlert]; (repeat' split) <;> simp
@[simp] theorem setAlert_slices (m : W32) : (setAlert d m).slices = d.slices := by
  simp only [setAlert]; (repeat' split) <;> simp
@[simp] theorem setAlert_incarnations (m : W32) : (setAlert d m).incarnations = d.incarnations := by
  simp only [setAlert]; (repeat' split) <;> simp
@[simp] theorem setAlert_models (m : W32) : (setAlert d m).models = d.models := by
  simp only [setAlert]; (repeat' split) <;> simp
@[simp] theorem setAlert_loads (m : W32) : (setAlert d m).loads = d.loads := by
  simp only [setAlert]; (repeat' split) <;> simp
@[simp] theorem setAlert_contexts (m : W32) : (setAlert d m).contexts = d.contexts := by
  simp only [setAlert]; (repeat' split) <;> simp
@[simp] theorem setAlert_cmds (m : W32) : (setAlert d m).cmds = d.cmds := by
  simp only [setAlert]; (repeat' split) <;> simp
@[simp] theorem setAlert_nextCmd (m : W32) : (setAlert d m).nextCmd = d.nextCmd := by
  simp only [setAlert]; (repeat' split) <;> simp
@[simp] theorem setAlert_hamlets (m : W32) : (setAlert d m).hamlets = d.hamlets := by
  simp only [setAlert]; (repeat' split) <;> simp
@[simp] theorem setAlert_tallies (m : W32) : (setAlert d m).tallies = d.tallies := by
  simp only [setAlert]; (repeat' split) <;> simp
@[simp] theorem setAlert_hearthSets (m : W32) : (setAlert d m).hearthSets = d.hearthSets := by
  simp only [setAlert]; (repeat' split) <;> simp
@[simp] theorem setAlert_roads (m : W32) : (setAlert d m).roads = d.roads := by
  simp only [setAlert]; (repeat' split) <;> simp
@[simp] theorem setAlert_peers (m : W32) : (setAlert d m).peers = d.peers := by
  simp only [setAlert]; (repeat' split) <;> simp
@[simp] theorem setAlert_nonces (m : W32) : (setAlert d m).nonces = d.nonces := by
  simp only [setAlert]; (repeat' split) <;> simp
@[simp] theorem setAlert_requests (m : W32) : (setAlert d m).requests = d.requests := by
  simp only [setAlert]; (repeat' split) <;> simp
@[simp] theorem setAlert_reservations (m : W32) : (setAlert d m).reservations = d.reservations := by
  simp only [setAlert]; (repeat' split) <;> simp
@[simp] theorem setAlert_brownout (m : W32) : (setAlert d m).brownout = d.brownout := by
  simp only [setAlert]; (repeat' split) <;> simp
@[simp] theorem setAlert_jobs (m : W32) : (setAlert d m).jobs = d.jobs := by
  simp only [setAlert]; (repeat' split) <;> simp
@[simp] theorem setAlert_gleanings (m : W32) : (setAlert d m).gleanings = d.gleanings := by
  simp only [setAlert]; (repeat' split) <;> simp
@[simp] theorem setAlert_sheaves (m : W32) : (setAlert d m).sheaves = d.sheaves := by
  simp only [setAlert]; (repeat' split) <;> simp
@[simp] theorem setAlert_nextSheaf (m : W32) : (setAlert d m).nextSheaf = d.nextSheaf := by
  simp only [setAlert]; (repeat' split) <;> simp
@[simp] theorem setAlert_computed (m : W32) : (setAlert d m).computed = d.computed := by
  simp only [setAlert]; (repeat' split) <;> simp
@[simp] theorem setAlert_units (m : W32) : (setAlert d m).units = d.units := by
  simp only [setAlert]; (repeat' split) <;> simp

@[simp] theorem raiseIbi_fresh (c : Byte) : (raiseIbi d c).fresh = d.fresh := by
  simp only [raiseIbi]; (repeat' split) <;> simp
@[simp] theorem raiseIbi_time (c : Byte) : (raiseIbi d c).time = d.time := by
  simp only [raiseIbi]; (repeat' split) <;> simp
@[simp] theorem raiseIbi_portA (c : Byte) : (raiseIbi d c).portA = d.portA := by
  simp only [raiseIbi]; (repeat' split) <;> simp
@[simp] theorem raiseIbi_portB (c : Byte) : (raiseIbi d c).portB = d.portB := by
  simp only [raiseIbi]; (repeat' split) <;> simp
@[simp] theorem raiseIbi_reeve (c : Byte) : (raiseIbi d c).reeve = d.reeve := by
  simp only [raiseIbi]; (repeat' split) <;> simp
@[simp] theorem raiseIbi_ledger (c : Byte) : (raiseIbi d c).ledger = d.ledger := by
  simp only [raiseIbi]; (repeat' split) <;> simp
@[simp] theorem raiseIbi_tenants (c : Byte) : (raiseIbi d c).tenants = d.tenants := by
  simp only [raiseIbi]; (repeat' split) <;> simp
@[simp] theorem raiseIbi_tallyBlocks (c : Byte) : (raiseIbi d c).tallyBlocks = d.tallyBlocks := by
  simp only [raiseIbi]; (repeat' split) <;> simp
@[simp] theorem raiseIbi_owners (c : Byte) : (raiseIbi d c).owners = d.owners := by
  simp only [raiseIbi]; (repeat' split) <;> simp
@[simp] theorem raiseIbi_removed (c : Byte) : (raiseIbi d c).removed = d.removed := by
  simp only [raiseIbi]; (repeat' split) <;> simp
@[simp] theorem raiseIbi_slices (c : Byte) : (raiseIbi d c).slices = d.slices := by
  simp only [raiseIbi]; (repeat' split) <;> simp
@[simp] theorem raiseIbi_incarnations (c : Byte) : (raiseIbi d c).incarnations = d.incarnations := by
  simp only [raiseIbi]; (repeat' split) <;> simp
@[simp] theorem raiseIbi_models (c : Byte) : (raiseIbi d c).models = d.models := by
  simp only [raiseIbi]; (repeat' split) <;> simp
@[simp] theorem raiseIbi_loads (c : Byte) : (raiseIbi d c).loads = d.loads := by
  simp only [raiseIbi]; (repeat' split) <;> simp
@[simp] theorem raiseIbi_contexts (c : Byte) : (raiseIbi d c).contexts = d.contexts := by
  simp only [raiseIbi]; (repeat' split) <;> simp
@[simp] theorem raiseIbi_cmds (c : Byte) : (raiseIbi d c).cmds = d.cmds := by
  simp only [raiseIbi]; (repeat' split) <;> simp
@[simp] theorem raiseIbi_nextCmd (c : Byte) : (raiseIbi d c).nextCmd = d.nextCmd := by
  simp only [raiseIbi]; (repeat' split) <;> simp
@[simp] theorem raiseIbi_hamlets (c : Byte) : (raiseIbi d c).hamlets = d.hamlets := by
  simp only [raiseIbi]; (repeat' split) <;> simp
@[simp] theorem raiseIbi_tallies (c : Byte) : (raiseIbi d c).tallies = d.tallies := by
  simp only [raiseIbi]; (repeat' split) <;> simp
@[simp] theorem raiseIbi_hearthSets (c : Byte) : (raiseIbi d c).hearthSets = d.hearthSets := by
  simp only [raiseIbi]; (repeat' split) <;> simp
@[simp] theorem raiseIbi_roads (c : Byte) : (raiseIbi d c).roads = d.roads := by
  simp only [raiseIbi]; (repeat' split) <;> simp
@[simp] theorem raiseIbi_peers (c : Byte) : (raiseIbi d c).peers = d.peers := by
  simp only [raiseIbi]; (repeat' split) <;> simp
@[simp] theorem raiseIbi_nonces (c : Byte) : (raiseIbi d c).nonces = d.nonces := by
  simp only [raiseIbi]; (repeat' split) <;> simp
@[simp] theorem raiseIbi_requests (c : Byte) : (raiseIbi d c).requests = d.requests := by
  simp only [raiseIbi]; (repeat' split) <;> simp
@[simp] theorem raiseIbi_reservations (c : Byte) : (raiseIbi d c).reservations = d.reservations := by
  simp only [raiseIbi]; (repeat' split) <;> simp
@[simp] theorem raiseIbi_brownout (c : Byte) : (raiseIbi d c).brownout = d.brownout := by
  simp only [raiseIbi]; (repeat' split) <;> simp
@[simp] theorem raiseIbi_jobs (c : Byte) : (raiseIbi d c).jobs = d.jobs := by
  simp only [raiseIbi]; (repeat' split) <;> simp
@[simp] theorem raiseIbi_gleanings (c : Byte) : (raiseIbi d c).gleanings = d.gleanings := by
  simp only [raiseIbi]; (repeat' split) <;> simp
@[simp] theorem raiseIbi_sheaves (c : Byte) : (raiseIbi d c).sheaves = d.sheaves := by
  simp only [raiseIbi]; (repeat' split) <;> simp
@[simp] theorem raiseIbi_nextSheaf (c : Byte) : (raiseIbi d c).nextSheaf = d.nextSheaf := by
  simp only [raiseIbi]; (repeat' split) <;> simp
@[simp] theorem raiseIbi_units (c : Byte) : (raiseIbi d c).units = d.units := by
  simp only [raiseIbi]; (repeat' split) <;> simp
@[simp] theorem raiseIbi_computed (c : Byte) : (raiseIbi d c).computed = d.computed := by
  simp only [raiseIbi]; (repeat' split) <;> simp

@[simp] theorem newFault_fresh (r : FaultRecord) : (newFault d r).fresh = d.fresh := by
  simp only [newFault]; (repeat' split) <;> simp
@[simp] theorem newFault_time (r : FaultRecord) : (newFault d r).time = d.time := by
  simp only [newFault]; (repeat' split) <;> simp
@[simp] theorem newFault_ledger (r : FaultRecord) : (newFault d r).ledger = d.ledger := by
  simp only [newFault]; (repeat' split) <;> simp
@[simp] theorem newFault_tenants (r : FaultRecord) : (newFault d r).tenants = d.tenants := by
  simp only [newFault]; (repeat' split) <;> simp
@[simp] theorem newFault_tallyBlocks (r : FaultRecord) : (newFault d r).tallyBlocks = d.tallyBlocks := by
  simp only [newFault]; (repeat' split) <;> simp
@[simp] theorem newFault_owners (r : FaultRecord) : (newFault d r).owners = d.owners := by
  simp only [newFault]; (repeat' split) <;> simp
@[simp] theorem newFault_removed (r : FaultRecord) : (newFault d r).removed = d.removed := by
  simp only [newFault]; (repeat' split) <;> simp
@[simp] theorem newFault_slices (r : FaultRecord) : (newFault d r).slices = d.slices := by
  simp only [newFault]; (repeat' split) <;> simp
@[simp] theorem newFault_incarnations (r : FaultRecord) : (newFault d r).incarnations = d.incarnations := by
  simp only [newFault]; (repeat' split) <;> simp
@[simp] theorem newFault_models (r : FaultRecord) : (newFault d r).models = d.models := by
  simp only [newFault]; (repeat' split) <;> simp
@[simp] theorem newFault_loads (r : FaultRecord) : (newFault d r).loads = d.loads := by
  simp only [newFault]; (repeat' split) <;> simp
@[simp] theorem newFault_contexts (r : FaultRecord) : (newFault d r).contexts = d.contexts := by
  simp only [newFault]; (repeat' split) <;> simp
@[simp] theorem newFault_cmds (r : FaultRecord) : (newFault d r).cmds = d.cmds := by
  simp only [newFault]; (repeat' split) <;> simp
@[simp] theorem newFault_nextCmd (r : FaultRecord) : (newFault d r).nextCmd = d.nextCmd := by
  simp only [newFault]; (repeat' split) <;> simp
@[simp] theorem newFault_hamlets (r : FaultRecord) : (newFault d r).hamlets = d.hamlets := by
  simp only [newFault]; (repeat' split) <;> simp
@[simp] theorem newFault_tallies (r : FaultRecord) : (newFault d r).tallies = d.tallies := by
  simp only [newFault]; (repeat' split) <;> simp
@[simp] theorem newFault_hearthSets (r : FaultRecord) : (newFault d r).hearthSets = d.hearthSets := by
  simp only [newFault]; (repeat' split) <;> simp
@[simp] theorem newFault_roads (r : FaultRecord) : (newFault d r).roads = d.roads := by
  simp only [newFault]; (repeat' split) <;> simp
@[simp] theorem newFault_peers (r : FaultRecord) : (newFault d r).peers = d.peers := by
  simp only [newFault]; (repeat' split) <;> simp
@[simp] theorem newFault_nonces (r : FaultRecord) : (newFault d r).nonces = d.nonces := by
  simp only [newFault]; (repeat' split) <;> simp
@[simp] theorem newFault_requests (r : FaultRecord) : (newFault d r).requests = d.requests := by
  simp only [newFault]; (repeat' split) <;> simp
@[simp] theorem newFault_reservations (r : FaultRecord) : (newFault d r).reservations = d.reservations := by
  simp only [newFault]; (repeat' split) <;> simp
@[simp] theorem newFault_brownout (r : FaultRecord) : (newFault d r).brownout = d.brownout := by
  simp only [newFault]; (repeat' split) <;> simp
@[simp] theorem newFault_jobs (r : FaultRecord) : (newFault d r).jobs = d.jobs := by
  simp only [newFault]; (repeat' split) <;> simp
@[simp] theorem newFault_gleanings (r : FaultRecord) : (newFault d r).gleanings = d.gleanings := by
  simp only [newFault]; (repeat' split) <;> simp
@[simp] theorem newFault_sheaves (r : FaultRecord) : (newFault d r).sheaves = d.sheaves := by
  simp only [newFault]; (repeat' split) <;> simp
@[simp] theorem newFault_nextSheaf (r : FaultRecord) : (newFault d r).nextSheaf = d.nextSheaf := by
  simp only [newFault]; (repeat' split) <;> simp
@[simp] theorem newFault_units (r : FaultRecord) : (newFault d r).units = d.units := by
  simp only [newFault]; (repeat' split) <;> simp
@[simp] theorem newFault_computed (r : FaultRecord) : (newFault d r).computed = d.computed := by
  simp only [newFault]; (repeat' split) <;> simp

@[simp] theorem faultRecord_fresh (a b c u v h i j : Nat) : (faultRecord d a b c u v h i j).fresh = d.fresh := by
  simp [faultRecord]
@[simp] theorem faultRecord_time (a b c u v h i j : Nat) : (faultRecord d a b c u v h i j).time = d.time := by
  simp [faultRecord]
@[simp] theorem faultRecord_ledger (a b c u v h i j : Nat) : (faultRecord d a b c u v h i j).ledger = d.ledger := by
  simp [faultRecord]
@[simp] theorem faultRecord_tenants (a b c u v h i j : Nat) : (faultRecord d a b c u v h i j).tenants = d.tenants := by
  simp [faultRecord]
@[simp] theorem faultRecord_tallyBlocks (a b c u v h i j : Nat) : (faultRecord d a b c u v h i j).tallyBlocks = d.tallyBlocks := by
  simp [faultRecord]
@[simp] theorem faultRecord_owners (a b c u v h i j : Nat) : (faultRecord d a b c u v h i j).owners = d.owners := by
  simp [faultRecord]
@[simp] theorem faultRecord_removed (a b c u v h i j : Nat) : (faultRecord d a b c u v h i j).removed = d.removed := by
  simp [faultRecord]
@[simp] theorem faultRecord_slices (a b c u v h i j : Nat) : (faultRecord d a b c u v h i j).slices = d.slices := by
  simp [faultRecord]
@[simp] theorem faultRecord_incarnations (a b c u v h i j : Nat) : (faultRecord d a b c u v h i j).incarnations = d.incarnations := by
  simp [faultRecord]
@[simp] theorem faultRecord_models (a b c u v h i j : Nat) : (faultRecord d a b c u v h i j).models = d.models := by
  simp [faultRecord]
@[simp] theorem faultRecord_loads (a b c u v h i j : Nat) : (faultRecord d a b c u v h i j).loads = d.loads := by
  simp [faultRecord]
@[simp] theorem faultRecord_contexts (a b c u v h i j : Nat) : (faultRecord d a b c u v h i j).contexts = d.contexts := by
  simp [faultRecord]
@[simp] theorem faultRecord_cmds (a b c u v h i j : Nat) : (faultRecord d a b c u v h i j).cmds = d.cmds := by
  simp [faultRecord]
@[simp] theorem faultRecord_nextCmd (a b c u v h i j : Nat) : (faultRecord d a b c u v h i j).nextCmd = d.nextCmd := by
  simp [faultRecord]
@[simp] theorem faultRecord_hamlets (a b c u v h i j : Nat) : (faultRecord d a b c u v h i j).hamlets = d.hamlets := by
  simp [faultRecord]
@[simp] theorem faultRecord_tallies (a b c u v h i j : Nat) : (faultRecord d a b c u v h i j).tallies = d.tallies := by
  simp [faultRecord]
@[simp] theorem faultRecord_hearthSets (a b c u v h i j : Nat) : (faultRecord d a b c u v h i j).hearthSets = d.hearthSets := by
  simp [faultRecord]
@[simp] theorem faultRecord_roads (a b c u v h i j : Nat) : (faultRecord d a b c u v h i j).roads = d.roads := by
  simp [faultRecord]
@[simp] theorem faultRecord_peers (a b c u v h i j : Nat) : (faultRecord d a b c u v h i j).peers = d.peers := by
  simp [faultRecord]
@[simp] theorem faultRecord_nonces (a b c u v h i j : Nat) : (faultRecord d a b c u v h i j).nonces = d.nonces := by
  simp [faultRecord]
@[simp] theorem faultRecord_requests (a b c u v h i j : Nat) : (faultRecord d a b c u v h i j).requests = d.requests := by
  simp [faultRecord]
@[simp] theorem faultRecord_reservations (a b c u v h i j : Nat) : (faultRecord d a b c u v h i j).reservations = d.reservations := by
  simp [faultRecord]
@[simp] theorem faultRecord_brownout (a b c u v h i j : Nat) : (faultRecord d a b c u v h i j).brownout = d.brownout := by
  simp [faultRecord]
@[simp] theorem faultRecord_jobs (a b c u v h i j : Nat) : (faultRecord d a b c u v h i j).jobs = d.jobs := by
  simp [faultRecord]
@[simp] theorem faultRecord_gleanings (a b c u v h i j : Nat) : (faultRecord d a b c u v h i j).gleanings = d.gleanings := by
  simp [faultRecord]
@[simp] theorem faultRecord_sheaves (a b c u v h i j : Nat) : (faultRecord d a b c u v h i j).sheaves = d.sheaves := by
  simp [faultRecord]
@[simp] theorem faultRecord_nextSheaf (a b c u v h i j : Nat) : (faultRecord d a b c u v h i j).nextSheaf = d.nextSheaf := by
  simp [faultRecord]
@[simp] theorem faultRecord_units (a b c u v h i j : Nat) : (faultRecord d a b c u v h i j).units = d.units := by
  simp [faultRecord]
@[simp] theorem faultRecord_computed (a b c u v h i j : Nat) : (faultRecord d a b c u v h i j).computed = d.computed := by
  simp [faultRecord]

@[simp] theorem countedFault_fresh (a u v n : Nat) : (countedFault d a u v n).fresh = d.fresh := by
  simp only [countedFault]; (repeat' split) <;> simp
@[simp] theorem countedFault_time (a u v n : Nat) : (countedFault d a u v n).time = d.time := by
  simp only [countedFault]; (repeat' split) <;> simp
@[simp] theorem countedFault_ledger (a u v n : Nat) : (countedFault d a u v n).ledger = d.ledger := by
  simp only [countedFault]; (repeat' split) <;> simp
@[simp] theorem countedFault_tenants (a u v n : Nat) : (countedFault d a u v n).tenants = d.tenants := by
  simp only [countedFault]; (repeat' split) <;> simp
@[simp] theorem countedFault_tallyBlocks (a u v n : Nat) : (countedFault d a u v n).tallyBlocks = d.tallyBlocks := by
  simp only [countedFault]; (repeat' split) <;> simp
@[simp] theorem countedFault_owners (a u v n : Nat) : (countedFault d a u v n).owners = d.owners := by
  simp only [countedFault]; (repeat' split) <;> simp
@[simp] theorem countedFault_removed (a u v n : Nat) : (countedFault d a u v n).removed = d.removed := by
  simp only [countedFault]; (repeat' split) <;> simp
@[simp] theorem countedFault_slices (a u v n : Nat) : (countedFault d a u v n).slices = d.slices := by
  simp only [countedFault]; (repeat' split) <;> simp
@[simp] theorem countedFault_incarnations (a u v n : Nat) : (countedFault d a u v n).incarnations = d.incarnations := by
  simp only [countedFault]; (repeat' split) <;> simp
@[simp] theorem countedFault_models (a u v n : Nat) : (countedFault d a u v n).models = d.models := by
  simp only [countedFault]; (repeat' split) <;> simp
@[simp] theorem countedFault_loads (a u v n : Nat) : (countedFault d a u v n).loads = d.loads := by
  simp only [countedFault]; (repeat' split) <;> simp
@[simp] theorem countedFault_contexts (a u v n : Nat) : (countedFault d a u v n).contexts = d.contexts := by
  simp only [countedFault]; (repeat' split) <;> simp
@[simp] theorem countedFault_cmds (a u v n : Nat) : (countedFault d a u v n).cmds = d.cmds := by
  simp only [countedFault]; (repeat' split) <;> simp
@[simp] theorem countedFault_nextCmd (a u v n : Nat) : (countedFault d a u v n).nextCmd = d.nextCmd := by
  simp only [countedFault]; (repeat' split) <;> simp
@[simp] theorem countedFault_hamlets (a u v n : Nat) : (countedFault d a u v n).hamlets = d.hamlets := by
  simp only [countedFault]; (repeat' split) <;> simp
@[simp] theorem countedFault_tallies (a u v n : Nat) : (countedFault d a u v n).tallies = d.tallies := by
  simp only [countedFault]; (repeat' split) <;> simp
@[simp] theorem countedFault_hearthSets (a u v n : Nat) : (countedFault d a u v n).hearthSets = d.hearthSets := by
  simp only [countedFault]; (repeat' split) <;> simp
@[simp] theorem countedFault_roads (a u v n : Nat) : (countedFault d a u v n).roads = d.roads := by
  simp only [countedFault]; (repeat' split) <;> simp
@[simp] theorem countedFault_peers (a u v n : Nat) : (countedFault d a u v n).peers = d.peers := by
  simp only [countedFault]; (repeat' split) <;> simp
@[simp] theorem countedFault_nonces (a u v n : Nat) : (countedFault d a u v n).nonces = d.nonces := by
  simp only [countedFault]; (repeat' split) <;> simp
@[simp] theorem countedFault_requests (a u v n : Nat) : (countedFault d a u v n).requests = d.requests := by
  simp only [countedFault]; (repeat' split) <;> simp
@[simp] theorem countedFault_reservations (a u v n : Nat) : (countedFault d a u v n).reservations = d.reservations := by
  simp only [countedFault]; (repeat' split) <;> simp
@[simp] theorem countedFault_brownout (a u v n : Nat) : (countedFault d a u v n).brownout = d.brownout := by
  simp only [countedFault]; (repeat' split) <;> simp
@[simp] theorem countedFault_jobs (a u v n : Nat) : (countedFault d a u v n).jobs = d.jobs := by
  simp only [countedFault]; (repeat' split) <;> simp
@[simp] theorem countedFault_gleanings (a u v n : Nat) : (countedFault d a u v n).gleanings = d.gleanings := by
  simp only [countedFault]; (repeat' split) <;> simp
@[simp] theorem countedFault_sheaves (a u v n : Nat) : (countedFault d a u v n).sheaves = d.sheaves := by
  simp only [countedFault]; (repeat' split) <;> simp
@[simp] theorem countedFault_nextSheaf (a u v n : Nat) : (countedFault d a u v n).nextSheaf = d.nextSheaf := by
  simp only [countedFault]; (repeat' split) <;> simp
@[simp] theorem countedFault_units (a u v n : Nat) : (countedFault d a u v n).units = d.units := by
  simp only [countedFault]; (repeat' split) <;> simp
@[simp] theorem countedFault_computed (a u v n : Nat) : (countedFault d a u v n).computed = d.computed := by
  simp only [countedFault]; (repeat' split) <;> simp

@[simp] theorem withinGuarantee_fresh (p : Port) (i n : Nat) : ((withinGuarantee d p i n).2).fresh = d.fresh := by
  simp only [withinGuarantee]; (repeat' split) <;> simp
@[simp] theorem withinGuarantee_out (p : Port) (i n : Nat) : ((withinGuarantee d p i n).2).out = d.out := by
  simp only [withinGuarantee]; (repeat' split) <;> simp
@[simp] theorem withinGuarantee_time (p : Port) (i n : Nat) : ((withinGuarantee d p i n).2).time = d.time := by
  simp only [withinGuarantee]; (repeat' split) <;> simp
@[simp] theorem withinGuarantee_pkg (p : Port) (i n : Nat) : ((withinGuarantee d p i n).2).pkg = d.pkg := by
  simp only [withinGuarantee]; (repeat' split) <;> simp
@[simp] theorem withinGuarantee_reeve (p : Port) (i n : Nat) : ((withinGuarantee d p i n).2).reeve = d.reeve := by
  simp only [withinGuarantee]; (repeat' split) <;> simp
@[simp] theorem withinGuarantee_ledger (p : Port) (i n : Nat) : ((withinGuarantee d p i n).2).ledger = d.ledger := by
  simp only [withinGuarantee]; (repeat' split) <;> simp
@[simp] theorem withinGuarantee_tenants (p : Port) (i n : Nat) : ((withinGuarantee d p i n).2).tenants = d.tenants := by
  simp only [withinGuarantee]; (repeat' split) <;> simp
@[simp] theorem withinGuarantee_tallyBlocks (p : Port) (i n : Nat) : ((withinGuarantee d p i n).2).tallyBlocks = d.tallyBlocks := by
  simp only [withinGuarantee]; (repeat' split) <;> simp
@[simp] theorem withinGuarantee_owners (p : Port) (i n : Nat) : ((withinGuarantee d p i n).2).owners = d.owners := by
  simp only [withinGuarantee]; (repeat' split) <;> simp
@[simp] theorem withinGuarantee_removed (p : Port) (i n : Nat) : ((withinGuarantee d p i n).2).removed = d.removed := by
  simp only [withinGuarantee]; (repeat' split) <;> simp
@[simp] theorem withinGuarantee_slices (p : Port) (i n : Nat) : ((withinGuarantee d p i n).2).slices = d.slices := by
  simp only [withinGuarantee]; (repeat' split) <;> simp
@[simp] theorem withinGuarantee_incarnations (p : Port) (i n : Nat) : ((withinGuarantee d p i n).2).incarnations = d.incarnations := by
  simp only [withinGuarantee]; (repeat' split) <;> simp
@[simp] theorem withinGuarantee_models (p : Port) (i n : Nat) : ((withinGuarantee d p i n).2).models = d.models := by
  simp only [withinGuarantee]; (repeat' split) <;> simp
@[simp] theorem withinGuarantee_loads (p : Port) (i n : Nat) : ((withinGuarantee d p i n).2).loads = d.loads := by
  simp only [withinGuarantee]; (repeat' split) <;> simp
@[simp] theorem withinGuarantee_contexts (p : Port) (i n : Nat) : ((withinGuarantee d p i n).2).contexts = d.contexts := by
  simp only [withinGuarantee]; (repeat' split) <;> simp
@[simp] theorem withinGuarantee_cmds (p : Port) (i n : Nat) : ((withinGuarantee d p i n).2).cmds = d.cmds := by
  simp only [withinGuarantee]; (repeat' split) <;> simp
@[simp] theorem withinGuarantee_nextCmd (p : Port) (i n : Nat) : ((withinGuarantee d p i n).2).nextCmd = d.nextCmd := by
  simp only [withinGuarantee]; (repeat' split) <;> simp
@[simp] theorem withinGuarantee_hamlets (p : Port) (i n : Nat) : ((withinGuarantee d p i n).2).hamlets = d.hamlets := by
  simp only [withinGuarantee]; (repeat' split) <;> simp
@[simp] theorem withinGuarantee_tallies (p : Port) (i n : Nat) : ((withinGuarantee d p i n).2).tallies = d.tallies := by
  simp only [withinGuarantee]; (repeat' split) <;> simp
@[simp] theorem withinGuarantee_hearthSets (p : Port) (i n : Nat) : ((withinGuarantee d p i n).2).hearthSets = d.hearthSets := by
  simp only [withinGuarantee]; (repeat' split) <;> simp
@[simp] theorem withinGuarantee_roads (p : Port) (i n : Nat) : ((withinGuarantee d p i n).2).roads = d.roads := by
  simp only [withinGuarantee]; (repeat' split) <;> simp
@[simp] theorem withinGuarantee_peers (p : Port) (i n : Nat) : ((withinGuarantee d p i n).2).peers = d.peers := by
  simp only [withinGuarantee]; (repeat' split) <;> simp
@[simp] theorem withinGuarantee_nonces (p : Port) (i n : Nat) : ((withinGuarantee d p i n).2).nonces = d.nonces := by
  simp only [withinGuarantee]; (repeat' split) <;> simp
@[simp] theorem withinGuarantee_requests (p : Port) (i n : Nat) : ((withinGuarantee d p i n).2).requests = d.requests := by
  simp only [withinGuarantee]; (repeat' split) <;> simp
@[simp] theorem withinGuarantee_reservations (p : Port) (i n : Nat) : ((withinGuarantee d p i n).2).reservations = d.reservations := by
  simp only [withinGuarantee]; (repeat' split) <;> simp
@[simp] theorem withinGuarantee_brownout (p : Port) (i n : Nat) : ((withinGuarantee d p i n).2).brownout = d.brownout := by
  simp only [withinGuarantee]; (repeat' split) <;> simp
@[simp] theorem withinGuarantee_jobs (p : Port) (i n : Nat) : ((withinGuarantee d p i n).2).jobs = d.jobs := by
  simp only [withinGuarantee]; (repeat' split) <;> simp
@[simp] theorem withinGuarantee_gleanings (p : Port) (i n : Nat) : ((withinGuarantee d p i n).2).gleanings = d.gleanings := by
  simp only [withinGuarantee]; (repeat' split) <;> simp
@[simp] theorem withinGuarantee_sheaves (p : Port) (i n : Nat) : ((withinGuarantee d p i n).2).sheaves = d.sheaves := by
  simp only [withinGuarantee]; (repeat' split) <;> simp
@[simp] theorem withinGuarantee_nextSheaf (p : Port) (i n : Nat) : ((withinGuarantee d p i n).2).nextSheaf = d.nextSheaf := by
  simp only [withinGuarantee]; (repeat' split) <;> simp
@[simp] theorem withinGuarantee_computed (p : Port) (i n : Nat) : ((withinGuarantee d p i n).2).computed = d.computed := by
  simp only [withinGuarantee]; (repeat' split) <;> simp
@[simp] theorem withinGuarantee_units (p : Port) (i n : Nat) : ((withinGuarantee d p i n).2).units = d.units := by
  simp only [withinGuarantee]; (repeat' split) <;> simp

@[simp] theorem sliceWrite_fresh (i l : Nat) (fast : Bool) (a : W64) (bs : Bytes) : (sliceWrite d i l fast a bs).fresh = d.fresh := by
  simp only [sliceWrite]; (repeat' split) <;> simp
@[simp] theorem sliceWrite_out (i l : Nat) (fast : Bool) (a : W64) (bs : Bytes) : (sliceWrite d i l fast a bs).out = d.out := by
  simp only [sliceWrite]; (repeat' split) <;> simp
@[simp] theorem sliceWrite_time (i l : Nat) (fast : Bool) (a : W64) (bs : Bytes) : (sliceWrite d i l fast a bs).time = d.time := by
  simp only [sliceWrite]; (repeat' split) <;> simp
@[simp] theorem sliceWrite_pkg (i l : Nat) (fast : Bool) (a : W64) (bs : Bytes) : (sliceWrite d i l fast a bs).pkg = d.pkg := by
  simp only [sliceWrite]; (repeat' split) <;> simp
@[simp] theorem sliceWrite_reeve (i l : Nat) (fast : Bool) (a : W64) (bs : Bytes) : (sliceWrite d i l fast a bs).reeve = d.reeve := by
  simp only [sliceWrite]; (repeat' split) <;> simp
@[simp] theorem sliceWrite_ledger (i l : Nat) (fast : Bool) (a : W64) (bs : Bytes) : (sliceWrite d i l fast a bs).ledger = d.ledger := by
  simp only [sliceWrite]; (repeat' split) <;> simp
@[simp] theorem sliceWrite_tenants (i l : Nat) (fast : Bool) (a : W64) (bs : Bytes) : (sliceWrite d i l fast a bs).tenants = d.tenants := by
  simp only [sliceWrite]; (repeat' split) <;> simp
@[simp] theorem sliceWrite_tallyBlocks (i l : Nat) (fast : Bool) (a : W64) (bs : Bytes) : (sliceWrite d i l fast a bs).tallyBlocks = d.tallyBlocks := by
  simp only [sliceWrite]; (repeat' split) <;> simp
@[simp] theorem sliceWrite_owners (i l : Nat) (fast : Bool) (a : W64) (bs : Bytes) : (sliceWrite d i l fast a bs).owners = d.owners := by
  simp only [sliceWrite]; (repeat' split) <;> simp
@[simp] theorem sliceWrite_removed (i l : Nat) (fast : Bool) (a : W64) (bs : Bytes) : (sliceWrite d i l fast a bs).removed = d.removed := by
  simp only [sliceWrite]; (repeat' split) <;> simp
@[simp] theorem sliceWrite_slices (i l : Nat) (fast : Bool) (a : W64) (bs : Bytes) : (sliceWrite d i l fast a bs).slices = d.slices := by
  simp only [sliceWrite]; (repeat' split) <;> simp
@[simp] theorem sliceWrite_incarnations (i l : Nat) (fast : Bool) (a : W64) (bs : Bytes) : (sliceWrite d i l fast a bs).incarnations = d.incarnations := by
  simp only [sliceWrite]; (repeat' split) <;> simp
@[simp] theorem sliceWrite_models (i l : Nat) (fast : Bool) (a : W64) (bs : Bytes) : (sliceWrite d i l fast a bs).models = d.models := by
  simp only [sliceWrite]; (repeat' split) <;> simp
@[simp] theorem sliceWrite_loads (i l : Nat) (fast : Bool) (a : W64) (bs : Bytes) : (sliceWrite d i l fast a bs).loads = d.loads := by
  simp only [sliceWrite]; (repeat' split) <;> simp
@[simp] theorem sliceWrite_contexts (i l : Nat) (fast : Bool) (a : W64) (bs : Bytes) : (sliceWrite d i l fast a bs).contexts = d.contexts := by
  simp only [sliceWrite]; (repeat' split) <;> simp
@[simp] theorem sliceWrite_cmds (i l : Nat) (fast : Bool) (a : W64) (bs : Bytes) : (sliceWrite d i l fast a bs).cmds = d.cmds := by
  simp only [sliceWrite]; (repeat' split) <;> simp
@[simp] theorem sliceWrite_nextCmd (i l : Nat) (fast : Bool) (a : W64) (bs : Bytes) : (sliceWrite d i l fast a bs).nextCmd = d.nextCmd := by
  simp only [sliceWrite]; (repeat' split) <;> simp
@[simp] theorem sliceWrite_hamlets (i l : Nat) (fast : Bool) (a : W64) (bs : Bytes) : (sliceWrite d i l fast a bs).hamlets = d.hamlets := by
  simp only [sliceWrite]; (repeat' split) <;> simp
@[simp] theorem sliceWrite_tallies (i l : Nat) (fast : Bool) (a : W64) (bs : Bytes) : (sliceWrite d i l fast a bs).tallies = d.tallies := by
  simp only [sliceWrite]; (repeat' split) <;> simp
@[simp] theorem sliceWrite_hearthSets (i l : Nat) (fast : Bool) (a : W64) (bs : Bytes) : (sliceWrite d i l fast a bs).hearthSets = d.hearthSets := by
  simp only [sliceWrite]; (repeat' split) <;> simp
@[simp] theorem sliceWrite_roads (i l : Nat) (fast : Bool) (a : W64) (bs : Bytes) : (sliceWrite d i l fast a bs).roads = d.roads := by
  simp only [sliceWrite]; (repeat' split) <;> simp
@[simp] theorem sliceWrite_peers (i l : Nat) (fast : Bool) (a : W64) (bs : Bytes) : (sliceWrite d i l fast a bs).peers = d.peers := by
  simp only [sliceWrite]; (repeat' split) <;> simp
@[simp] theorem sliceWrite_nonces (i l : Nat) (fast : Bool) (a : W64) (bs : Bytes) : (sliceWrite d i l fast a bs).nonces = d.nonces := by
  simp only [sliceWrite]; (repeat' split) <;> simp
@[simp] theorem sliceWrite_requests (i l : Nat) (fast : Bool) (a : W64) (bs : Bytes) : (sliceWrite d i l fast a bs).requests = d.requests := by
  simp only [sliceWrite]; (repeat' split) <;> simp
@[simp] theorem sliceWrite_reservations (i l : Nat) (fast : Bool) (a : W64) (bs : Bytes) : (sliceWrite d i l fast a bs).reservations = d.reservations := by
  simp only [sliceWrite]; (repeat' split) <;> simp
@[simp] theorem sliceWrite_brownout (i l : Nat) (fast : Bool) (a : W64) (bs : Bytes) : (sliceWrite d i l fast a bs).brownout = d.brownout := by
  simp only [sliceWrite]; (repeat' split) <;> simp
@[simp] theorem sliceWrite_jobs (i l : Nat) (fast : Bool) (a : W64) (bs : Bytes) : (sliceWrite d i l fast a bs).jobs = d.jobs := by
  simp only [sliceWrite]; (repeat' split) <;> simp
@[simp] theorem sliceWrite_gleanings (i l : Nat) (fast : Bool) (a : W64) (bs : Bytes) : (sliceWrite d i l fast a bs).gleanings = d.gleanings := by
  simp only [sliceWrite]; (repeat' split) <;> simp
@[simp] theorem sliceWrite_sheaves (i l : Nat) (fast : Bool) (a : W64) (bs : Bytes) : (sliceWrite d i l fast a bs).sheaves = d.sheaves := by
  simp only [sliceWrite]; (repeat' split) <;> simp
@[simp] theorem sliceWrite_nextSheaf (i l : Nat) (fast : Bool) (a : W64) (bs : Bytes) : (sliceWrite d i l fast a bs).nextSheaf = d.nextSheaf := by
  simp only [sliceWrite]; (repeat' split) <;> simp
@[simp] theorem sliceWrite_computed (i l : Nat) (fast : Bool) (a : W64) (bs : Bytes) : (sliceWrite d i l fast a bs).computed = d.computed := by
  simp only [sliceWrite]; (repeat' split) <;> simp
@[simp] theorem sliceWrite_units (i l : Nat) (fast : Bool) (a : W64) (bs : Bytes) : (sliceWrite d i l fast a bs).units = d.units := by
  simp only [sliceWrite]; (repeat' split) <;> simp

@[simp] theorem raiseLane_fresh (i l : Nat) : (raiseLane d i l).fresh = d.fresh := by
  simp [raiseLane]
@[simp] theorem raiseLane_out (i l : Nat) : (raiseLane d i l).out = d.out := by
  simp [raiseLane]
@[simp] theorem raiseLane_time (i l : Nat) : (raiseLane d i l).time = d.time := by
  simp [raiseLane]
@[simp] theorem raiseLane_pkg (i l : Nat) : (raiseLane d i l).pkg = d.pkg := by
  simp [raiseLane]
@[simp] theorem raiseLane_reeve (i l : Nat) : (raiseLane d i l).reeve = d.reeve := by
  simp [raiseLane]
@[simp] theorem raiseLane_ledger (i l : Nat) : (raiseLane d i l).ledger = d.ledger := by
  simp [raiseLane]
@[simp] theorem raiseLane_tenants (i l : Nat) : (raiseLane d i l).tenants = d.tenants := by
  simp [raiseLane]
@[simp] theorem raiseLane_tallyBlocks (i l : Nat) : (raiseLane d i l).tallyBlocks = d.tallyBlocks := by
  simp [raiseLane]
@[simp] theorem raiseLane_owners (i l : Nat) : (raiseLane d i l).owners = d.owners := by
  simp [raiseLane]
@[simp] theorem raiseLane_removed (i l : Nat) : (raiseLane d i l).removed = d.removed := by
  simp [raiseLane]
@[simp] theorem raiseLane_incarnations (i l : Nat) : (raiseLane d i l).incarnations = d.incarnations := by
  simp [raiseLane]
@[simp] theorem raiseLane_models (i l : Nat) : (raiseLane d i l).models = d.models := by
  simp [raiseLane]
@[simp] theorem raiseLane_loads (i l : Nat) : (raiseLane d i l).loads = d.loads := by
  simp [raiseLane]
@[simp] theorem raiseLane_contexts (i l : Nat) : (raiseLane d i l).contexts = d.contexts := by
  simp [raiseLane]
@[simp] theorem raiseLane_cmds (i l : Nat) : (raiseLane d i l).cmds = d.cmds := by
  simp [raiseLane]
@[simp] theorem raiseLane_nextCmd (i l : Nat) : (raiseLane d i l).nextCmd = d.nextCmd := by
  simp [raiseLane]
@[simp] theorem raiseLane_hamlets (i l : Nat) : (raiseLane d i l).hamlets = d.hamlets := by
  simp [raiseLane]
@[simp] theorem raiseLane_tallies (i l : Nat) : (raiseLane d i l).tallies = d.tallies := by
  simp [raiseLane]
@[simp] theorem raiseLane_hearthSets (i l : Nat) : (raiseLane d i l).hearthSets = d.hearthSets := by
  simp [raiseLane]
@[simp] theorem raiseLane_roads (i l : Nat) : (raiseLane d i l).roads = d.roads := by
  simp [raiseLane]
@[simp] theorem raiseLane_peers (i l : Nat) : (raiseLane d i l).peers = d.peers := by
  simp [raiseLane]
@[simp] theorem raiseLane_nonces (i l : Nat) : (raiseLane d i l).nonces = d.nonces := by
  simp [raiseLane]
@[simp] theorem raiseLane_requests (i l : Nat) : (raiseLane d i l).requests = d.requests := by
  simp [raiseLane]
@[simp] theorem raiseLane_reservations (i l : Nat) : (raiseLane d i l).reservations = d.reservations := by
  simp [raiseLane]
@[simp] theorem raiseLane_brownout (i l : Nat) : (raiseLane d i l).brownout = d.brownout := by
  simp [raiseLane]
@[simp] theorem raiseLane_jobs (i l : Nat) : (raiseLane d i l).jobs = d.jobs := by
  simp [raiseLane]
@[simp] theorem raiseLane_gleanings (i l : Nat) : (raiseLane d i l).gleanings = d.gleanings := by
  simp [raiseLane]
@[simp] theorem raiseLane_sheaves (i l : Nat) : (raiseLane d i l).sheaves = d.sheaves := by
  simp [raiseLane]
@[simp] theorem raiseLane_nextSheaf (i l : Nat) : (raiseLane d i l).nextSheaf = d.nextSheaf := by
  simp [raiseLane]
@[simp] theorem raiseLane_computed (i l : Nat) : (raiseLane d i l).computed = d.computed := by
  simp [raiseLane]
@[simp] theorem raiseLane_units (i l : Nat) : (raiseLane d i l).units = d.units := by
  simp [raiseLane]

@[simp] theorem checkIrq_fresh (i l : Nat) : (checkIrq d i l).fresh = d.fresh := by
  simp only [checkIrq]; (repeat' split) <;> simp
@[simp] theorem checkIrq_out (i l : Nat) : (checkIrq d i l).out = d.out := by
  simp only [checkIrq]; (repeat' split) <;> simp
@[simp] theorem checkIrq_time (i l : Nat) : (checkIrq d i l).time = d.time := by
  simp only [checkIrq]; (repeat' split) <;> simp
@[simp] theorem checkIrq_pkg (i l : Nat) : (checkIrq d i l).pkg = d.pkg := by
  simp only [checkIrq]; (repeat' split) <;> simp
@[simp] theorem checkIrq_reeve (i l : Nat) : (checkIrq d i l).reeve = d.reeve := by
  simp only [checkIrq]; (repeat' split) <;> simp
@[simp] theorem checkIrq_ledger (i l : Nat) : (checkIrq d i l).ledger = d.ledger := by
  simp only [checkIrq]; (repeat' split) <;> simp
@[simp] theorem checkIrq_tenants (i l : Nat) : (checkIrq d i l).tenants = d.tenants := by
  simp only [checkIrq]; (repeat' split) <;> simp
@[simp] theorem checkIrq_tallyBlocks (i l : Nat) : (checkIrq d i l).tallyBlocks = d.tallyBlocks := by
  simp only [checkIrq]; (repeat' split) <;> simp
@[simp] theorem checkIrq_owners (i l : Nat) : (checkIrq d i l).owners = d.owners := by
  simp only [checkIrq]; (repeat' split) <;> simp
@[simp] theorem checkIrq_removed (i l : Nat) : (checkIrq d i l).removed = d.removed := by
  simp only [checkIrq]; (repeat' split) <;> simp
@[simp] theorem checkIrq_incarnations (i l : Nat) : (checkIrq d i l).incarnations = d.incarnations := by
  simp only [checkIrq]; (repeat' split) <;> simp
@[simp] theorem checkIrq_models (i l : Nat) : (checkIrq d i l).models = d.models := by
  simp only [checkIrq]; (repeat' split) <;> simp
@[simp] theorem checkIrq_loads (i l : Nat) : (checkIrq d i l).loads = d.loads := by
  simp only [checkIrq]; (repeat' split) <;> simp
@[simp] theorem checkIrq_contexts (i l : Nat) : (checkIrq d i l).contexts = d.contexts := by
  simp only [checkIrq]; (repeat' split) <;> simp
@[simp] theorem checkIrq_cmds (i l : Nat) : (checkIrq d i l).cmds = d.cmds := by
  simp only [checkIrq]; (repeat' split) <;> simp
@[simp] theorem checkIrq_nextCmd (i l : Nat) : (checkIrq d i l).nextCmd = d.nextCmd := by
  simp only [checkIrq]; (repeat' split) <;> simp
@[simp] theorem checkIrq_hamlets (i l : Nat) : (checkIrq d i l).hamlets = d.hamlets := by
  simp only [checkIrq]; (repeat' split) <;> simp
@[simp] theorem checkIrq_tallies (i l : Nat) : (checkIrq d i l).tallies = d.tallies := by
  simp only [checkIrq]; (repeat' split) <;> simp
@[simp] theorem checkIrq_hearthSets (i l : Nat) : (checkIrq d i l).hearthSets = d.hearthSets := by
  simp only [checkIrq]; (repeat' split) <;> simp
@[simp] theorem checkIrq_roads (i l : Nat) : (checkIrq d i l).roads = d.roads := by
  simp only [checkIrq]; (repeat' split) <;> simp
@[simp] theorem checkIrq_peers (i l : Nat) : (checkIrq d i l).peers = d.peers := by
  simp only [checkIrq]; (repeat' split) <;> simp
@[simp] theorem checkIrq_nonces (i l : Nat) : (checkIrq d i l).nonces = d.nonces := by
  simp only [checkIrq]; (repeat' split) <;> simp
@[simp] theorem checkIrq_requests (i l : Nat) : (checkIrq d i l).requests = d.requests := by
  simp only [checkIrq]; (repeat' split) <;> simp
@[simp] theorem checkIrq_reservations (i l : Nat) : (checkIrq d i l).reservations = d.reservations := by
  simp only [checkIrq]; (repeat' split) <;> simp
@[simp] theorem checkIrq_brownout (i l : Nat) : (checkIrq d i l).brownout = d.brownout := by
  simp only [checkIrq]; (repeat' split) <;> simp
@[simp] theorem checkIrq_jobs (i l : Nat) : (checkIrq d i l).jobs = d.jobs := by
  simp only [checkIrq]; (repeat' split) <;> simp
@[simp] theorem checkIrq_gleanings (i l : Nat) : (checkIrq d i l).gleanings = d.gleanings := by
  simp only [checkIrq]; (repeat' split) <;> simp
@[simp] theorem checkIrq_sheaves (i l : Nat) : (checkIrq d i l).sheaves = d.sheaves := by
  simp only [checkIrq]; (repeat' split) <;> simp
@[simp] theorem checkIrq_nextSheaf (i l : Nat) : (checkIrq d i l).nextSheaf = d.nextSheaf := by
  simp only [checkIrq]; (repeat' split) <;> simp
@[simp] theorem checkIrq_computed (i l : Nat) : (checkIrq d i l).computed = d.computed := by
  simp only [checkIrq]; (repeat' split) <;> simp
@[simp] theorem checkIrq_units (i l : Nat) : (checkIrq d i l).units = d.units := by
  simp only [checkIrq]; (repeat' split) <;> simp

@[simp] theorem ringWrite_fresh (i l : Nat) (fast : Bool) (ws : List (W64 × Bytes)) (e : Bytes) : (ringWrite d i l fast ws e).fresh = d.fresh := by
  simp [ringWrite]
@[simp] theorem ringWrite_out (i l : Nat) (fast : Bool) (ws : List (W64 × Bytes)) (e : Bytes) : (ringWrite d i l fast ws e).out = d.out := by
  simp [ringWrite]
@[simp] theorem ringWrite_time (i l : Nat) (fast : Bool) (ws : List (W64 × Bytes)) (e : Bytes) : (ringWrite d i l fast ws e).time = d.time := by
  simp [ringWrite]
@[simp] theorem ringWrite_pkg (i l : Nat) (fast : Bool) (ws : List (W64 × Bytes)) (e : Bytes) : (ringWrite d i l fast ws e).pkg = d.pkg := by
  simp [ringWrite]
@[simp] theorem ringWrite_reeve (i l : Nat) (fast : Bool) (ws : List (W64 × Bytes)) (e : Bytes) : (ringWrite d i l fast ws e).reeve = d.reeve := by
  simp [ringWrite]
@[simp] theorem ringWrite_ledger (i l : Nat) (fast : Bool) (ws : List (W64 × Bytes)) (e : Bytes) : (ringWrite d i l fast ws e).ledger = d.ledger := by
  simp [ringWrite]
@[simp] theorem ringWrite_tenants (i l : Nat) (fast : Bool) (ws : List (W64 × Bytes)) (e : Bytes) : (ringWrite d i l fast ws e).tenants = d.tenants := by
  simp [ringWrite]
@[simp] theorem ringWrite_tallyBlocks (i l : Nat) (fast : Bool) (ws : List (W64 × Bytes)) (e : Bytes) : (ringWrite d i l fast ws e).tallyBlocks = d.tallyBlocks := by
  simp [ringWrite]
@[simp] theorem ringWrite_owners (i l : Nat) (fast : Bool) (ws : List (W64 × Bytes)) (e : Bytes) : (ringWrite d i l fast ws e).owners = d.owners := by
  simp [ringWrite]
@[simp] theorem ringWrite_removed (i l : Nat) (fast : Bool) (ws : List (W64 × Bytes)) (e : Bytes) : (ringWrite d i l fast ws e).removed = d.removed := by
  simp [ringWrite]
@[simp] theorem ringWrite_incarnations (i l : Nat) (fast : Bool) (ws : List (W64 × Bytes)) (e : Bytes) : (ringWrite d i l fast ws e).incarnations = d.incarnations := by
  simp [ringWrite]
@[simp] theorem ringWrite_models (i l : Nat) (fast : Bool) (ws : List (W64 × Bytes)) (e : Bytes) : (ringWrite d i l fast ws e).models = d.models := by
  simp [ringWrite]
@[simp] theorem ringWrite_loads (i l : Nat) (fast : Bool) (ws : List (W64 × Bytes)) (e : Bytes) : (ringWrite d i l fast ws e).loads = d.loads := by
  simp [ringWrite]
@[simp] theorem ringWrite_contexts (i l : Nat) (fast : Bool) (ws : List (W64 × Bytes)) (e : Bytes) : (ringWrite d i l fast ws e).contexts = d.contexts := by
  simp [ringWrite]
@[simp] theorem ringWrite_cmds (i l : Nat) (fast : Bool) (ws : List (W64 × Bytes)) (e : Bytes) : (ringWrite d i l fast ws e).cmds = d.cmds := by
  simp [ringWrite]
@[simp] theorem ringWrite_nextCmd (i l : Nat) (fast : Bool) (ws : List (W64 × Bytes)) (e : Bytes) : (ringWrite d i l fast ws e).nextCmd = d.nextCmd := by
  simp [ringWrite]
@[simp] theorem ringWrite_hamlets (i l : Nat) (fast : Bool) (ws : List (W64 × Bytes)) (e : Bytes) : (ringWrite d i l fast ws e).hamlets = d.hamlets := by
  simp [ringWrite]
@[simp] theorem ringWrite_tallies (i l : Nat) (fast : Bool) (ws : List (W64 × Bytes)) (e : Bytes) : (ringWrite d i l fast ws e).tallies = d.tallies := by
  simp [ringWrite]
@[simp] theorem ringWrite_hearthSets (i l : Nat) (fast : Bool) (ws : List (W64 × Bytes)) (e : Bytes) : (ringWrite d i l fast ws e).hearthSets = d.hearthSets := by
  simp [ringWrite]
@[simp] theorem ringWrite_roads (i l : Nat) (fast : Bool) (ws : List (W64 × Bytes)) (e : Bytes) : (ringWrite d i l fast ws e).roads = d.roads := by
  simp [ringWrite]
@[simp] theorem ringWrite_peers (i l : Nat) (fast : Bool) (ws : List (W64 × Bytes)) (e : Bytes) : (ringWrite d i l fast ws e).peers = d.peers := by
  simp [ringWrite]
@[simp] theorem ringWrite_nonces (i l : Nat) (fast : Bool) (ws : List (W64 × Bytes)) (e : Bytes) : (ringWrite d i l fast ws e).nonces = d.nonces := by
  simp [ringWrite]
@[simp] theorem ringWrite_requests (i l : Nat) (fast : Bool) (ws : List (W64 × Bytes)) (e : Bytes) : (ringWrite d i l fast ws e).requests = d.requests := by
  simp [ringWrite]
@[simp] theorem ringWrite_reservations (i l : Nat) (fast : Bool) (ws : List (W64 × Bytes)) (e : Bytes) : (ringWrite d i l fast ws e).reservations = d.reservations := by
  simp [ringWrite]
@[simp] theorem ringWrite_brownout (i l : Nat) (fast : Bool) (ws : List (W64 × Bytes)) (e : Bytes) : (ringWrite d i l fast ws e).brownout = d.brownout := by
  simp [ringWrite]
@[simp] theorem ringWrite_jobs (i l : Nat) (fast : Bool) (ws : List (W64 × Bytes)) (e : Bytes) : (ringWrite d i l fast ws e).jobs = d.jobs := by
  simp [ringWrite]
@[simp] theorem ringWrite_gleanings (i l : Nat) (fast : Bool) (ws : List (W64 × Bytes)) (e : Bytes) : (ringWrite d i l fast ws e).gleanings = d.gleanings := by
  simp [ringWrite]
@[simp] theorem ringWrite_sheaves (i l : Nat) (fast : Bool) (ws : List (W64 × Bytes)) (e : Bytes) : (ringWrite d i l fast ws e).sheaves = d.sheaves := by
  simp [ringWrite]
@[simp] theorem ringWrite_nextSheaf (i l : Nat) (fast : Bool) (ws : List (W64 × Bytes)) (e : Bytes) : (ringWrite d i l fast ws e).nextSheaf = d.nextSheaf := by
  simp [ringWrite]
@[simp] theorem ringWrite_computed (i l : Nat) (fast : Bool) (ws : List (W64 × Bytes)) (e : Bytes) : (ringWrite d i l fast ws e).computed = d.computed := by
  simp [ringWrite]
@[simp] theorem ringWrite_units (i l : Nat) (fast : Bool) (ws : List (W64 × Bytes)) (e : Bytes) : (ringWrite d i l fast ws e).units = d.units := by
  simp [ringWrite]

@[simp] theorem writeEvent_fresh (i code n m : Nat) : (writeEvent d i code n m).fresh = d.fresh := by
  simp only [writeEvent]; (repeat' split) <;> simp
@[simp] theorem writeEvent_out (i code n m : Nat) : (writeEvent d i code n m).out = d.out := by
  simp only [writeEvent]; (repeat' split) <;> simp
@[simp] theorem writeEvent_time (i code n m : Nat) : (writeEvent d i code n m).time = d.time := by
  simp only [writeEvent]; (repeat' split) <;> simp
@[simp] theorem writeEvent_pkg (i code n m : Nat) : (writeEvent d i code n m).pkg = d.pkg := by
  simp only [writeEvent]; (repeat' split) <;> simp
@[simp] theorem writeEvent_reeve (i code n m : Nat) : (writeEvent d i code n m).reeve = d.reeve := by
  simp only [writeEvent]; (repeat' split) <;> simp
@[simp] theorem writeEvent_ledger (i code n m : Nat) : (writeEvent d i code n m).ledger = d.ledger := by
  simp only [writeEvent]; (repeat' split) <;> simp
@[simp] theorem writeEvent_tenants (i code n m : Nat) : (writeEvent d i code n m).tenants = d.tenants := by
  simp only [writeEvent]; (repeat' split) <;> simp
@[simp] theorem writeEvent_tallyBlocks (i code n m : Nat) : (writeEvent d i code n m).tallyBlocks = d.tallyBlocks := by
  simp only [writeEvent]; (repeat' split) <;> simp
@[simp] theorem writeEvent_owners (i code n m : Nat) : (writeEvent d i code n m).owners = d.owners := by
  simp only [writeEvent]; (repeat' split) <;> simp
@[simp] theorem writeEvent_removed (i code n m : Nat) : (writeEvent d i code n m).removed = d.removed := by
  simp only [writeEvent]; (repeat' split) <;> simp
@[simp] theorem writeEvent_incarnations (i code n m : Nat) : (writeEvent d i code n m).incarnations = d.incarnations := by
  simp only [writeEvent]; (repeat' split) <;> simp
@[simp] theorem writeEvent_models (i code n m : Nat) : (writeEvent d i code n m).models = d.models := by
  simp only [writeEvent]; (repeat' split) <;> simp
@[simp] theorem writeEvent_loads (i code n m : Nat) : (writeEvent d i code n m).loads = d.loads := by
  simp only [writeEvent]; (repeat' split) <;> simp
@[simp] theorem writeEvent_contexts (i code n m : Nat) : (writeEvent d i code n m).contexts = d.contexts := by
  simp only [writeEvent]; (repeat' split) <;> simp
@[simp] theorem writeEvent_cmds (i code n m : Nat) : (writeEvent d i code n m).cmds = d.cmds := by
  simp only [writeEvent]; (repeat' split) <;> simp
@[simp] theorem writeEvent_nextCmd (i code n m : Nat) : (writeEvent d i code n m).nextCmd = d.nextCmd := by
  simp only [writeEvent]; (repeat' split) <;> simp
@[simp] theorem writeEvent_hamlets (i code n m : Nat) : (writeEvent d i code n m).hamlets = d.hamlets := by
  simp only [writeEvent]; (repeat' split) <;> simp
@[simp] theorem writeEvent_tallies (i code n m : Nat) : (writeEvent d i code n m).tallies = d.tallies := by
  simp only [writeEvent]; (repeat' split) <;> simp
@[simp] theorem writeEvent_hearthSets (i code n m : Nat) : (writeEvent d i code n m).hearthSets = d.hearthSets := by
  simp only [writeEvent]; (repeat' split) <;> simp
@[simp] theorem writeEvent_roads (i code n m : Nat) : (writeEvent d i code n m).roads = d.roads := by
  simp only [writeEvent]; (repeat' split) <;> simp
@[simp] theorem writeEvent_peers (i code n m : Nat) : (writeEvent d i code n m).peers = d.peers := by
  simp only [writeEvent]; (repeat' split) <;> simp
@[simp] theorem writeEvent_nonces (i code n m : Nat) : (writeEvent d i code n m).nonces = d.nonces := by
  simp only [writeEvent]; (repeat' split) <;> simp
@[simp] theorem writeEvent_requests (i code n m : Nat) : (writeEvent d i code n m).requests = d.requests := by
  simp only [writeEvent]; (repeat' split) <;> simp
@[simp] theorem writeEvent_reservations (i code n m : Nat) : (writeEvent d i code n m).reservations = d.reservations := by
  simp only [writeEvent]; (repeat' split) <;> simp
@[simp] theorem writeEvent_brownout (i code n m : Nat) : (writeEvent d i code n m).brownout = d.brownout := by
  simp only [writeEvent]; (repeat' split) <;> simp
@[simp] theorem writeEvent_jobs (i code n m : Nat) : (writeEvent d i code n m).jobs = d.jobs := by
  simp only [writeEvent]; (repeat' split) <;> simp
@[simp] theorem writeEvent_gleanings (i code n m : Nat) : (writeEvent d i code n m).gleanings = d.gleanings := by
  simp only [writeEvent]; (repeat' split) <;> simp
@[simp] theorem writeEvent_sheaves (i code n m : Nat) : (writeEvent d i code n m).sheaves = d.sheaves := by
  simp only [writeEvent]; (repeat' split) <;> simp
@[simp] theorem writeEvent_nextSheaf (i code n m : Nat) : (writeEvent d i code n m).nextSheaf = d.nextSheaf := by
  simp only [writeEvent]; (repeat' split) <;> simp
@[simp] theorem writeEvent_computed (i code n m : Nat) : (writeEvent d i code n m).computed = d.computed := by
  simp only [writeEvent]; (repeat' split) <;> simp
@[simp] theorem writeEvent_units (i code n m : Nat) : (writeEvent d i code n m).units = d.units := by
  simp only [writeEvent]; (repeat' split) <;> simp

end Sys2Proof.Machine
end

