-- ==== Sys2Proof/Laws/Orders.lean ====
section
/-! SUPPORT. Orders: what the journal and the answers leave, and how an order that nothing holds up starts. -/

namespace Sys2Proof.Machine
open Sys2Proof

variable (d : Ctl)

@[simp] theorem setCfgSeq_fresh (j : Nat) : (setCfgSeq d j).fresh = d.fresh := by
  rfl
@[simp] theorem setCfgSeq_out (j : Nat) : (setCfgSeq d j).out = d.out := by
  rfl
@[simp] theorem setCfgSeq_time (j : Nat) : (setCfgSeq d j).time = d.time := by
  rfl
@[simp] theorem setCfgSeq_pkg (j : Nat) : (setCfgSeq d j).pkg = d.pkg := by
  rfl
@[simp] theorem setCfgSeq_portA (j : Nat) : (setCfgSeq d j).portA = d.portA := by
  rfl
@[simp] theorem setCfgSeq_portB (j : Nat) : (setCfgSeq d j).portB = d.portB := by
  rfl
@[simp] theorem setCfgSeq_reeve (j : Nat) : (setCfgSeq d j).reeve = d.reeve := by
  rfl
@[simp] theorem setCfgSeq_tenants (j : Nat) : (setCfgSeq d j).tenants = d.tenants := by
  rfl
@[simp] theorem setCfgSeq_tallyBlocks (j : Nat) : (setCfgSeq d j).tallyBlocks = d.tallyBlocks := by
  rfl
@[simp] theorem setCfgSeq_owners (j : Nat) : (setCfgSeq d j).owners = d.owners := by
  rfl
@[simp] theorem setCfgSeq_removed (j : Nat) : (setCfgSeq d j).removed = d.removed := by
  rfl
@[simp] theorem setCfgSeq_slices (j : Nat) : (setCfgSeq d j).slices = d.slices := by
  rfl
@[simp] theorem setCfgSeq_incarnations (j : Nat) : (setCfgSeq d j).incarnations = d.incarnations := by
  rfl
@[simp] theorem setCfgSeq_models (j : Nat) : (setCfgSeq d j).models = d.models := by
  rfl
@[simp] theorem setCfgSeq_loads (j : Nat) : (setCfgSeq d j).loads = d.loads := by
  rfl
@[simp] theorem setCfgSeq_contexts (j : Nat) : (setCfgSeq d j).contexts = d.contexts := by
  rfl
@[simp] theorem setCfgSeq_cmds (j : Nat) : (setCfgSeq d j).cmds = d.cmds := by
  rfl
@[simp] theorem setCfgSeq_nextCmd (j : Nat) : (setCfgSeq d j).nextCmd = d.nextCmd := by
  rfl
@[simp] theorem setCfgSeq_hamlets (j : Nat) : (setCfgSeq d j).hamlets = d.hamlets := by
  rfl
@[simp] theorem setCfgSeq_tallies (j : Nat) : (setCfgSeq d j).tallies = d.tallies := by
  rfl
@[simp] theorem setCfgSeq_hearthSets (j : Nat) : (setCfgSeq d j).hearthSets = d.hearthSets := by
  rfl
@[simp] theorem setCfgSeq_roads (j : Nat) : (setCfgSeq d j).roads = d.roads := by
  rfl
@[simp] theorem setCfgSeq_peers (j : Nat) : (setCfgSeq d j).peers = d.peers := by
  rfl
@[simp] theorem setCfgSeq_nonces (j : Nat) : (setCfgSeq d j).nonces = d.nonces := by
  rfl
@[simp] theorem setCfgSeq_requests (j : Nat) : (setCfgSeq d j).requests = d.requests := by
  rfl
@[simp] theorem setCfgSeq_reservations (j : Nat) : (setCfgSeq d j).reservations = d.reservations := by
  rfl
@[simp] theorem setCfgSeq_brownout (j : Nat) : (setCfgSeq d j).brownout = d.brownout := by
  rfl
@[simp] theorem setCfgSeq_jobs (j : Nat) : (setCfgSeq d j).jobs = d.jobs := by
  rfl
@[simp] theorem setCfgSeq_gleanings (j : Nat) : (setCfgSeq d j).gleanings = d.gleanings := by
  rfl
@[simp] theorem setCfgSeq_sheaves (j : Nat) : (setCfgSeq d j).sheaves = d.sheaves := by
  rfl
@[simp] theorem setCfgSeq_nextSheaf (j : Nat) : (setCfgSeq d j).nextSheaf = d.nextSheaf := by
  rfl
@[simp] theorem setCfgSeq_computed (j : Nat) : (setCfgSeq d j).computed = d.computed := by
  rfl
@[simp] theorem setCfgSeq_units (j : Nat) : (setCfgSeq d j).units = d.units := by
  rfl

@[simp] theorem enter_fresh (x : JEntry) : (enter d x).fresh = d.fresh := by
  rfl
@[simp] theorem enter_out (x : JEntry) : (enter d x).out = d.out := by
  rfl
@[simp] theorem enter_time (x : JEntry) : (enter d x).time = d.time := by
  rfl
@[simp] theorem enter_pkg (x : JEntry) : (enter d x).pkg = d.pkg := by
  rfl
@[simp] theorem enter_portA (x : JEntry) : (enter d x).portA = d.portA := by
  rfl
@[simp] theorem enter_portB (x : JEntry) : (enter d x).portB = d.portB := by
  rfl
@[simp] theorem enter_ledger (x : JEntry) : (enter d x).ledger = d.ledger := by
  rfl
@[simp] theorem enter_tenants (x : JEntry) : (enter d x).tenants = d.tenants := by
  rfl
@[simp] theorem enter_tallyBlocks (x : JEntry) : (enter d x).tallyBlocks = d.tallyBlocks := by
  rfl
@[simp] theorem enter_owners (x : JEntry) : (enter d x).owners = d.owners := by
  rfl
@[simp] theorem enter_removed (x : JEntry) : (enter d x).removed = d.removed := by
  rfl
@[simp] theorem enter_slices (x : JEntry) : (enter d x).slices = d.slices := by
  rfl
@[simp] theorem enter_incarnations (x : JEntry) : (enter d x).incarnations = d.incarnations := by
  rfl
@[simp] theorem enter_models (x : JEntry) : (enter d x).models = d.models := by
  rfl
@[simp] theorem enter_loads (x : JEntry) : (enter d x).loads = d.loads := by
  rfl
@[simp] theorem enter_contexts (x : JEntry) : (enter d x).contexts = d.contexts := by
  rfl
@[simp] theorem enter_cmds (x : JEntry) : (enter d x).cmds = d.cmds := by
  rfl
@[simp] theorem enter_nextCmd (x : JEntry) : (enter d x).nextCmd = d.nextCmd := by
  rfl
@[simp] theorem enter_hamlets (x : JEntry) : (enter d x).hamlets = d.hamlets := by
  rfl
@[simp] theorem enter_tallies (x : JEntry) : (enter d x).tallies = d.tallies := by
  rfl
@[simp] theorem enter_hearthSets (x : JEntry) : (enter d x).hearthSets = d.hearthSets := by
  rfl
@[simp] theorem enter_roads (x : JEntry) : (enter d x).roads = d.roads := by
  rfl
@[simp] theorem enter_peers (x : JEntry) : (enter d x).peers = d.peers := by
  rfl
@[simp] theorem enter_nonces (x : JEntry) : (enter d x).nonces = d.nonces := by
  rfl
@[simp] theorem enter_requests (x : JEntry) : (enter d x).requests = d.requests := by
  rfl
@[simp] theorem enter_reservations (x : JEntry) : (enter d x).reservations = d.reservations := by
  rfl
@[simp] theorem enter_brownout (x : JEntry) : (enter d x).brownout = d.brownout := by
  rfl
@[simp] theorem enter_jobs (x : JEntry) : (enter d x).jobs = d.jobs := by
  rfl
@[simp] theorem enter_gleanings (x : JEntry) : (enter d x).gleanings = d.gleanings := by
  rfl
@[simp] theorem enter_sheaves (x : JEntry) : (enter d x).sheaves = d.sheaves := by
  rfl
@[simp] theorem enter_nextSheaf (x : JEntry) : (enter d x).nextSheaf = d.nextSheaf := by
  rfl
@[simp] theorem enter_computed (x : JEntry) : (enter d x).computed = d.computed := by
  rfl
@[simp] theorem enter_units (x : JEntry) : (enter d x).units = d.units := by
  rfl

@[simp] theorem modEntry_fresh (j : Nat) (f : JEntry → JEntry) : (modEntry d j f).fresh = d.fresh := by
  rfl
@[simp] theorem modEntry_out (j : Nat) (f : JEntry → JEntry) : (modEntry d j f).out = d.out := by
  rfl
@[simp] theorem modEntry_time (j : Nat) (f : JEntry → JEntry) : (modEntry d j f).time = d.time := by
  rfl
@[simp] theorem modEntry_pkg (j : Nat) (f : JEntry → JEntry) : (modEntry d j f).pkg = d.pkg := by
  rfl
@[simp] theorem modEntry_portA (j : Nat) (f : JEntry → JEntry) : (modEntry d j f).portA = d.portA := by
  rfl
@[simp] theorem modEntry_portB (j : Nat) (f : JEntry → JEntry) : (modEntry d j f).portB = d.portB := by
  rfl
@[simp] theorem modEntry_ledger (j : Nat) (f : JEntry → JEntry) : (modEntry d j f).ledger = d.ledger := by
  rfl
@[simp] theorem modEntry_tenants (j : Nat) (f : JEntry → JEntry) : (modEntry d j f).tenants = d.tenants := by
  rfl
@[simp] theorem modEntry_tallyBlocks (j : Nat) (f : JEntry → JEntry) : (modEntry d j f).tallyBlocks = d.tallyBlocks := by
  rfl
@[simp] theorem modEntry_owners (j : Nat) (f : JEntry → JEntry) : (modEntry d j f).owners = d.owners := by
  rfl
@[simp] theorem modEntry_removed (j : Nat) (f : JEntry → JEntry) : (modEntry d j f).removed = d.removed := by
  rfl
@[simp] theorem modEntry_slices (j : Nat) (f : JEntry → JEntry) : (modEntry d j f).slices = d.slices := by
  rfl
@[simp] theorem modEntry_incarnations (j : Nat) (f : JEntry → JEntry) : (modEntry d j f).incarnations = d.incarnations := by
  rfl
@[simp] theorem modEntry_models (j : Nat) (f : JEntry → JEntry) : (modEntry d j f).models = d.models := by
  rfl
@[simp] theorem modEntry_loads (j : Nat) (f : JEntry → JEntry) : (modEntry d j f).loads = d.loads := by
  rfl
@[simp] theorem modEntry_contexts (j : Nat) (f : JEntry → JEntry) : (modEntry d j f).contexts = d.contexts := by
  rfl
@[simp] theorem modEntry_cmds (j : Nat) (f : JEntry → JEntry) : (modEntry d j f).cmds = d.cmds := by
  rfl
@[simp] theorem modEntry_nextCmd (j : Nat) (f : JEntry → JEntry) : (modEntry d j f).nextCmd = d.nextCmd := by
  rfl
@[simp] theorem modEntry_hamlets (j : Nat) (f : JEntry → JEntry) : (modEntry d j f).hamlets = d.hamlets := by
  rfl
@[simp] theorem modEntry_tallies (j : Nat) (f : JEntry → JEntry) : (modEntry d j f).tallies = d.tallies := by
  rfl
@[simp] theorem modEntry_hearthSets (j : Nat) (f : JEntry → JEntry) : (modEntry d j f).hearthSets = d.hearthSets := by
  rfl
@[simp] theorem modEntry_roads (j : Nat) (f : JEntry → JEntry) : (modEntry d j f).roads = d.roads := by
  rfl
@[simp] theorem modEntry_peers (j : Nat) (f : JEntry → JEntry) : (modEntry d j f).peers = d.peers := by
  rfl
@[simp] theorem modEntry_nonces (j : Nat) (f : JEntry → JEntry) : (modEntry d j f).nonces = d.nonces := by
  rfl
@[simp] theorem modEntry_requests (j : Nat) (f : JEntry → JEntry) : (modEntry d j f).requests = d.requests := by
  rfl
@[simp] theorem modEntry_reservations (j : Nat) (f : JEntry → JEntry) : (modEntry d j f).reservations = d.reservations := by
  rfl
@[simp] theorem modEntry_brownout (j : Nat) (f : JEntry → JEntry) : (modEntry d j f).brownout = d.brownout := by
  rfl
@[simp] theorem modEntry_jobs (j : Nat) (f : JEntry → JEntry) : (modEntry d j f).jobs = d.jobs := by
  rfl
@[simp] theorem modEntry_gleanings (j : Nat) (f : JEntry → JEntry) : (modEntry d j f).gleanings = d.gleanings := by
  rfl
@[simp] theorem modEntry_sheaves (j : Nat) (f : JEntry → JEntry) : (modEntry d j f).sheaves = d.sheaves := by
  rfl
@[simp] theorem modEntry_nextSheaf (j : Nat) (f : JEntry → JEntry) : (modEntry d j f).nextSheaf = d.nextSheaf := by
  rfl
@[simp] theorem modEntry_computed (j : Nat) (f : JEntry → JEntry) : (modEntry d j f).computed = d.computed := by
  rfl
@[simp] theorem modEntry_units (j : Nat) (f : JEntry → JEntry) : (modEntry d j f).units = d.units := by
  rfl

@[simp] theorem closeEntry_fresh (j code : Nat) : (closeEntry d j code).fresh = d.fresh := by
  rfl
@[simp] theorem closeEntry_out (j code : Nat) : (closeEntry d j code).out = d.out := by
  rfl
@[simp] theorem closeEntry_time (j code : Nat) : (closeEntry d j code).time = d.time := by
  rfl
@[simp] theorem closeEntry_pkg (j code : Nat) : (closeEntry d j code).pkg = d.pkg := by
  rfl
@[simp] theorem closeEntry_portA (j code : Nat) : (closeEntry d j code).portA = d.portA := by
  rfl
@[simp] theorem closeEntry_portB (j code : Nat) : (closeEntry d j code).portB = d.portB := by
  rfl
@[simp] theorem closeEntry_ledger (j code : Nat) : (closeEntry d j code).ledger = d.ledger := by
  rfl
@[simp] theorem closeEntry_tenants (j code : Nat) : (closeEntry d j code).tenants = d.tenants := by
  rfl
@[simp] theorem closeEntry_tallyBlocks (j code : Nat) : (closeEntry d j code).tallyBlocks = d.tallyBlocks := by
  rfl
@[simp] theorem closeEntry_owners (j code : Nat) : (closeEntry d j code).owners = d.owners := by
  rfl
@[simp] theorem closeEntry_removed (j code : Nat) : (closeEntry d j code).removed = d.removed := by
  rfl
@[simp] theorem closeEntry_slices (j code : Nat) : (closeEntry d j code).slices = d.slices := by
  rfl
@[simp] theorem closeEntry_incarnations (j code : Nat) : (closeEntry d j code).incarnations = d.incarnations := by
  rfl
@[simp] theorem closeEntry_models (j code : Nat) : (closeEntry d j code).models = d.models := by
  rfl
@[simp] theorem closeEntry_loads (j code : Nat) : (closeEntry d j code).loads = d.loads := by
  rfl
@[simp] theorem closeEntry_contexts (j code : Nat) : (closeEntry d j code).contexts = d.contexts := by
  rfl
@[simp] theorem closeEntry_cmds (j code : Nat) : (closeEntry d j code).cmds = d.cmds := by
  rfl
@[simp] theorem closeEntry_nextCmd (j code : Nat) : (closeEntry d j code).nextCmd = d.nextCmd := by
  rfl
@[simp] theorem closeEntry_hamlets (j code : Nat) : (closeEntry d j code).hamlets = d.hamlets := by
  rfl
@[simp] theorem closeEntry_tallies (j code : Nat) : (closeEntry d j code).tallies = d.tallies := by
  rfl
@[simp] theorem closeEntry_hearthSets (j code : Nat) : (closeEntry d j code).hearthSets = d.hearthSets := by
  rfl
@[simp] theorem closeEntry_roads (j code : Nat) : (closeEntry d j code).roads = d.roads := by
  rfl
@[simp] theorem closeEntry_peers (j code : Nat) : (closeEntry d j code).peers = d.peers := by
  rfl
@[simp] theorem closeEntry_nonces (j code : Nat) : (closeEntry d j code).nonces = d.nonces := by
  rfl
@[simp] theorem closeEntry_requests (j code : Nat) : (closeEntry d j code).requests = d.requests := by
  rfl
@[simp] theorem closeEntry_reservations (j code : Nat) : (closeEntry d j code).reservations = d.reservations := by
  rfl
@[simp] theorem closeEntry_brownout (j code : Nat) : (closeEntry d j code).brownout = d.brownout := by
  rfl
@[simp] theorem closeEntry_jobs (j code : Nat) : (closeEntry d j code).jobs = d.jobs := by
  rfl
@[simp] theorem closeEntry_gleanings (j code : Nat) : (closeEntry d j code).gleanings = d.gleanings := by
  rfl
@[simp] theorem closeEntry_sheaves (j code : Nat) : (closeEntry d j code).sheaves = d.sheaves := by
  rfl
@[simp] theorem closeEntry_nextSheaf (j code : Nat) : (closeEntry d j code).nextSheaf = d.nextSheaf := by
  rfl
@[simp] theorem closeEntry_computed (j code : Nat) : (closeEntry d j code).computed = d.computed := by
  rfl
@[simp] theorem closeEntry_units (j code : Nat) : (closeEntry d j code).units = d.units := by
  rfl

@[simp] theorem beginOrder_fresh (j : Nat) : (beginOrder d j).fresh = d.fresh := by
  rfl
@[simp] theorem beginOrder_out (j : Nat) : (beginOrder d j).out = d.out := by
  rfl
@[simp] theorem beginOrder_time (j : Nat) : (beginOrder d j).time = d.time := by
  rfl
@[simp] theorem beginOrder_pkg (j : Nat) : (beginOrder d j).pkg = d.pkg := by
  rfl
@[simp] theorem beginOrder_portA (j : Nat) : (beginOrder d j).portA = d.portA := by
  rfl
@[simp] theorem beginOrder_portB (j : Nat) : (beginOrder d j).portB = d.portB := by
  rfl
@[simp] theorem beginOrder_ledger (j : Nat) : (beginOrder d j).ledger = d.ledger := by
  rfl
@[simp] theorem beginOrder_tenants (j : Nat) : (beginOrder d j).tenants = d.tenants := by
  rfl
@[simp] theorem beginOrder_tallyBlocks (j : Nat) : (beginOrder d j).tallyBlocks = d.tallyBlocks := by
  rfl
@[simp] theorem beginOrder_owners (j : Nat) : (beginOrder d j).owners = d.owners := by
  rfl
@[simp] theorem beginOrder_removed (j : Nat) : (beginOrder d j).removed = d.removed := by
  rfl
@[simp] theorem beginOrder_slices (j : Nat) : (beginOrder d j).slices = d.slices := by
  rfl
@[simp] theorem beginOrder_incarnations (j : Nat) : (beginOrder d j).incarnations = d.incarnations := by
  rfl
@[simp] theorem beginOrder_models (j : Nat) : (beginOrder d j).models = d.models := by
  rfl
@[simp] theorem beginOrder_loads (j : Nat) : (beginOrder d j).loads = d.loads := by
  rfl
@[simp] theorem beginOrder_contexts (j : Nat) : (beginOrder d j).contexts = d.contexts := by
  rfl
@[simp] theorem beginOrder_cmds (j : Nat) : (beginOrder d j).cmds = d.cmds := by
  rfl
@[simp] theorem beginOrder_nextCmd (j : Nat) : (beginOrder d j).nextCmd = d.nextCmd := by
  rfl
@[simp] theorem beginOrder_hamlets (j : Nat) : (beginOrder d j).hamlets = d.hamlets := by
  rfl
@[simp] theorem beginOrder_tallies (j : Nat) : (beginOrder d j).tallies = d.tallies := by
  rfl
@[simp] theorem beginOrder_hearthSets (j : Nat) : (beginOrder d j).hearthSets = d.hearthSets := by
  rfl
@[simp] theorem beginOrder_roads (j : Nat) : (beginOrder d j).roads = d.roads := by
  rfl
@[simp] theorem beginOrder_peers (j : Nat) : (beginOrder d j).peers = d.peers := by
  rfl
@[simp] theorem beginOrder_nonces (j : Nat) : (beginOrder d j).nonces = d.nonces := by
  rfl
@[simp] theorem beginOrder_requests (j : Nat) : (beginOrder d j).requests = d.requests := by
  rfl
@[simp] theorem beginOrder_reservations (j : Nat) : (beginOrder d j).reservations = d.reservations := by
  rfl
@[simp] theorem beginOrder_brownout (j : Nat) : (beginOrder d j).brownout = d.brownout := by
  rfl
@[simp] theorem beginOrder_jobs (j : Nat) : (beginOrder d j).jobs = d.jobs := by
  rfl
@[simp] theorem beginOrder_gleanings (j : Nat) : (beginOrder d j).gleanings = d.gleanings := by
  rfl
@[simp] theorem beginOrder_sheaves (j : Nat) : (beginOrder d j).sheaves = d.sheaves := by
  rfl
@[simp] theorem beginOrder_nextSheaf (j : Nat) : (beginOrder d j).nextSheaf = d.nextSheaf := by
  rfl
@[simp] theorem beginOrder_computed (j : Nat) : (beginOrder d j).computed = d.computed := by
  rfl
@[simp] theorem beginOrder_units (j : Nat) : (beginOrder d j).units = d.units := by
  rfl

@[simp] theorem takeEnvelope_fresh (op : Nat) (x : Envelope) : (takeEnvelope d op x).fresh = d.fresh := by
  simp only [takeEnvelope, setChan]; split <;> rfl
@[simp] theorem takeEnvelope_out (op : Nat) (x : Envelope) : (takeEnvelope d op x).out = d.out := by
  simp only [takeEnvelope, setChan]; split <;> rfl
@[simp] theorem takeEnvelope_time (op : Nat) (x : Envelope) : (takeEnvelope d op x).time = d.time := by
  simp only [takeEnvelope, setChan]; split <;> rfl
@[simp] theorem takeEnvelope_pkg (op : Nat) (x : Envelope) : (takeEnvelope d op x).pkg = d.pkg := by
  simp only [takeEnvelope, setChan]; split <;> rfl
@[simp] theorem takeEnvelope_portA (op : Nat) (x : Envelope) : (takeEnvelope d op x).portA = d.portA := by
  simp only [takeEnvelope, setChan]; split <;> rfl
@[simp] theorem takeEnvelope_portB (op : Nat) (x : Envelope) : (takeEnvelope d op x).portB = d.portB := by
  simp only [takeEnvelope, setChan]; split <;> rfl
@[simp] theorem takeEnvelope_ledger (op : Nat) (x : Envelope) : (takeEnvelope d op x).ledger = d.ledger := by
  simp only [takeEnvelope, setChan]; split <;> rfl
@[simp] theorem takeEnvelope_tenants (op : Nat) (x : Envelope) : (takeEnvelope d op x).tenants = d.tenants := by
  simp only [takeEnvelope, setChan]; split <;> rfl
@[simp] theorem takeEnvelope_tallyBlocks (op : Nat) (x : Envelope) : (takeEnvelope d op x).tallyBlocks = d.tallyBlocks := by
  simp only [takeEnvelope, setChan]; split <;> rfl
@[simp] theorem takeEnvelope_owners (op : Nat) (x : Envelope) : (takeEnvelope d op x).owners = d.owners := by
  simp only [takeEnvelope, setChan]; split <;> rfl
@[simp] theorem takeEnvelope_removed (op : Nat) (x : Envelope) : (takeEnvelope d op x).removed = d.removed := by
  simp only [takeEnvelope, setChan]; split <;> rfl
@[simp] theorem takeEnvelope_slices (op : Nat) (x : Envelope) : (takeEnvelope d op x).slices = d.slices := by
  simp only [takeEnvelope, setChan]; split <;> rfl
@[simp] theorem takeEnvelope_incarnations (op : Nat) (x : Envelope) : (takeEnvelope d op x).incarnations = d.incarnations := by
  simp only [takeEnvelope, setChan]; split <;> rfl
@[simp] theorem takeEnvelope_models (op : Nat) (x : Envelope) : (takeEnvelope d op x).models = d.models := by
  simp only [takeEnvelope, setChan]; split <;> rfl
@[simp] theorem takeEnvelope_loads (op : Nat) (x : Envelope) : (takeEnvelope d op x).loads = d.loads := by
  simp only [takeEnvelope, setChan]; split <;> rfl
@[simp] theorem takeEnvelope_contexts (op : Nat) (x : Envelope) : (takeEnvelope d op x).contexts = d.contexts := by
  simp only [takeEnvelope, setChan]; split <;> rfl
@[simp] theorem takeEnvelope_cmds (op : Nat) (x : Envelope) : (takeEnvelope d op x).cmds = d.cmds := by
  simp only [takeEnvelope, setChan]; split <;> rfl
@[simp] theorem takeEnvelope_nextCmd (op : Nat) (x : Envelope) : (takeEnvelope d op x).nextCmd = d.nextCmd := by
  simp only [takeEnvelope, setChan]; split <;> rfl
@[simp] theorem takeEnvelope_hamlets (op : Nat) (x : Envelope) : (takeEnvelope d op x).hamlets = d.hamlets := by
  simp only [takeEnvelope, setChan]; split <;> rfl
@[simp] theorem takeEnvelope_tallies (op : Nat) (x : Envelope) : (takeEnvelope d op x).tallies = d.tallies := by
  simp only [takeEnvelope, setChan]; split <;> rfl
@[simp] theorem takeEnvelope_hearthSets (op : Nat) (x : Envelope) : (takeEnvelope d op x).hearthSets = d.hearthSets := by
  simp only [takeEnvelope, setChan]; split <;> rfl
@[simp] theorem takeEnvelope_roads (op : Nat) (x : Envelope) : (takeEnvelope d op x).roads = d.roads := by
  simp only [takeEnvelope, setChan]; split <;> rfl
@[simp] theorem takeEnvelope_peers (op : Nat) (x : Envelope) : (takeEnvelope d op x).peers = d.peers := by
  simp only [takeEnvelope, setChan]; split <;> rfl
@[simp] theorem takeEnvelope_nonces (op : Nat) (x : Envelope) : (takeEnvelope d op x).nonces = d.nonces := by
  simp only [takeEnvelope, setChan]; split <;> rfl
@[simp] theorem takeEnvelope_requests (op : Nat) (x : Envelope) : (takeEnvelope d op x).requests = d.requests := by
  simp only [takeEnvelope, setChan]; split <;> rfl
@[simp] theorem takeEnvelope_reservations (op : Nat) (x : Envelope) : (takeEnvelope d op x).reservations = d.reservations := by
  simp only [takeEnvelope, setChan]; split <;> rfl
@[simp] theorem takeEnvelope_brownout (op : Nat) (x : Envelope) : (takeEnvelope d op x).brownout = d.brownout := by
  simp only [takeEnvelope, setChan]; split <;> rfl
@[simp] theorem takeEnvelope_jobs (op : Nat) (x : Envelope) : (takeEnvelope d op x).jobs = d.jobs := by
  simp only [takeEnvelope, setChan]; split <;> rfl
@[simp] theorem takeEnvelope_gleanings (op : Nat) (x : Envelope) : (takeEnvelope d op x).gleanings = d.gleanings := by
  simp only [takeEnvelope, setChan]; split <;> rfl
@[simp] theorem takeEnvelope_sheaves (op : Nat) (x : Envelope) : (takeEnvelope d op x).sheaves = d.sheaves := by
  simp only [takeEnvelope, setChan]; split <;> rfl
@[simp] theorem takeEnvelope_nextSheaf (op : Nat) (x : Envelope) : (takeEnvelope d op x).nextSheaf = d.nextSheaf := by
  simp only [takeEnvelope, setChan]; split <;> rfl
@[simp] theorem takeEnvelope_computed (op : Nat) (x : Envelope) : (takeEnvelope d op x).computed = d.computed := by
  simp only [takeEnvelope, setChan]; split <;> rfl
@[simp] theorem takeEnvelope_units (op : Nat) (x : Envelope) : (takeEnvelope d op x).units = d.units := by
  simp only [takeEnvelope, setChan]; split <;> rfl

@[simp] theorem takeMailbox_fresh (p : Port) : (takeMailbox d p).fresh = d.fresh := by
  cases p <;> rfl
@[simp] theorem takeMailbox_out (p : Port) : (takeMailbox d p).out = d.out := by
  cases p <;> rfl
@[simp] theorem takeMailbox_time (p : Port) : (takeMailbox d p).time = d.time := by
  cases p <;> rfl
@[simp] theorem takeMailbox_pkg (p : Port) : (takeMailbox d p).pkg = d.pkg := by
  cases p <;> rfl
@[simp] theorem takeMailbox_reeve (p : Port) : (takeMailbox d p).reeve = d.reeve := by
  cases p <;> rfl
@[simp] theorem takeMailbox_ledger (p : Port) : (takeMailbox d p).ledger = d.ledger := by
  cases p <;> rfl
@[simp] theorem takeMailbox_tenants (p : Port) : (takeMailbox d p).tenants = d.tenants := by
  cases p <;> rfl
@[simp] theorem takeMailbox_tallyBlocks (p : Port) : (takeMailbox d p).tallyBlocks = d.tallyBlocks := by
  cases p <;> rfl
@[simp] theorem takeMailbox_owners (p : Port) : (takeMailbox d p).owners = d.owners := by
  cases p <;> rfl
@[simp] theorem takeMailbox_removed (p : Port) : (takeMailbox d p).removed = d.removed := by
  cases p <;> rfl
@[simp] theorem takeMailbox_slices (p : Port) : (takeMailbox d p).slices = d.slices := by
  cases p <;> rfl
@[simp] theorem takeMailbox_incarnations (p : Port) : (takeMailbox d p).incarnations = d.incarnations := by
  cases p <;> rfl
@[simp] theorem takeMailbox_models (p : Port) : (takeMailbox d p).models = d.models := by
  cases p <;> rfl
@[simp] theorem takeMailbox_loads (p : Port) : (takeMailbox d p).loads = d.loads := by
  cases p <;> rfl
@[simp] theorem takeMailbox_contexts (p : Port) : (takeMailbox d p).contexts = d.contexts := by
  cases p <;> rfl
@[simp] theorem takeMailbox_cmds (p : Port) : (takeMailbox d p).cmds = d.cmds := by
  cases p <;> rfl
@[simp] theorem takeMailbox_nextCmd (p : Port) : (takeMailbox d p).nextCmd = d.nextCmd := by
  cases p <;> rfl
@[simp] theorem takeMailbox_hamlets (p : Port) : (takeMailbox d p).hamlets = d.hamlets := by
  cases p <;> rfl
@[simp] theorem takeMailbox_tallies (p : Port) : (takeMailbox d p).tallies = d.tallies := by
  cases p <;> rfl
@[simp] theorem takeMailbox_hearthSets (p : Port) : (takeMailbox d p).hearthSets = d.hearthSets := by
  cases p <;> rfl
@[simp] theorem takeMailbox_roads (p : Port) : (takeMailbox d p).roads = d.roads := by
  cases p <;> rfl
@[simp] theorem takeMailbox_peers (p : Port) : (takeMailbox d p).peers = d.peers := by
  cases p <;> rfl
@[simp] theorem takeMailbox_nonces (p : Port) : (takeMailbox d p).nonces = d.nonces := by
  cases p <;> rfl
@[simp] theorem takeMailbox_requests (p : Port) : (takeMailbox d p).requests = d.requests := by
  cases p <;> rfl
@[simp] theorem takeMailbox_reservations (p : Port) : (takeMailbox d p).reservations = d.reservations := by
  cases p <;> rfl
@[simp] theorem takeMailbox_brownout (p : Port) : (takeMailbox d p).brownout = d.brownout := by
  cases p <;> rfl
@[simp] theorem takeMailbox_jobs (p : Port) : (takeMailbox d p).jobs = d.jobs := by
  cases p <;> rfl
@[simp] theorem takeMailbox_gleanings (p : Port) : (takeMailbox d p).gleanings = d.gleanings := by
  cases p <;> rfl
@[simp] theorem takeMailbox_sheaves (p : Port) : (takeMailbox d p).sheaves = d.sheaves := by
  cases p <;> rfl
@[simp] theorem takeMailbox_nextSheaf (p : Port) : (takeMailbox d p).nextSheaf = d.nextSheaf := by
  cases p <;> rfl
@[simp] theorem takeMailbox_computed (p : Port) : (takeMailbox d p).computed = d.computed := by
  cases p <;> rfl
@[simp] theorem takeMailbox_units (p : Port) : (takeMailbox d p).units = d.units := by
  cases p <;> rfl

@[simp] theorem answerPf_fresh (p : Port) (code j : Nat) (rsp : Bytes) : (answerPf d p code j rsp).fresh = d.fresh := by
  simp only [answerPf]; (repeat' split) <;> simp
@[simp] theorem answerPf_time (p : Port) (code j : Nat) (rsp : Bytes) : (answerPf d p code j rsp).time = d.time := by
  simp only [answerPf]; (repeat' split) <;> simp
@[simp] theorem answerPf_pkg (p : Port) (code j : Nat) (rsp : Bytes) : (answerPf d p code j rsp).pkg = d.pkg := by
  simp only [answerPf]; (repeat' split) <;> simp
@[simp] theorem answerPf_reeve (p : Port) (code j : Nat) (rsp : Bytes) : (answerPf d p code j rsp).reeve = d.reeve := by
  simp only [answerPf]; (repeat' split) <;> simp
@[simp] theorem answerPf_ledger (p : Port) (code j : Nat) (rsp : Bytes) : (answerPf d p code j rsp).ledger = d.ledger := by
  simp only [answerPf]; (repeat' split) <;> simp
@[simp] theorem answerPf_tenants (p : Port) (code j : Nat) (rsp : Bytes) : (answerPf d p code j rsp).tenants = d.tenants := by
  simp only [answerPf]; (repeat' split) <;> simp
@[simp] theorem answerPf_tallyBlocks (p : Port) (code j : Nat) (rsp : Bytes) : (answerPf d p code j rsp).tallyBlocks = d.tallyBlocks := by
  simp only [answerPf]; (repeat' split) <;> simp
@[simp] theorem answerPf_owners (p : Port) (code j : Nat) (rsp : Bytes) : (answerPf d p code j rsp).owners = d.owners := by
  simp only [answerPf]; (repeat' split) <;> simp
@[simp] theorem answerPf_removed (p : Port) (code j : Nat) (rsp : Bytes) : (answerPf d p code j rsp).removed = d.removed := by
  simp only [answerPf]; (repeat' split) <;> simp
@[simp] theorem answerPf_slices (p : Port) (code j : Nat) (rsp : Bytes) : (answerPf d p code j rsp).slices = d.slices := by
  simp only [answerPf]; (repeat' split) <;> simp
@[simp] theorem answerPf_incarnations (p : Port) (code j : Nat) (rsp : Bytes) : (answerPf d p code j rsp).incarnations = d.incarnations := by
  simp only [answerPf]; (repeat' split) <;> simp
@[simp] theorem answerPf_models (p : Port) (code j : Nat) (rsp : Bytes) : (answerPf d p code j rsp).models = d.models := by
  simp only [answerPf]; (repeat' split) <;> simp
@[simp] theorem answerPf_loads (p : Port) (code j : Nat) (rsp : Bytes) : (answerPf d p code j rsp).loads = d.loads := by
  simp only [answerPf]; (repeat' split) <;> simp
@[simp] theorem answerPf_contexts (p : Port) (code j : Nat) (rsp : Bytes) : (answerPf d p code j rsp).contexts = d.contexts := by
  simp only [answerPf]; (repeat' split) <;> simp
@[simp] theorem answerPf_cmds (p : Port) (code j : Nat) (rsp : Bytes) : (answerPf d p code j rsp).cmds = d.cmds := by
  simp only [answerPf]; (repeat' split) <;> simp
@[simp] theorem answerPf_nextCmd (p : Port) (code j : Nat) (rsp : Bytes) : (answerPf d p code j rsp).nextCmd = d.nextCmd := by
  simp only [answerPf]; (repeat' split) <;> simp
@[simp] theorem answerPf_hamlets (p : Port) (code j : Nat) (rsp : Bytes) : (answerPf d p code j rsp).hamlets = d.hamlets := by
  simp only [answerPf]; (repeat' split) <;> simp
@[simp] theorem answerPf_tallies (p : Port) (code j : Nat) (rsp : Bytes) : (answerPf d p code j rsp).tallies = d.tallies := by
  simp only [answerPf]; (repeat' split) <;> simp
@[simp] theorem answerPf_hearthSets (p : Port) (code j : Nat) (rsp : Bytes) : (answerPf d p code j rsp).hearthSets = d.hearthSets := by
  simp only [answerPf]; (repeat' split) <;> simp
@[simp] theorem answerPf_roads (p : Port) (code j : Nat) (rsp : Bytes) : (answerPf d p code j rsp).roads = d.roads := by
  simp only [answerPf]; (repeat' split) <;> simp
@[simp] theorem answerPf_peers (p : Port) (code j : Nat) (rsp : Bytes) : (answerPf d p code j rsp).peers = d.peers := by
  simp only [answerPf]; (repeat' split) <;> simp
@[simp] theorem answerPf_nonces (p : Port) (code j : Nat) (rsp : Bytes) : (answerPf d p code j rsp).nonces = d.nonces := by
  simp only [answerPf]; (repeat' split) <;> simp
@[simp] theorem answerPf_requests (p : Port) (code j : Nat) (rsp : Bytes) : (answerPf d p code j rsp).requests = d.requests := by
  simp only [answerPf]; (repeat' split) <;> simp
@[simp] theorem answerPf_reservations (p : Port) (code j : Nat) (rsp : Bytes) : (answerPf d p code j rsp).reservations = d.reservations := by
  simp only [answerPf]; (repeat' split) <;> simp
@[simp] theorem answerPf_brownout (p : Port) (code j : Nat) (rsp : Bytes) : (answerPf d p code j rsp).brownout = d.brownout := by
  simp only [answerPf]; (repeat' split) <;> simp
@[simp] theorem answerPf_jobs (p : Port) (code j : Nat) (rsp : Bytes) : (answerPf d p code j rsp).jobs = d.jobs := by
  simp only [answerPf]; (repeat' split) <;> simp
@[simp] theorem answerPf_gleanings (p : Port) (code j : Nat) (rsp : Bytes) : (answerPf d p code j rsp).gleanings = d.gleanings := by
  simp only [answerPf]; (repeat' split) <;> simp
@[simp] theorem answerPf_sheaves (p : Port) (code j : Nat) (rsp : Bytes) : (answerPf d p code j rsp).sheaves = d.sheaves := by
  simp only [answerPf]; (repeat' split) <;> simp
@[simp] theorem answerPf_nextSheaf (p : Port) (code j : Nat) (rsp : Bytes) : (answerPf d p code j rsp).nextSheaf = d.nextSheaf := by
  simp only [answerPf]; (repeat' split) <;> simp
@[simp] theorem answerPf_computed (p : Port) (code j : Nat) (rsp : Bytes) : (answerPf d p code j rsp).computed = d.computed := by
  simp only [answerPf]; (repeat' split) <;> simp
@[simp] theorem answerPf_units (p : Port) (code j : Nat) (rsp : Bytes) : (answerPf d p code j rsp).units = d.units := by
  simp only [answerPf]; (repeat' split) <;> simp
@[simp] theorem stamp_fresh (a : Ctl) (j : Nat) : (stamp j a d).fresh = d.fresh := by
  simp only [stamp]; (repeat' split) <;> simp
@[simp] theorem stamp_out (a : Ctl) (j : Nat) : (stamp j a d).out = d.out := by
  simp only [stamp]; (repeat' split) <;> simp
@[simp] theorem stamp_time (a : Ctl) (j : Nat) : (stamp j a d).time = d.time := by
  simp only [stamp]; (repeat' split) <;> simp
@[simp] theorem stamp_pkg (a : Ctl) (j : Nat) : (stamp j a d).pkg = d.pkg := by
  simp only [stamp]; (repeat' split) <;> simp
@[simp] theorem stamp_portA (a : Ctl) (j : Nat) : (stamp j a d).portA = d.portA := by
  simp only [stamp]; (repeat' split) <;> simp
@[simp] theorem stamp_portB (a : Ctl) (j : Nat) : (stamp j a d).portB = d.portB := by
  simp only [stamp]; (repeat' split) <;> simp
@[simp] theorem stamp_tenants (a : Ctl) (j : Nat) : (stamp j a d).tenants = d.tenants := by
  simp only [stamp]; (repeat' split) <;> simp
@[simp] theorem stamp_tallyBlocks (a : Ctl) (j : Nat) : (stamp j a d).tallyBlocks = d.tallyBlocks := by
  simp only [stamp]; (repeat' split) <;> simp
@[simp] theorem stamp_owners (a : Ctl) (j : Nat) : (stamp j a d).owners = d.owners := by
  simp only [stamp]; (repeat' split) <;> simp
@[simp] theorem stamp_removed (a : Ctl) (j : Nat) : (stamp j a d).removed = d.removed := by
  simp only [stamp]; (repeat' split) <;> simp
@[simp] theorem stamp_slices (a : Ctl) (j : Nat) : (stamp j a d).slices = d.slices := by
  simp only [stamp]; (repeat' split) <;> simp
@[simp] theorem stamp_incarnations (a : Ctl) (j : Nat) : (stamp j a d).incarnations = d.incarnations := by
  simp only [stamp]; (repeat' split) <;> simp
@[simp] theorem stamp_models (a : Ctl) (j : Nat) : (stamp j a d).models = d.models := by
  simp only [stamp]; (repeat' split) <;> simp
@[simp] theorem stamp_loads (a : Ctl) (j : Nat) : (stamp j a d).loads = d.loads := by
  simp only [stamp]; (repeat' split) <;> simp
@[simp] theorem stamp_contexts (a : Ctl) (j : Nat) : (stamp j a d).contexts = d.contexts := by
  simp only [stamp]; (repeat' split) <;> simp
@[simp] theorem stamp_cmds (a : Ctl) (j : Nat) : (stamp j a d).cmds = d.cmds := by
  simp only [stamp]; (repeat' split) <;> simp
@[simp] theorem stamp_nextCmd (a : Ctl) (j : Nat) : (stamp j a d).nextCmd = d.nextCmd := by
  simp only [stamp]; (repeat' split) <;> simp
@[simp] theorem stamp_hamlets (a : Ctl) (j : Nat) : (stamp j a d).hamlets = d.hamlets := by
  simp only [stamp]; (repeat' split) <;> simp
@[simp] theorem stamp_tallies (a : Ctl) (j : Nat) : (stamp j a d).tallies = d.tallies := by
  simp only [stamp]; (repeat' split) <;> simp
@[simp] theorem stamp_hearthSets (a : Ctl) (j : Nat) : (stamp j a d).hearthSets = d.hearthSets := by
  simp only [stamp]; (repeat' split) <;> simp
@[simp] theorem stamp_roads (a : Ctl) (j : Nat) : (stamp j a d).roads = d.roads := by
  simp only [stamp]; (repeat' split) <;> simp
@[simp] theorem stamp_peers (a : Ctl) (j : Nat) : (stamp j a d).peers = d.peers := by
  simp only [stamp]; (repeat' split) <;> simp
@[simp] theorem stamp_nonces (a : Ctl) (j : Nat) : (stamp j a d).nonces = d.nonces := by
  simp only [stamp]; (repeat' split) <;> simp
@[simp] theorem stamp_requests (a : Ctl) (j : Nat) : (stamp j a d).requests = d.requests := by
  simp only [stamp]; (repeat' split) <;> simp
@[simp] theorem stamp_reservations (a : Ctl) (j : Nat) : (stamp j a d).reservations = d.reservations := by
  simp only [stamp]; (repeat' split) <;> simp
@[simp] theorem stamp_brownout (a : Ctl) (j : Nat) : (stamp j a d).brownout = d.brownout := by
  simp only [stamp]; (repeat' split) <;> simp
@[simp] theorem stamp_jobs (a : Ctl) (j : Nat) : (stamp j a d).jobs = d.jobs := by
  simp only [stamp]; (repeat' split) <;> simp
@[simp] theorem stamp_gleanings (a : Ctl) (j : Nat) : (stamp j a d).gleanings = d.gleanings := by
  simp only [stamp]; (repeat' split) <;> simp
@[simp] theorem stamp_sheaves (a : Ctl) (j : Nat) : (stamp j a d).sheaves = d.sheaves := by
  simp only [stamp]; (repeat' split) <;> simp
@[simp] theorem stamp_nextSheaf (a : Ctl) (j : Nat) : (stamp j a d).nextSheaf = d.nextSheaf := by
  simp only [stamp]; (repeat' split) <;> simp
@[simp] theorem stamp_computed (a : Ctl) (j : Nat) : (stamp j a d).computed = d.computed := by
  simp only [stamp]; (repeat' split) <;> simp
@[simp] theorem stamp_units (a : Ctl) (j : Nat) : (stamp j a d).units = d.units := by
  simp only [stamp]; (repeat' split) <;> simp

/-- A journal step changes the Reeve's record of it in HRT_MIRROR_SEQ alone. -/
theorem stamp_reeve (a : Ctl) (j : Nat) :
    (stamp j a d).reeve = d.reeve ∨ (stamp j a d).reeve = { d.reeve with mirrorSeq := j } := by
  simp only [stamp]
  (repeat' split) <;> simp

@[simp] theorem stamp_journal (a : Ctl) (j : Nat) : (stamp j a d).reeve.journal = d.reeve.journal := by
  rcases stamp_reeve d a j with h | h <;> rw [h]

@[simp] theorem getPort_stamp (a : Ctl) (j : Nat) (p : Port) : getPort (stamp j a d) p = getPort d p := by
  cases p <;> simp [getPort]

@[simp] theorem getPort_closeEntry (j code : Nat) (p : Port) : getPort (closeEntry d j code) p = getPort d p := by
  cases p <;> rfl

@[simp] theorem getPort_modEntry (j : Nat) (f : JEntry → JEntry) (p : Port) : getPort (modEntry d j f) p = getPort d p := by
  cases p <;> rfl

@[simp] theorem getPort_enter (x : JEntry) (p : Port) : getPort (enter d x) p = getPort d p := by
  cases p <;> rfl

/-- A transmission taken on changes a port's transmit queue only. -/
theorem getPort_sendTx (p q : Port) (t : Transmission) : (getPort (sendTx d p t) q).mbx = (getPort d q).mbx := by
  cases p <;> cases q <;> simp only [sendTx] <;> split <;> simp [getPort, modPort]

/-- A vector raised on a port changes pending bits and the transmit queue only. -/
theorem getPort_raiseVector (p q : Port) (v : Nat) : (getPort (raiseVector d p v) q).mbx = (getPort d q).mbx := by
  simp only [raiseVector]
  split
  · cases p <;> cases q <;> simp [getPort, modPort]
  · exact getPort_sendTx d p q _

@[simp] theorem mbx_pfIrq (p q : Port) (k : Nat) : (getPort (pfIrq d p k) q).mbx = (getPort d q).mbx := by
  simp only [pfIrq]
  split
  · exact getPort_raiseVector d p q 0
  · rfl

/-- The answer of the order a mailbox holds. -/
theorem answerPf_mbx (p : Port) (code j : Nat) (rsp : Bytes) (h : (getPort d p).mbx.state = .submitted)
    (hj : (getPort d p).mbx.jseq = j) :
    (getPort (answerPf d p code j rsp) p).mbx = { (getPort d p).mbx with
      state := .responded
      result := BitVec.ofNat 8 code
      rsp := rsp
      jseq := j
      rcookie := (getPort d p).mbx.cookie } := by
  simp [answerPf, h, hj]

/-! ### How an order starts -/

theorem pruneJournal_sub (t : Tbl JEntry) : ∀ e ∈ pruneJournal t, e ∈ t := by
  intro e he
  simp only [pruneJournal] at he
  split at he
  · exact he
  · split at he
    · exact List.mem_of_mem_filter he
    · exact he

theorem objTenant_congr {d e : Ctl} (h : e.hamlets = d.hamlets) (ht : e.tenants = d.tenants) (hs : e.slices = d.slices)
    (hr : e.reservations = d.reservations) (o : Obj) : objTenant e o = objTenant d o := by
  cases o <;> simp only [objTenant, getHam_congr h, getSlice_congr hs, ht, hr]

theorem meets_congr {d e : Ctl} (h : e.hamlets = d.hamlets) (ht : e.tenants = d.tenants) (hs : e.slices = d.slices)
    (hr : e.reservations = d.reservations) (a b : Obj) : meets e a b = meets d a b := by
  simp only [meets, contains, objTenant_congr h ht hs hr]

theorem winner_congr {d e : Ctl} (hj : e.reeve.journal = d.reeve.journal) (ht : e.time = d.time) (m op : Nat) (o : Obj) :
    winner e m op o = winner d m op o := by
  simp only [winner, mclk, now, hj, ht]

/-- An order that nothing holds up starts. -/
theorem proceed_free (j : Nat) (e : JEntry) (body : Body) (h : blockers d j e.obj = []) :
    proceed d j e body = startOrder d j e body := by
  simp [proceed, h]

/-- Taking an order from its source changes the Reeve's channel record and the mailbox alone. -/
theorem takenFrom_journal (op : Nat) (src : OrderSource) : (takenFrom d op src).reeve.journal = d.reeve.journal := by
  rcases src with p | e
  · simp [takenFrom]
  · simp only [takenFrom, takeEnvelope, setChan]
    split <;> cases e.channel <;> rfl

theorem takenFrom_nextJseq (op : Nat) (src : OrderSource) : (takenFrom d op src).reeve.nextJseq = d.reeve.nextJseq := by
  rcases src with p | e
  · simp [takenFrom]
  · simp only [takenFrom, takeEnvelope, setChan]
    split <;> cases e.channel <;> rfl

@[simp] theorem takenFrom_fresh (op : Nat) (src : OrderSource) : (takenFrom d op src).fresh = d.fresh := by
  cases src <;> simp [takenFrom]
@[simp] theorem begun_fresh (src : OrderSource) (op : Nat) (a : Bytes) (image : DmaResult) : (begun d src op a image).fresh = d.fresh := by
  simp [begun]
@[simp] theorem takenFrom_out (op : Nat) (src : OrderSource) : (takenFrom d op src).out = d.out := by
  cases src <;> simp [takenFrom]
@[simp] theorem begun_out (src : OrderSource) (op : Nat) (a : Bytes) (image : DmaResult) : (begun d src op a image).out = d.out := by
  simp [begun]
@[simp] theorem takenFrom_time (op : Nat) (src : OrderSource) : (takenFrom d op src).time = d.time := by
  cases src <;> simp [takenFrom]
@[simp] theorem begun_time (src : OrderSource) (op : Nat) (a : Bytes) (image : DmaResult) : (begun d src op a image).time = d.time := by
  simp [begun]
@[simp] theorem takenFrom_pkg (op : Nat) (src : OrderSource) : (takenFrom d op src).pkg = d.pkg := by
  cases src <;> simp [takenFrom]
@[simp] theorem begun_pkg (src : OrderSource) (op : Nat) (a : Bytes) (image : DmaResult) : (begun d src op a image).pkg = d.pkg := by
  simp [begun]
@[simp] theorem takenFrom_ledger (op : Nat) (src : OrderSource) : (takenFrom d op src).ledger = d.ledger := by
  cases src <;> simp [takenFrom]
@[simp] theorem begun_ledger (src : OrderSource) (op : Nat) (a : Bytes) (image : DmaResult) : (begun d src op a image).ledger = d.ledger := by
  simp [begun]
@[simp] theorem takenFrom_tenants (op : Nat) (src : OrderSource) : (takenFrom d op src).tenants = d.tenants := by
  cases src <;> simp [takenFrom]
@[simp] theorem begun_tenants (src : OrderSource) (op : Nat) (a : Bytes) (image : DmaResult) : (begun d src op a image).tenants = d.tenants := by
  simp [begun]
@[simp] theorem takenFrom_tallyBlocks (op : Nat) (src : OrderSource) : (takenFrom d op src).tallyBlocks = d.tallyBlocks := by
  cases src <;> simp [takenFrom]
@[simp] theorem begun_tallyBlocks (src : OrderSource) (op : Nat) (a : Bytes) (image : DmaResult) : (begun d src op a image).tallyBlocks = d.tallyBlocks := by
  simp [begun]
@[simp] theorem takenFrom_owners (op : Nat) (src : OrderSource) : (takenFrom d op src).owners = d.owners := by
  cases src <;> simp [takenFrom]
@[simp] theorem begun_owners (src : OrderSource) (op : Nat) (a : Bytes) (image : DmaResult) : (begun d src op a image).owners = d.owners := by
  simp [begun]
@[simp] theorem takenFrom_removed (op : Nat) (src : OrderSource) : (takenFrom d op src).removed = d.removed := by
  cases src <;> simp [takenFrom]
@[simp] theorem begun_removed (src : OrderSource) (op : Nat) (a : Bytes) (image : DmaResult) : (begun d src op a image).removed = d.removed := by
  simp [begun]
@[simp] theorem takenFrom_slices (op : Nat) (src : OrderSource) : (takenFrom d op src).slices = d.slices := by
  cases src <;> simp [takenFrom]
@[simp] theorem begun_slices (src : OrderSource) (op : Nat) (a : Bytes) (image : DmaResult) : (begun d src op a image).slices = d.slices := by
  simp [begun]
@[simp] theorem takenFrom_incarnations (op : Nat) (src : OrderSource) : (takenFrom d op src).incarnations = d.incarnations := by
  cases src <;> simp [takenFrom]
@[simp] theorem begun_incarnations (src : OrderSource) (op : Nat) (a : Bytes) (image : DmaResult) : (begun d src op a image).incarnations = d.incarnations := by
  simp [begun]
@[simp] theorem takenFrom_models (op : Nat) (src : OrderSource) : (takenFrom d op src).models = d.models := by
  cases src <;> simp [takenFrom]
@[simp] theorem begun_models (src : OrderSource) (op : Nat) (a : Bytes) (image : DmaResult) : (begun d src op a image).models = d.models := by
  simp [begun]
@[simp] theorem takenFrom_loads (op : Nat) (src : OrderSource) : (takenFrom d op src).loads = d.loads := by
  cases src <;> simp [takenFrom]
@[simp] theorem begun_loads (src : OrderSource) (op : Nat) (a : Bytes) (image : DmaResult) : (begun d src op a image).loads = d.loads := by
  simp [begun]
@[simp] theorem takenFrom_contexts (op : Nat) (src : OrderSource) : (takenFrom d op src).contexts = d.contexts := by
  cases src <;> simp [takenFrom]
@[simp] theorem begun_contexts (src : OrderSource) (op : Nat) (a : Bytes) (image : DmaResult) : (begun d src op a image).contexts = d.contexts := by
  simp [begun]
@[simp] theorem takenFrom_cmds (op : Nat) (src : OrderSource) : (takenFrom d op src).cmds = d.cmds := by
  cases src <;> simp [takenFrom]
@[simp] theorem begun_cmds (src : OrderSource) (op : Nat) (a : Bytes) (image : DmaResult) : (begun d src op a image).cmds = d.cmds := by
  simp [begun]
@[simp] theorem takenFrom_nextCmd (op : Nat) (src : OrderSource) : (takenFrom d op src).nextCmd = d.nextCmd := by
  cases src <;> simp [takenFrom]
@[simp] theorem begun_nextCmd (src : OrderSource) (op : Nat) (a : Bytes) (image : DmaResult) : (begun d src op a image).nextCmd = d.nextCmd := by
  simp [begun]
@[simp] theorem takenFrom_hamlets (op : Nat) (src : OrderSource) : (takenFrom d op src).hamlets = d.hamlets := by
  cases src <;> simp [takenFrom]
@[simp] theorem begun_hamlets (src : OrderSource) (op : Nat) (a : Bytes) (image : DmaResult) : (begun d src op a image).hamlets = d.hamlets := by
  simp [begun]
@[simp] theorem takenFrom_tallies (op : Nat) (src : OrderSource) : (takenFrom d op src).tallies = d.tallies := by
  cases src <;> simp [takenFrom]
@[simp] theorem begun_tallies (src : OrderSource) (op : Nat) (a : Bytes) (image : DmaResult) : (begun d src op a image).tallies = d.tallies := by
  simp [begun]
@[simp] theorem takenFrom_hearthSets (op : Nat) (src : OrderSource) : (takenFrom d op src).hearthSets = d.hearthSets := by
  cases src <;> simp [takenFrom]
@[simp] theorem begun_hearthSets (src : OrderSource) (op : Nat) (a : Bytes) (image : DmaResult) : (begun d src op a image).hearthSets = d.hearthSets := by
  simp [begun]
@[simp] theorem takenFrom_roads (op : Nat) (src : OrderSource) : (takenFrom d op src).roads = d.roads := by
  cases src <;> simp [takenFrom]
@[simp] theorem begun_roads (src : OrderSource) (op : Nat) (a : Bytes) (image : DmaResult) : (begun d src op a image).roads = d.roads := by
  simp [begun]
@[simp] theorem takenFrom_peers (op : Nat) (src : OrderSource) : (takenFrom d op src).peers = d.peers := by
  cases src <;> simp [takenFrom]
@[simp] theorem begun_peers (src : OrderSource) (op : Nat) (a : Bytes) (image : DmaResult) : (begun d src op a image).peers = d.peers := by
  simp [begun]
@[simp] theorem takenFrom_nonces (op : Nat) (src : OrderSource) : (takenFrom d op src).nonces = d.nonces := by
  cases src <;> simp [takenFrom]
@[simp] theorem begun_nonces (src : OrderSource) (op : Nat) (a : Bytes) (image : DmaResult) : (begun d src op a image).nonces = d.nonces := by
  simp [begun]
@[simp] theorem takenFrom_requests (op : Nat) (src : OrderSource) : (takenFrom d op src).requests = d.requests := by
  cases src <;> simp [takenFrom]
@[simp] theorem begun_requests (src : OrderSource) (op : Nat) (a : Bytes) (image : DmaResult) : (begun d src op a image).requests = d.requests := by
  simp [begun]
@[simp] theorem takenFrom_reservations (op : Nat) (src : OrderSource) : (takenFrom d op src).reservations = d.reservations := by
  cases src <;> simp [takenFrom]
@[simp] theorem begun_reservations (src : OrderSource) (op : Nat) (a : Bytes) (image : DmaResult) : (begun d src op a image).reservations = d.reservations := by
  simp [begun]
@[simp] theorem takenFrom_brownout (op : Nat) (src : OrderSource) : (takenFrom d op src).brownout = d.brownout := by
  cases src <;> simp [takenFrom]
@[simp] theorem begun_brownout (src : OrderSource) (op : Nat) (a : Bytes) (image : DmaResult) : (begun d src op a image).brownout = d.brownout := by
  simp [begun]
@[simp] theorem takenFrom_jobs (op : Nat) (src : OrderSource) : (takenFrom d op src).jobs = d.jobs := by
  cases src <;> simp [takenFrom]
@[simp] theorem begun_jobs (src : OrderSource) (op : Nat) (a : Bytes) (image : DmaResult) : (begun d src op a image).jobs = d.jobs := by
  simp [begun]
@[simp] theorem takenFrom_gleanings (op : Nat) (src : OrderSource) : (takenFrom d op src).gleanings = d.gleanings := by
  cases src <;> simp [takenFrom]
@[simp] theorem begun_gleanings (src : OrderSource) (op : Nat) (a : Bytes) (image : DmaResult) : (begun d src op a image).gleanings = d.gleanings := by
  simp [begun]
@[simp] theorem takenFrom_sheaves (op : Nat) (src : OrderSource) : (takenFrom d op src).sheaves = d.sheaves := by
  cases src <;> simp [takenFrom]
@[simp] theorem begun_sheaves (src : OrderSource) (op : Nat) (a : Bytes) (image : DmaResult) : (begun d src op a image).sheaves = d.sheaves := by
  simp [begun]
@[simp] theorem takenFrom_nextSheaf (op : Nat) (src : OrderSource) : (takenFrom d op src).nextSheaf = d.nextSheaf := by
  cases src <;> simp [takenFrom]
@[simp] theorem takenFrom_computed (op : Nat) (src : OrderSource) : (takenFrom d op src).computed = d.computed := by
  cases src <;> simp [takenFrom]
@[simp] theorem begun_nextSheaf (src : OrderSource) (op : Nat) (a : Bytes) (image : DmaResult) : (begun d src op a image).nextSheaf = d.nextSheaf := by
  simp [begun]
@[simp] theorem begun_computed (src : OrderSource) (op : Nat) (a : Bytes) (image : DmaResult) : (begun d src op a image).computed = d.computed := by
  simp [begun]
@[simp] theorem takenFrom_units (op : Nat) (src : OrderSource) : (takenFrom d op src).units = d.units := by
  cases src <;> simp [takenFrom]
@[simp] theorem begun_units (src : OrderSource) (op : Nat) (a : Bytes) (image : DmaResult) : (begun d src op a image).units = d.units := by
  simp [begun]

theorem orderEntry_taken (op : Nat) (src : OrderSource) (js : JSource) (m : Nat) (a : Bytes) (image : DmaResult) :
    orderEntry (takenFrom d op src) js m op a image = orderEntry d js m op a image := by
  simp [orderEntry, mclk, now]

theorem blockers_free {src : OrderSource} {op : Nat} {a : Bytes} (e0 : JEntry)
    (h : (d.reeve.journal.all fun e => e.2.state == .done || !meets d e.2.obj (orderObj op a)) = true) :
    blockers (enter (takenFrom d op src) e0) d.reeve.nextJseq (orderObj op a) = [] := by
  rw [blockers, List.filter_eq_nil_iff]
  rintro ⟨k, e⟩ he
  simp only [Bool.and_eq_true, bne_iff_ne, ne_eq, not_and, Bool.not_eq_true]
  rintro ⟨hk, hst⟩
  rw [meets_congr (d := d) (by simp) (by simp) (by simp) (by simp)]
  have he' : (k, e) ∈ Tbl.set (pruneJournal d.reeve.journal) d.reeve.nextJseq e0 := by
    simpa [enter, takenFrom_journal, takenFrom_nextJseq, modReeve] using he
  rcases Tbl.mem_set _ _ _ _ he' with h1 | h1
  · cases h1
    exact absurd rfl hk
  · have := List.all_eq_true.1 h _ (pruneJournal_sub _ _ h1)
    simpa [hst] using this

/-- An order that is ready, of well-formed arguments, starts: its command runs at once. -/
theorem order_starts {src : OrderSource} {op : Nat} {a : Bytes} (h : orderReady d src op a = true)
    {bad : Ctl → Bytes → Bool} (hb : bad (takenFrom d op src) a = false) (image : DmaResult) (body : Body) :
    order d src op image bad body =
      startOrder (enter (takenFrom d op src) (orderEntry d (srcOf src) (srcMaster src) op a image)) d.reeve.nextJseq
        (orderEntry d (srcOf src) (srcMaster src) op a image) body := by
  simp only [orderReady, Bool.and_eq_true] at h
  obtain ⟨⟨⟨⟨hup, hiss⟩, hsrc⟩, hwin⟩, hfree⟩ := h
  have harr : arrive (takenFrom d op src) (srcOf src) (srcMaster src) op a image false body =
      startOrder (enter (takenFrom d op src) (orderEntry d (srcOf src) (srcMaster src) op a image)) d.reeve.nextJseq
        (orderEntry d (srcOf src) (srcMaster src) op a image) body := by
    have hw : winner (takenFrom d op src) (srcMaster src) op (orderObj op a) = none := by
      rw [winner_congr (d := d) (takenFrom_journal _ _ _) (by simp)]
      simpa using hwin
    simp only [issuable] at hiss
    cases hr : catRow op with
    | none => rw [hr] at hiss; cases hiss
    | some r =>
      rw [hr] at hiss
      simp only [Bool.and_eq_true, Bool.or_eq_true, bne_iff_ne, ne_eq] at hiss
      have hl : ¬ ((takenFrom d op src).pkg.life = .lantern ∧ (!r.lantern) = true) := by
        rw [takenFrom_pkg]
        rintro ⟨h1, h2⟩
        rcases hiss.2 with h3 | h3
        · exact h3 h1
        · simp [h3] at h2
      simp only [arrive, hr, hw, orderEntry_taken, takenFrom_nextJseq, if_neg hl, hiss.1, Bool.not_true, Bool.false_eq_true,
        if_false]
      exact proceed_free _ _ _ _ (blockers_free d _ hfree)
  rw [← harr]
  rcases src with p | e
  · simp only [sourceHolds, Bool.and_eq_true, beq_iff_eq, decide_eq_true_eq] at hsrc
    obtain ⟨⟨⟨⟨h1, h2⟩, h3⟩, h4⟩, h5⟩ := hsrc
    have hlen : ¬ 256 < (getPort d p).mbx.argLen := by omega
    simp only [takenFrom] at hb
    simp [order, hup, pfOrder, h1, h2, h3, h5, hlen, hb, srcOf, srcMaster, takenFrom]
  · simp only [sourceHolds, Bool.and_eq_true, beq_iff_eq] at hsrc
    obtain ⟨⟨⟨⟨h1, h2⟩, h3⟩, h4⟩, h5⟩ := hsrc
    have hm : ¬ (e.channel = .mgmt ∧ allZero d.pkg.mgmtIp = true) := by
      rintro ⟨ha, hc⟩
      simp [ha, hc] at h4
    have hc : (chanOrder d e.channel).isSome = false := by simpa [Option.isNone_iff_eq_none] using h3
    have hk : (e.channel != .tc && !openIdentify op e && !envelopeOk d op e) = false := by
      cases h6 : openIdentify op e <;> cases h7 : envelopeOk d op e <;> by_cases h8 : e.channel = .tc <;> simp_all
    simp only [takenFrom] at hb
    simp [order, hup, envelopeOrder, hm, hc, hk, h1, h2, hb, srcOf, srcMaster, takenFrom]

/-- An order whose command ends it. -/
theorem order_done {src : OrderSource} {op : Nat} {a : Bytes} (h : orderReady d src op a = true)
    {bad : Ctl → Bytes → Bool} (hb : bad (takenFrom d op src) a = false) (image : DmaResult) (body : Body) {code : Nat}
    {rsp : Bytes} {d' : Ctl}
    (hbody : body (begun d src op a image) { jseq := d.reeve.nextJseq, master := srcMaster src, args := a, image := image } =
      (.done code rsp, d')) :
    order d src op image bad body = finished d src op a image code rsp d' := by
  rw [order_starts d h hb]
  simp only [startOrder, finished]
  simp only [begun] at hbody
  simp only [orderEntry] at hbody ⊢
  rw [hbody]
  rfl

/-- An order whose command begins a procedure. -/
theorem order_pending {src : OrderSource} {op : Nat} {a : Bytes} (h : orderReady d src op a = true)
    {bad : Ctl → Bytes → Bool} (hb : bad (takenFrom d op src) a = false) (image : DmaResult) (body : Body)
    {rsp : Bytes} {d' : Ctl}
    (hbody : body (begun d src op a image) { jseq := d.reeve.nextJseq, master := srcMaster src, args := a, image := image } =
      (.pending rsp, d')) :
    order d src op image bad body = underway d src op a image rsp d' := by
  rw [order_starts d h hb]
  simp only [startOrder, underway]
  simp only [begun] at hbody
  simp only [orderEntry] at hbody ⊢
  rw [hbody]
  rfl

theorem ready_done {s : State} {src : OrderSource} {op : Nat} {a : Bytes} {b : Ctl} {image : DmaResult}
    (h : Ready s src op a b image) {bad : Ctl → Bytes → Bool} (hb : bad (takenFrom s.toCtl op src) a = false) {body : Body}
    {code : Nat} {rsp : Bytes} {d' : Ctl}
    (hbody : body b { jseq := s.reeve.nextJseq, master := srcMaster src, args := a, image := image } = (.done code rsp, d')) :
    order s.toCtl src op image bad body = finished s.toCtl src op a image code rsp d' := by
  obtain ⟨h, rfl⟩ := h
  exact order_done s.toCtl h hb image body hbody

theorem ready_pending {s : State} {src : OrderSource} {op : Nat} {a : Bytes} {b : Ctl} {image : DmaResult}
    (h : Ready s src op a b image) {bad : Ctl → Bytes → Bool} (hb : bad (takenFrom s.toCtl op src) a = false) {body : Body}
    {rsp : Bytes} {d' : Ctl}
    (hbody : body b { jseq := s.reeve.nextJseq, master := srcMaster src, args := a, image := image } = (.pending rsp, d')) :
    order s.toCtl src op image bad body = underway s.toCtl src op a image rsp d' := by
  obtain ⟨h, rfl⟩ := h
  exact order_pending s.toCtl h hb image body hbody

/-- An order whose command answers PENDING and no final result (R516). -/
theorem ready_last {s : State} {src : OrderSource} {op : Nat} {a : Bytes} {b : Ctl} {image : DmaResult}
    (h : Ready s src op a b image) {bad : Ctl → Bytes → Bool} (hb : bad (takenFrom s.toCtl op src) a = false) {body : Body}
    {d' : Ctl}
    (hbody : body b { jseq := s.reeve.nextJseq, master := srcMaster src, args := a, image := image } = (.last, d')) :
    order s.toCtl src op image bad body = underway s.toCtl src op a image [] d' := by
  obtain ⟨h, rfl⟩ := h
  rw [order_starts s.toCtl h hb]
  simp only [startOrder, underway]
  simp only [begun] at hbody
  simp only [orderEntry] at hbody ⊢
  rw [hbody]
  rfl

/-- Everything a stamp does: only the Reeve's registers and the ledger change. -/
theorem stamp_frame (j : Nat) (a : Ctl) : stamp j a d = { d with reeve := (stamp j a d).reeve, ledger := (stamp j a d).ledger } := by
  unfold stamp setCfgSeq
  simp only []
  split <;> split <;> rfl

/-- Everything a mirror step does: only the Reeve's registers and the ledger change. -/
theorem mirrorStep_frame (old : Ctl) (obj : Obj) (j : Nat) :
    mirrorStep old obj j d =
      { d with reeve := (mirrorStep old obj j d).reeve, ledger := (mirrorStep old obj j d).ledger } := by
  unfold mirrorStep
  split
  · exact stamp_frame d j old
  · split
    · rfl
    · unfold stamp setCfgSeq
      simp only []
      split <;> split <;> rfl

/-- A change that leaves the mirror alone enters no step. -/
theorem mirrorStep_same {old : Ctl} (obj : Obj) (h : mirrorDiff old d = []) : mirrorStep old obj 0 d = d := by
  simp [mirrorStep, h]

end Sys2Proof.Machine
end

