-- ==== Sys2Proof/Laws/Machine.lean ====
section
/-! SUPPORT. What the shared operations of the machine do, each said once: the next state of a command as a statement names it,
messages that are delivered, admin commands, trust messages, SPDM requests, sealing, and the operations that keep the byte memory in
its canonical form. -/

namespace Sys2Proof.Machine
open Sys2Proof

/-! ### Next states -/

theorem next_setCtl {s : State} {a b : Ctl} (h : a = b) :
    (Host.Outcome.next { s with toCtl := a } : Host.Outcome State Fault Refusal) = .next (setCtl s b) := by rw [h]; rfl

theorem next_setDev {s : State} {a b : Dev} (h : a = b) :
    (Host.Outcome.next { s with toDev := a } : Host.Outcome State Fault Refusal) = .next (setDev s b) := by rw [h]; rfl

theorem next_ctl {s : State} {a b : Ctl} (h : a = b) :
    (Host.Outcome.next { s with toCtl := a } : Host.Outcome State Fault Refusal) = .next { s with toCtl := b } := by rw [h]

theorem next_fullReset {s : State} {a b : Ctl} (h : a = b) :
    (Host.Outcome.next { s with toDev := runFullReset { s.toDev with toCtl := a } } : Host.Outcome State Fault Refusal) =
      .next { s with toDev := runFullReset { s.toDev with toCtl := b } } := by rw [h]

/-! ### Road messages -/

theorem receiveCtl_delivered {s : State} {r op : Nat} {m : RoadMsg} {p : Bytes} {e : Ctl} (f : Ctl → Bytes → Ctl)
    (h : Arrives s r op m p e) : receiveCtl s.toCtl r op m f = f e p := by
  obtain ⟨h1, h2, h3, ⟨q, h4, rfl⟩, rfl⟩ := h
  simp [receiveCtl, h1, h2, h3, h4]

theorem receive_delivered {s : State} {r op : Nat} {m : RoadMsg} {p : Bytes} {e : Ctl} (f : Dev → Bytes → Dev)
    (h : Arrives s r op m p e) : receive s.toDev r op m f = f { s.toDev with toCtl := e } p := by
  obtain ⟨h1, h2, h3, ⟨q, h4, rfl⟩, rfl⟩ := h
  simp [receive, h1, h2, h3, h4, withCtl]

/-! ### Admin commands -/

theorem adminRun_runs {s : State} {id : Nat} {op : Byte} {check : Ctl → Cmd → Option Status} {k : Cmd} {b : Ctl}
    (f : Ctl → Cmd → Ctl) (h : AdminRuns s id op check k b) :
    adminRun s.toCtl id op check f = stamp k.jseq s.toCtl (f b k) := by
  obtain ⟨h1, h2, h3⟩ := h
  simp [adminRun, h1, h2, h3]

theorem next_admin {s : State} {id : Nat} {op : Byte} {check : Ctl → Cmd → Option Status} {k : Cmd} {b d' : Ctl}
    {f : Ctl → Cmd → Ctl} (h : AdminRuns s id op check k b) (hf : f b k = d') :
    (Host.Outcome.next { s with toCtl := adminRun s.toCtl id op check f } : Host.Outcome State Fault Refusal) =
      .next (adminDone s k d') := by
  rw [adminRun_runs f h, hf]; rfl

/-! ### Trust messages and SPDM -/

theorem trustArrive_runs {s : State} {p : Port} {r : TrustRow} {id : Nat} {m : Bytes} {q : SpdmSession} {b : Ctl} (body : TrustBody)
    (h : TrustRuns s p r id m q b) :
    trustArrive s.toCtl p r id m body =
      emit (closeEntry (stamp s.toCtl.reeve.nextJseq b (trustRun b p r q m body).2) s.toCtl.reeve.nextJseq
        (trustJournal (trustRun b p r q m body).1.1))
        (.trust p id (trustResponse r.code (trustRun b p r q m body).1.1 m (trustRun b p r q m body).1.2)) := by
  obtain ⟨h1, h2, h3, h4, h5, h6, h7⟩ := h
  have hm : mclk (modSession s.toCtl p id fun q => { q with used := now s.toCtl }) = mclk s.toCtl := by cases p <;> rfl
  have hj : (modSession s.toCtl p id fun q => { q with used := now s.toCtl }).reeve.nextJseq = s.toCtl.reeve.nextJseq := by
    cases p <;> rfl
  rw [hj] at h5 h6
  have h2' : (sessionOf s.toCtl p id).isNone = false := by cases h : sessionOf s.toCtl p id <;> simp_all
  unfold trustArrive
  simp only [h1, h2', hm, h4]
  simp only [Bool.not_true, Bool.false_eq_true, if_false, h5, if_true]
  unfold trustExec
  simp only [← h6, h7]

theorem spdmRequest_asks {d : Ctl} {p : Port} {req : Bytes} {code least : Nat} {f : Ctl → Ctl} (h : SpdmAsks d p req code least)
    (t : Bool) (hc : code ≠ 0x84) :
    spdmRequest d p req code least t f = if t then f d else spdmAnswer d p (spdmError 4 0) := by
  obtain ⟨h1, h2, h3, h4⟩ := h
  unfold spdmRequest
  cases t <;> simp [h1, h2, h4, hc, Nat.not_lt.2 h3]

/-! ### Orders -/

/-- An order that its source holds arrives at the journal. -/
theorem order_arrives {d : Ctl} {op : Nat} {a : Bytes} {src : OrderSource} (mal : Ctl → Bytes → Bool) (body : Body)
    (hu : reeveUp d = true) (h : sourceHolds d op a src = true) :
    ∃ m, (mal (takenFrom d op src) a = true → m = true) ∧ (∀ p, src = .pf p → m = mal (takenFrom d op src) a) ∧
      order d src op (.ok []) mal body =
        arrive (takenFrom d op src) (srcOf src) (srcMaster src) op a (.ok []) m body := by
  cases src with
  | pf p =>
    simp only [sourceHolds, Bool.and_eq_true, beq_iff_eq, decide_eq_true_eq] at h
    obtain ⟨⟨⟨⟨a1, a2⟩, a3⟩, a4⟩, a5⟩ := h
    refine ⟨_, fun h => h, fun _ _ => rfl, ?_⟩
    simp only [order, hu, pfOrder, a1, a2, a3, a5]
    have : decide (256 < (getPort d p).mbx.argLen) = false := by simp; omega
    simp [this, takenFrom, srcOf, srcMaster]
  | env e =>
    simp only [sourceHolds, Bool.and_eq_true, beq_iff_eq] at h
    obtain ⟨⟨⟨⟨a1, a2⟩, a3⟩, a4⟩, a5⟩ := h
    subst a1
    refine ⟨mal (takenFrom d op (.env e)) e.args || e.reserved != 0, fun h => by simp [h], fun _ h => (by cases h), ?_⟩
    simp only [order, hu, envelopeOrder]
    rw [if_neg (by simp), if_neg (by simp at a4; intro h; have := a4; simp [h.1, h.2] at this),
      if_neg (by cases hh : chanOrder d e.channel <;> simp_all), if_neg]
    · rfl
    · simp at a5 ⊢; intro h1 h2; rcases a5 with (h | h) | h <;> simp_all

/-! ### Sealing -/

theorem length_xorBytes (a b : Bytes) : (xorBytes a b).length = min a.length b.length := by simp [xorBytes]

theorem length_padTo (n : Nat) (bs : Bytes) : (padTo n bs).length = n := by simp [padTo, zeros]

theorem length_chunksOf (n : Nat) : ∀ (m : Nat) (l : Bytes), (chunksOf n m l).length = m
  | 0, _ => rfl
  | m + 1, l => by simp [chunksOf, length_chunksOf n m]

theorem mem_chunksOf (n : Nat) : ∀ (m : Nat) (l : Bytes), n * m ≤ l.length → ∀ w ∈ chunksOf n m l, w.length = n
  | 0, _, _, w, hw => by simp [chunksOf] at hw
  | m + 1, l, h, w, hw => by
    have h' : n * m + n ≤ l.length := by rw [Nat.mul_succ] at h; exact h
    simp only [chunksOf, List.mem_cons] at hw
    rcases hw with rfl | hw
    · simp; omega
    · exact mem_chunksOf n m (l.drop n) (by simp; omega) w hw

theorem aesExpand_words : ∀ (n i : Nat) (rc : Byte) (r : List Bytes), (∀ w ∈ r, w.length = 4) → 8 ≤ r.length →
    (∀ w ∈ aesExpand n i rc r, w.length = 4) ∧ (aesExpand n i rc r).length = n + r.length
  | 0, _, _, r, h, _ => by simpa [aesExpand] using h
  | n + 1, i, rc, r, h, hr => by
    have at_ : ∀ k, k < 8 → (r.getD k []).length = 4 := by
      intro k hk
      rw [List.getD_eq_getElem?_getD, List.getElem?_eq_getElem (by omega)]
      exact h _ (List.getElem_mem _)
    simp only [aesExpand]
    generalize ht : (if i % 8 = 0 then _ else _ : Bytes) = t
    have hl : t.length = 4 := by
      have h0 := at_ 0 (by omega)
      subst ht
      split
      · simp [length_xorBytes, List.getD_eq_getElem?_getD] at h0 ⊢; omega
      · split <;> simpa [List.getD_eq_getElem?_getD] using h0
    have := aesExpand_words n (i + 1) (if i % 8 = 0 then xtime rc else rc) (xorBytes (r.getD 7 []) t :: r)
      (by
        intro w hw
        rcases List.mem_cons.1 hw with rfl | hw
        · rw [length_xorBytes, at_ 7 (by omega), hl]; rfl
        · exact h w hw)
      (by simp; omega)
    refine ⟨this.1, ?_⟩
    rw [this.2]; simp; omega

theorem length_flatten_of (n : Nat) : ∀ l : List Bytes, (∀ w ∈ l, w.length = n) → l.flatten.length = n * l.length
  | [], _ => rfl
  | w :: l, h => by
    rw [List.flatten_cons, List.length_append, h w (by simp), length_flatten_of n l fun v hv => h v (by simp [hv]),
      List.length_cons, Nat.mul_succ, Nat.add_comm]

/-- The round keys are 15 blocks. -/
theorem aesKeys_blocks (key : Bytes) : (aesKeys key).length = 15 ∧ ∀ k ∈ aesKeys key, k.length = 16 := by
  have h0 := mem_chunksOf 4 8 (padTo 32 key) (by rw [length_padTo])
  have h := aesExpand_words 52 8 1 (chunksOf 4 8 (padTo 32 key)).reverse (by simpa using h0) (by simp [length_chunksOf])
  refine ⟨length_chunksOf .., fun k hk => mem_chunksOf 16 15 _ ?_ k hk⟩
  rw [length_flatten_of 4 _ (by simpa using h.1), List.length_reverse, h.2]
  simp [length_chunksOf]

theorem length_aesRounds : ∀ (ks : List Bytes) (s : Bytes), ks ≠ [] → (∀ k ∈ ks, k.length = 16) → (aesRounds ks s).length = 16
  | [], _, h, _ => absurd rfl h
  | [k], s, _, h => by simp [aesRounds, length_xorBytes, aesSubShift, h k (by simp)]
  | k :: m :: ks, s, _, h => by
    rw [aesRounds]
    · exact length_aesRounds (m :: ks) _ (by simp) fun x hx => h x (by simp [List.mem_cons.1 hx])
    · simp

/-- AES gives one block. -/
theorem length_aesBlock (key blk : Bytes) : (aesBlock (aesKeys key) blk).length = 16 := by
  have h := aesKeys_blocks key
  refine length_aesRounds _ _ ?_ fun k hk => h.2 k (List.mem_of_mem_drop hk)
  intro h'
  have := congrArg List.length h'
  simp [h.1] at this

theorem length_ctrStream (key iv : Bytes) : ∀ n c, (ctrStream (aesKeys key) iv n c).length = 16 * n
  | 0, _ => rfl
  | n + 1, c => by
    simp only [ctrStream, List.length_append, length_aesBlock, length_ctrStream key iv n]
    omega

theorem length_gcmCrypt (key iv data : Bytes) : (gcmCrypt key iv data).length = data.length := by
  simp only [gcmCrypt, length_xorBytes, length_ctrStream, ceilDiv]
  omega

theorem xorBytes_xorBytes : ∀ a b : Bytes, a.length ≤ b.length → xorBytes (xorBytes a b) b = a
  | [], _, _ => rfl
  | x :: a, [], h => by simp at h
  | x :: a, y :: b, h => by
    have := xorBytes_xorBytes a b (by simpa using h)
    simp only [xorBytes, List.zipWith_cons_cons] at this ⊢
    rw [this]
    simp

/-- The counter mode cipher is its own inverse. -/
theorem gcmCrypt_gcmCrypt (key iv data : Bytes) : gcmCrypt key iv (gcmCrypt key iv data) = data := by
  have h := length_gcmCrypt key iv data
  rw [gcmCrypt, h, gcmCrypt]
  refine xorBytes_xorBytes _ _ ?_
  rw [length_ctrStream, ceilDiv]
  omega

/-! ### Memory -/

theorem foldl_keeps {α : Type} (P : Dev → Prop) (f : Dev → α → Dev) (hf : ∀ d x, P d → P (f d x)) :
    ∀ (l : List α) (d : Dev), P d → P (l.foldl f d)
  | [], _, h => h
  | x :: l, d, h => foldl_keeps P f hf l (f d x) (hf d x h)

theorem foldl_wf {α : Type} (f : List Host.Cell → α → List Host.Cell) (hf : ∀ m x, Mem.wf m = true → Mem.wf (f m x) = true) :
    ∀ (l : List α) (m : List Host.Cell), Mem.wf m = true → Mem.wf (l.foldl f m) = true
  | [], _, h => h
  | x :: l, m, h => foldl_wf f hf l (f m x) (hf m x h)

/-- A store keeps the canonical form. -/
theorem wf_storeBytes {d : Dev} (h : Mem.wf d.mem = true) (n off : Nat) (bs : Bytes) :
    Mem.wf (storeBytes d n off bs).mem = true := by
  have h1 : Mem.wf (Mem.writeBytes d.mem (memKey n off) bs) = true := Mem.wf_writeBytes bs _ h
  unfold storeBytes
  simp only []
  split
  · exact h1
  · refine foldl_wf _ (fun m e hm => ?_) _ _ h1
    split
    · exact Mem.wf_write hm _ _
    · exact hm

theorem wf_applyWrites {d : Dev} (h : Mem.wf d.mem = true) (ws : List (Nat × Bytes)) : Mem.wf (applyWrites d ws).mem = true :=
  foldl_keeps (fun d => Mem.wf d.mem = true) _ (fun _ w h => wf_storeBytes h (w.1 / 2 ^ 43) (w.1 % 2 ^ 43) w.2) ws d h

theorem wf_zeroHamlet {d : Dev} (h : Mem.wf d.mem = true) (n : Nat) : Mem.wf (zeroHamlet d n).mem = true := by
  simp only [zeroHamlet, withCtl, Mem.wf_zeroWhere h]

theorem wf_keepMirrored {d : Dev} (h : Mem.wf d.mem = true) (n : Nat) : Mem.wf (keepMirrored d n).mem = true := by
  simp only [keepMirrored, Mem.wf_zeroWhere h]

theorem wf_clearedDev (d : Dev) (l : PkgLife) : Mem.wf (clearedDev d l).mem = true := rfl

theorem wf_restoreShadows {d : Dev} (h : Mem.wf d.mem = true) (n : Nat) : Mem.wf (restoreShadows d n).mem = true := by
  unfold restoreShadows
  simp only []
  refine foldl_keeps (fun d => Mem.wf d.mem = true) _ (fun d e h => ?_) _ _ (Mem.wf_zero h _ _)
  refine foldl_keeps (fun d => Mem.wf d.mem = true) _ (fun d r h => ?_) _ _ h
  exact foldl_keeps (fun d => Mem.wf d.mem = true) _ (fun _ _ h => wf_storeBytes h _ _ _) _ _ h

theorem wf_repairBlock {d : Dev} (h : Mem.wf d.mem = true) (n b : Nat) : Mem.wf (repairBlock d n b).mem = true := by
  unfold repairBlock
  simp only []
  refine foldl_keeps (fun d => Mem.wf d.mem = true) _ (fun d e h => ?_) _ _ h
  refine foldl_keeps (fun d => Mem.wf d.mem = true) _ (fun d r h => ?_) _ _ h
  refine foldl_keeps (fun d => Mem.wf d.mem = true) _ (fun d w h => ?_) _ _ h
  split
  · exact wf_storeBytes h _ _ _
  · exact h

end Sys2Proof.Machine
end

