-- ==== Sys2Proof/Machine/Edges.lean ====
section
/-! DEFINITION. Effects that fall on one shared clock edge: the order in which their commands stand in the queue (R437, R542,
log 3). -/

namespace Sys2Proof.Machine
open Sys2Proof

/-- The place of a command among those of one edge: reads, then its clock's place in R542. -/
def edgeRank (i : Instr) : Nat :=
  match i with
  -- R437: reads return the state from before the edge.
  | .shadowLoRead .. | .shadowHiRead .. | .i3cStatusRead => 0
  -- CCLK: tiles, cores and croft scratchpads (DEDUCED: the list of R542 leaves CCLK out).
  | .tileComplete .. | .tlyRead .. | .tlyWaitGe .. | .tlyWaitEq .. | .tlyAdd .. | .tlySet .. | .tlyClaim ..
  | .tlyClaimWait .. | .tlyRelease .. | .remoteRead .. | .remoteWrite .. | .stileReached .. | .coreEcc ..
  | .millResidue .. | .spadEcc .. => 1
  -- NCLK.
  | .granaryReserve .. | .bindCommand .. | .commitToken .. | .tallyWaitRelease .. | .rd .. | .wrStage .. | .mark ..
  | .rdData .. | .stagedAck .. | .applied .. | .grant .. | .deferred .. | .tallyResult .. | .syncAck .. | .nack ..
  | .reserve .. | .unreserve .. | .commit .. | .discardMessage .. | .tallyOp .. | .waitRegister .. | .waitNotify ..
  | .epochInstall .. | .epochRetire .. | .epochAck .. | .orphanNotice .. | .jobDead .. | .routeNotice .. | .markSeen ..
  | .replayQuery .. | .replayReply .. | .timeProbe .. | .timeReply .. | .live .. | .roadBlockReceived ..
  | .roadTrainingDone .. | .roadTrainingTimeout .. | .roadSignalLost .. | .peerSilenceTimeout .. | .liveTimer
  | .requestTimeout .. | .routeRecompute | .almanacActivation .. | .almanacSlotBoundary .. | .preemptTrigger ..
  | .parkDone .. | .resumeDone .. | .dispatch .. | .granaryEcc .. | .tallyVote .. | .bridge .. | .fieldNet ..
  | .roadTrainingStart .. | .ttagQuarantineExpiry .. | .patrolScrub .. | .correctedWriteback .. | .channelFailure ..
  | .channelRebuildDone .. | .hbmUncorrectable .. | .zeroFillDone .. => 2
  -- HCLK, and events of pins, host ports and the GQI engine.
  | .lnSqTailWrite .. | .lnCqHeadWrite .. | .postcardSlotWrite .. | .descriptorFetchDone .. | .inputReadDone ..
  | .predispatchDecision .. | .gqiOpRun .. | .gqiOpRunCtx .. | .gqiOpPrefillChunk .. | .gqiOpCtxRelease .. | .gqiOpNop ..
  | .resultDelivery .. | .completionEntryWrite .. | .irqTimeThreshold .. | .sheafDone .. | .strictFrameBoundary
  | .hearthSram .. | .cryptoKat .. | .clock | .rail .. | .thermalSample .. | .thermtrip .. | .hangTimeout ..
  | .coreIdleTimeout .. | .fenceDeadline .. | .vddAuxChange .. | .pwrOkAssert | .pwrOkDeassert | .pkgResetNAssert
  | .pkgResetNDeassert .. | .perstAssert .. | .perstDeassert .. | .refclkRestored | .selftestPhaseDone ..
  | .avsTargetChange .. | .linkDown .. | .flr .. | .atsInvalidation .. | .i3cDynamicAddress .. | .extest | .idcode
  | .samplePreload .. | .clamp | .highz | .bypass | .linkUp .. => 3
  -- MCLK.
  | .mbIdentify .. | .mbSelftestReport .. | .mbLogRead .. | .mbFaultLogRead .. | .mbDetailLogRead ..
  | .mbGleaningsList .. | .mbOrderStatus .. | .mbSliceStats .. | .mbTenantCreate .. | .mbTenantRemove ..
  | .mbTenantPermit .. | .mbHamletAssign .. | .mbHamletRelease .. | .mbHamletReset .. | .mbHamletConfig ..
  | .mbOwnerMapSet .. | .mbWayMask .. | .mbTallyAlloc .. | .mbSliceCreate .. | .mbSliceDestroy .. | .mbSliceReset ..
  | .mbSliceSetPort .. | .mbSliceSched .. | .mbSliceRate .. | .mbAlmanacWrite .. | .mbResvCreate .. | .mbResvEnd ..
  | .mbResvQuery .. | .mbRoadEnable .. | .mbRoadDisable .. | .mbRoadWeight .. | .mbTimeRole .. | .mbTimeConfig ..
  | .mbTimeSet .. | .mbContainPolicy .. | .mbRecoverySet .. | .mbPkgReset .. | .mbReturnToService .. | .mbJobSet ..
  | .mbJobDead .. | .mbJobClear .. | .mbMigFreeze .. | .mbMigSave .. | .mbMigRestore .. | .mbMigResume ..
  | .mbCharterRead .. | .mbCharterWrite .. | .mbFwWrite .. | .mbFwSvnCommit .. | .mbReboot .. | .mbDebugUnlock ..
  | .gqiAdmIdentify .. | .gqiAdmSetFeatures .. | .gqiAdmCreateLane .. | .gqiAdmDeleteLane .. | .gqiAdmResetLane ..
  | .gqiAdmSetLanePolicy .. | .gqiAdmModelLoad .. | .gqiAdmModelUnload .. | .gqiAdmQueryStats ..
  | .gqiAdmGleaningsRead .. | .tenantClaim .. | .sliceKeyInstall .. | .sliceKeyRetire .. | .tenantStatus ..
  | .migrationArm .. | .getVersion .. | .getCapabilities .. | .negotiateAlgorithms .. | .getDigests ..
  | .getCertificate .. | .challenge .. | .getMeasurements .. | .keyExchange .. | .finish .. | .epochRotation ..
  | .backupTakeover | .orderStart .. | .ledgerPassStart | .ledgerPassEnd | .brownoutGrantsApply | .reeveLock ..
  | .reeveWdog .. | .reeveTakeoverDone | .reevePairReturn .. | .tmrReread .. | .spareBistDone .. | .croftRemapDone ..
  | .croftSelfCheckDone .. | .resetTargetExpiry .. | .warmResetHoldExpiry | .fullResetTimeout | .gleaningsCollected ..
  | .hamletResetDone .. | .packageWarmResetDone | .flashOperationDone .. => 4
  -- PCLK.
  | .registerWrite .. | .wideReq .. | .wideAck .. | .mbxAck .. | .ldgCommitCommit | .ldgCommitCapture | .ldgRangeWrite ..
  | .configRequest .. => 5
  -- TCLK (DEDUCED: the list of R542 leaves TCLK out).
  | .ptpAnnounce .. | .ptpSync .. | .ptpFollowUp .. | .ptpDelayReqTimer | .ptpDelayResp .. | .ptpPdelayReq ..
  | .ptpPdelayResp .. | .ptpPdelayRespFollowUp .. | .ppsInEdge | .ppsOutSecond | .ppsOutFall | .sourceLostTimeout
  | .holdoverLimit | .timeProbeTimer => 6

/-- Commands that fall on one edge join the queue: by clock, and those of one clock as they were given. A commit token and a fence
of one edge still resolve under R122 (`mayCommit`), a write and a hardware update of one field under R438 (`collide`). -/
def takeEdge (s : State) (l : List Instr) : State :=
  { s with pending := s.pending ++ (List.range 7).flatMap fun r => l.filter fun i => edgeRank i == r }

end Sys2Proof.Machine
end

