-- ==== Sys2Proof/WellFormed.lean ====
section
/-! DEFINITION. Which commands are well formed: operands whose sizes and ranges the spec's layouts fix and their types do
not. `exec` is total on every command all the same. -/

namespace Sys2Proof

/-- Bytes that fill a cell of a postcard slot without passing its end (R62, R67). -/
def slotWriteWf (off : Nat) (bytes : Bytes) : Bool := decide (1 ≤ bytes.length ∧ off + bytes.length ≤ 256)

/-- A register write of 4 or 8 bytes with a value of that width (R498). -/
def writeWf (width : Nat) (v : W64) : Bool := width == 8 || (width == 4 && decide (v.toNat < 2 ^ 32))

/-- A fetched descriptor is 64 B (R91). -/
def fetchWf : DmaResult → Bool
  | .ok b => b.length == 64
  | .failed => true

/-- A road message: at most 16 data flits, and a tag of 16 bytes (R217). -/
def msgWf (m : RoadMsg) : Bool := decide (m.data.length ≤ 1024) && m.tag.length == 16

/-- A block: two link words and 25 flit positions of 64 B (R212, R213). -/
def blockWf (b : RoadBlock) : Bool :=
  b.linkA.length == 64 && b.linkB.length == 64 && b.flits.length == 25 && b.flits.all fun f => f.length == 64

/-- An envelope: at most 256 B of arguments, a tag of 16 bytes or, on the TC channel, none (R428). -/
def envWf : OrderSource → Bool
  | .pf _ => true
  | .env e => decide (e.args.length ≤ 256) && e.tag.length == (match e.channel with | .tc => 0 | _ => 16)

/-- A trust message holds its header (R309). -/
def trustWf (m : Bytes) : Bool := decide (16 ≤ m.length)

/-- An SPDM request holds its header (R306). -/
def spdmWf (m : Bytes) : Bool := decide (4 ≤ m.length)

/-- A tile's reads and writes carry bytes (R161), its cores are logical cores of a hamlet (R30), and its register bytes lie in
the 64 KiB of a core (R49). -/
def tileWf (e : TileEffects) : Bool :=
  ((e.writes ++ e.output).all fun w => !w.2.isEmpty) && (e.flags.all fun f => decide (f.1 < 864)) &&
    (e.reads.all fun r => decide (1 ≤ r.2)) && e.registers.all fun w => decide (w.1 + w.2.length ≤ 65536)

/-- A block number within the 12 GiB of a hamlet's HBM (R183). -/
def hbmBlockWf (block : Nat) : Bool := decide (64 * block < 12 * 2 ^ 30)

/-- Temperatures: 16 sensors on a Field, 8 on the Hearth (R538). -/
def readingsWf (die : Nat) (l : List Int) : Bool := l.length == (if die < 4 then 16 else 8)

/-- A gleanings sample: logical cores below 864, 4 KiB a croft (R389). -/
def gleanWf (g : GleaningsSample) : Bool :=
  (g.cores.all fun c => decide (c.1 < 864)) && g.samples.all fun x => decide (x.1 < 12) && x.2.length == 4096

/-- A PTP header of a domain the charter can name (R459, R486). -/
def ptpWf (h : PtpHeader) : Bool := decide (h.domain.toNat ≤ 127)

/-- A failed unit of a kind MB_SELFTEST_REPORT has (R519). -/
def unitWf (u : FailedUnit) : Bool := decide (1 ≤ u.kind ∧ u.kind ≤ 6 ∧ u.unit < 256 ∧ u.sub < 256)

/-- A phase's duration fits its report, and its units have a kind (R519). -/
def phaseWf (r : PhaseResult) : Bool := decide (r.durationMs < 2 ^ 16) && r.failed.all unitWf

/-- A Field rail target: 0.65 V to 0.80 V in steps of 5 mV (R477). -/
def avsWf (mv : Nat) : Bool := decide (650 ≤ mv ∧ mv ≤ 800) && mv % 5 == 0

/-- A PCIe rate in units of 0.5 GT/s and a width (R490). -/
def linkWf (rate width : Nat) : Bool := [5, 10, 16, 32, 64, 128].contains rate && [1, 2, 4, 8, 16].contains width

/-- The operands of a road message command. -/
def roadWf : Instr → Option RoadMsg
  | .rd _ m | .wrStage _ m | .mark _ m | .rdData _ m | .stagedAck _ m | .applied _ m | .grant _ m | .deferred _ m
  | .tallyResult _ m | .syncAck _ m | .nack _ m | .reserve _ m | .unreserve _ m | .commit _ m | .discardMessage _ m
  | .tallyOp _ m | .waitRegister _ m | .waitNotify _ m | .epochInstall _ m | .epochRetire _ m | .epochAck _ m
  | .orphanNotice _ m | .jobDead _ m | .routeNotice _ m | .markSeen _ m | .replayQuery _ m | .replayReply _ m
  | .timeProbe _ m | .timeReply _ m | .live _ m => some m
  | _ => none

/-- The source of an order command. -/
def orderSource : Instr → Option OrderSource
  | .mbIdentify e | .mbSelftestReport e | .mbLogRead e | .mbFaultLogRead e | .mbDetailLogRead e | .mbGleaningsList e
  | .mbOrderStatus e | .mbSliceStats e | .mbTenantCreate e | .mbTenantRemove e | .mbTenantPermit e | .mbHamletAssign e
  | .mbHamletRelease e | .mbHamletReset e | .mbHamletConfig e | .mbOwnerMapSet e | .mbWayMask e | .mbTallyAlloc e
  | .mbSliceCreate e | .mbSliceDestroy e | .mbSliceReset e | .mbSliceSetPort e | .mbSliceSched e | .mbSliceRate e
  | .mbAlmanacWrite e | .mbResvCreate e | .mbResvEnd e | .mbResvQuery e | .mbRoadEnable e | .mbRoadDisable e
  | .mbRoadWeight e | .mbTimeRole e | .mbTimeConfig e | .mbTimeSet e | .mbContainPolicy e | .mbRecoverySet e
  | .mbPkgReset e | .mbReturnToService e | .mbJobSet e | .mbJobDead e | .mbJobClear e | .mbMigFreeze e | .mbMigSave e
  | .mbMigRestore e _ | .mbMigResume e | .mbCharterRead e | .mbCharterWrite e | .mbFwWrite e _ | .mbFwSvnCommit e
  | .mbReboot e | .mbDebugUnlock e => some e
  | _ => none

/-- The bytes of a DOE command: trust message or SPDM request. -/
def doeWf : Instr → Bool
  | .tenantClaim _ _ m | .sliceKeyInstall _ _ m | .sliceKeyRetire _ _ m | .tenantStatus _ _ m | .migrationArm _ _ m => trustWf m
  | .getVersion _ m | .getCapabilities _ m | .negotiateAlgorithms _ m | .getDigests _ m | .getCertificate _ m
  | .challenge _ m | .getMeasurements _ m | .keyExchange _ m | .finish _ m => spdmWf m
  | _ => true

/-- The header of a PTP command. -/
def ptpHeader : Instr → Option PtpHeader
  | .ptpAnnounce h _ | .ptpSync h _ | .ptpFollowUp h _ | .ptpDelayResp h _ | .ptpPdelayReq h _ | .ptpPdelayResp h _
  | .ptpPdelayRespFollowUp h _ => some h
  | _ => none

/-- The remaining operands, by command. -/
def otherWf : Instr → Bool
  | .postcardSlotWrite _ _ _ _ off bytes => slotWriteWf off.val bytes
  | .registerWrite _ _ width v _ => writeWf width v
  | .descriptorFetchDone _ _ r => fetchWf r
  | .tileComplete _ _ e => tileWf e
  | .remoteRead _ _ len => decide (1 ≤ len)
  | .remoteWrite _ _ bytes => !bytes.isEmpty
  | .roadBlockReceived _ b => blockWf b
  | .patrolScrub _ block _ => hbmBlockWf block
  | .correctedWriteback _ block => hbmBlockWf block
  | .hbmUncorrectable _ block _ _ => hbmBlockWf block
  | .spadEcc _ _ off _ => decide (off < 4 * 2 ^ 20)
  | .granaryEcc _ bank _ _ => decide (bank < 256)
  | .bridge _ retries => decide (1 ≤ retries)
  | .thermalSample die l => readingsWf die.val l
  | .selftestPhaseDone r => phaseWf r
  | .avsTargetChange _ mv => avsWf mv
  | .configRequest _ off _ => off.toNat % 4 == 0
  | .linkUp _ rate width => linkWf rate width
  | .gleaningsCollected _ g => gleanWf g
  | _ => true

/-- A command whose operands are within the spec's layouts. -/
def Instr.wf (i : Instr) : Bool :=
  (roadWf i).all msgWf && (orderSource i).all envWf && doeWf i && (ptpHeader i).all ptpWf && otherWf i

end Sys2Proof
end

