-- ==== Sys2Proof/Tests/Slice0.lean ====
section
/-! SUPPORT. Witnesses: for the hypotheses of each statement a concrete state and operands that meet them together, at the
boundaries of their ranges; and for each check of WellFormed an ill-formed command that it refuses. -/

namespace Sys2Proof.Tests
open Sys2Proof Sys2Proof.Machine

set_option Elab.async false

/-! ### Small states -/

/-- Tenant 5, in place 0, claimed. -/
def tenant5 : Tenant := {
  ident := 5, handle := 7, state := .claimed, permitMigration := true, joined := true, wayDesc := 1, wayAtc := 1, wayLane := 1
  rootKey := zeros 32, claimSalt := zeros 16, roadSalt := zeros 16, roadCur := some ⟨1, zeros 32⟩ }

/-- Slice 0 of tenant 5: ACTIVE on both ports, lanes 0 and 1 enabled. -/
def slice0 : Slice := {
  state := .active, boundA := true, boundB := true, pasidA := 1, pasidB := 1, vecBaseA := 1, vecCountA := 1, vecBaseB := 1
  vecCountB := 1, laneLimit := 4, incarnation := 1, features := 0xFFF, fastLimit := 4, arm := some (zeros 16)
  keys := { current := some ⟨1, zeros 32, zeros 32, 0⟩ }
  lanes := [(0, { state := .enabled, sqLog := 6, cqLog := 6, incarnation := 1 }),
    (1, { state := .enabled, sqLog := 6, cqLog := 6, incarnation := 1, resultBase := 4096, strideLog := 9 })] }

/-- A package in operation, links up, with hamlet 0 granted to tenant 5 and hamlet 1 too. -/
def world : Ctl := {
  pkg := { life := .operating, phase := 8, deviceId := some 0x0040, mgmtKey := some (zeros 32) }
  portA := { linkUp := true, perst := false }, portB := { linkUp := true, perst := false }
  tenants := [(0, tenant5)], slices := [(0, slice0)]
  hamlets := [(0, { assign := .granted }), (1, { assign := .granted })]
  incarnations := 1 }

/-- A state of control `d`. -/
def at_ (d : Ctl) : State := { toCtl := d }

/-- An order in the mailbox of port HA. -/
def asks (d : Ctl) (op : Nat) (a : Bytes) : State :=
  at_ (modPort d .ha fun x => { x with mbx := {
    state := .submitted, opcode := BitVec.ofNat 16 op, argLen := a.length, arg := a.zipIdx.map fun e => (e.2, e.1) } })

/-- An envelope of the fabric manager on its I3C channel, tagged under the management key of `world`. -/
def envelope (d : Ctl) (op : Nat) (a : Bytes) : Envelope :=
  let e : Envelope := { channel := .fmRelay, cookie := 0, counter := 1, bootNonce := 0, args := a }
  { e with tag := gcmTag (zeros 32) (envNonce d 1 1) (requestBytes op e) [] }

theorem ready_of {s : State} {src : OrderSource} {op : Nat} {a : Bytes} {image : DmaResult}
    (h : orderReady s.toCtl src op a = true) : Ready s src op a (begun s.toCtl src op a image) image := ⟨h, rfl⟩

/-- An order of opcode `op` and arguments `a` in the mailbox of HA is ready, and its command runs in a state with `P`. -/
def Meets (d : Ctl) (op : Nat) (a : Bytes) (P : Ctl → Prop) : Prop :=
  ∃ b, Ready (asks d op a) (.pf .ha) op a b ∧ P b

/-- The same from the fabric manager's channel. -/
def MeetsF (d : Ctl) (op : Nat) (a : Bytes) (P : Ctl → Prop) : Prop :=
  ∃ b, Ready (at_ d) (.env (envelope d op a)) op a b ∧ P b

theorem meets_pf {d : Ctl} {op : Nat} {a : Bytes} {P : Ctl → Prop}
    (h : orderReady (asks d op a).toCtl (.pf .ha) op a = true ∧ P (begun (asks d op a).toCtl (.pf .ha) op a (.ok []))) :
    Meets d op a P := ⟨_, ready_of h.1, h.2⟩

/-- The tag of `envelope` is the one R429 asks for. -/
theorem envelopeOk_envelope {d : Ctl} {op : Nat} {a : Bytes} (hk : d.pkg.mgmtKey = some (zeros 32)) (hb : d.reeve.bootNonce = 0)
    (hc : d.reeve.fmCounter = none) : envelopeOk d op (envelope d op a) = true := by
  simp [envelopeOk, envelope, requestBytes, hk, hb, hc]

/-- What is left to see of `envelope`'s order: key, nonce and counter, and that nothing holds the order up. -/
def freeFor (d : Ctl) (op : Nat) (a : Bytes) : Bool :=
  d.pkg.mgmtKey == some (zeros 32) && d.reeve.bootNonce == 0 && d.reeve.fmCounter == none && reeveUp d && issuable d op 2 &&
    d.reeve.fmRelay.isNone && (winner d 2 op (orderObj op a)).isNone &&
    d.reeve.journal.all fun e => e.2.state == .done || !meets d e.2.obj (orderObj op a)

theorem meets_env {d : Ctl} {op : Nat} {a : Bytes} {P : Ctl → Prop}
    (h : freeFor d op a = true ∧ P (begun d (.env (envelope d op a)) op a (.ok []))) : MeetsF d op a P := by
  obtain ⟨h, hp⟩ := h
  simp only [freeFor, Bool.and_eq_true, beq_iff_eq] at h
  obtain ⟨⟨⟨⟨⟨⟨⟨hk, hb⟩, hc⟩, h1⟩, h2⟩, h3⟩, h4⟩, h5⟩ := h
  refine ⟨_, ⟨?_, rfl⟩, hp⟩
  simp only [orderReady, sourceHolds, at_, envelopeOk_envelope hk hb hc, Bool.and_eq_true]
  exact ⟨⟨⟨⟨h1, h2⟩, by simp [envelope, chanOrder, h3]⟩, h4⟩, h5⟩

/-- `world` with its slice 0 changed. -/
def withSlice (f : Slice → Slice) : Ctl := { world with slices := [(0, f slice0)] }

/-- `world` with its hamlet 0 changed. -/
def withHam (f : Hamlet → Hamlet) : Ctl := { world with hamlets := [(0, f { assign := .granted }), (1, { assign := .granted })] }

/-- `world` with its package changed. -/
def withPkg (f : Package → Package) : Ctl := { world with pkg := f world.pkg }

theorem length_leBytes : ∀ k n : Nat, (leBytes k n).length = k
  | 0, _ => rfl
  | k + 1, n => by simp [leBytes, length_leBytes k]

theorem length_gcmTag (k iv a c : Bytes) : (gcmTag k iv a c).length = 16 := by
  simp [gcmTag, length_xorBytes, length_aesBlock, beBytes, length_leBytes]

/-! ### Messages -/

/-- Road 0 is UP to package 1, whose hamlet 0 is tenant 5's too. -/
def roadWorld : Ctl := { world with
  roads := [(0, { state := .up, farPkg := 1, farRoad := 60 })], owners := [(0, 5), (1, 5), (32, 5)], tallyBlocks := [(0, 0)] }

/-- A message of tenant 5 from hamlet 0 of package 1 to hamlet 0 here, of class `c`. -/
def tenantMsg (c : BitVec 2) : RoadMsg := { cls := c, epoch := 1, tenant := 5, src := 32, dst := 0 }

/-- A CTRL message from package 1. -/
def ctrlMsg : RoadMsg := { cls := 3, epoch := 0, tenant := 0, src := 32800, dst := 32768 }

/-- A message whose data is in clear, sealed under the key of `world`, which is the road key of tenant 5 too. -/
def sealed (op : Nat) (m : RoadMsg) : RoadMsg :=
  let k := { m with data := gcmCrypt (zeros 32) (roadNonce m) m.data }
  { k with tag := gcmTag (zeros 32) (roadNonce m) (headAad op k) k.data }

/-- A message stands in the receive buffer of road 0. -/
def buffer (d : Ctl) (op : Nat) (m : RoadMsg) : Ctl := modRoad d 0 fun x => { x with rxFlits := msgFlits op m }

/-- The message stands there under its seal. -/
def buffered (d : Ctl) (op : Nat) (m : RoadMsg) : Ctl := buffer d op (sealed op m)

theorem takes_buffer {d : Ctl} {op : Nat} {m : RoadMsg} (h : roadUp (buffer d op m) 0 = true) : roadTakes (buffer d op m) 0 op m = true :=
  Bool.and_eq_true_iff.mpr ⟨h, by simp [arrived, buffer]⟩

/-- What is left to see of a sealed message on road 0: the checks of R229 but its tag. -/
def passes (d : Ctl) (op : Nat) (m : RoadMsg) : Bool :=
  let d := buffered d op m
  roadUp d 0 && !fromLost d 0 m && (relayRoad d 0 m).isNone && endPkg m.dst.toNat == pkgNum d && destOk d op m && epochOk d m &&
    messageKey d m == some (zeros 32) && !isDead d m && !isStale d m && !isDuplicate d 0 m

/-- The block once the message has left the receive buffer. -/
def landed (d : Ctl) (op : Nat) (m : RoadMsg) : Ctl := received (buffered d op m) 0 op (sealed op m)

theorem arrives {d : Ctl} {op : Nat} {m : RoadMsg} (h : passes d op m = true) :
    Arrives (at_ (buffered d op m)) 0 op (sealed op m) (sub m.data 0 m.len.toNat) (landed d op m) := by
  simp only [passes, Bool.and_eq_true, beq_iff_eq, Bool.not_eq_true', Option.isNone_iff_eq_none] at h
  obtain ⟨⟨⟨⟨⟨⟨⟨⟨⟨h1, h2⟩, h3⟩, h4⟩, h5⟩, h6⟩, h7⟩, h8⟩, h9⟩, h10⟩ := h
  have ho : openMsg (buffered d op m) op (sealed op m) = some m.data := by
    have hk : messageKey (buffered d op m) (sealed op m) = some (zeros 32) := h7
    simp only [openMsg, hk, Option.bind_some, gcmOpen]
    have ht : gcmTag (zeros 32) (roadNonce (sealed op m)) (headAad op (sealed op m)) (sealed op m).data = (sealed op m).tag := rfl
    rw [if_pos ht]
    exact congrArg some (gcmCrypt_gcmCrypt _ _ _)
  refine ⟨takes_buffer h1, h2, h3, ⟨m.data, ?_, rfl⟩, rfl⟩
  · have h4' : ¬ endPkg (sealed op m).dst.toNat ≠ pkgNum (buffered d op m) := fun h => h h4
    have h5' : destOk (buffered d op m) op (sealed op m) = true := h5
    have h6' : epochOk (buffered d op m) (sealed op m) = true := h6
    have h8' : isDead (buffered d op m) (sealed op m) = false := h8
    have h9' : isStale (buffered d op m) (sealed op m) = false := h9
    have h10' : isDuplicate (buffered d op m) 0 (sealed op m) = false := h10
    simp [receiveCheck, at_, if_neg h4', h5', h6', h8', h9', h10', ho]

/-- A message of opcode `op` arrives on road 0 with `P` of its data and of the block. -/
def MeetsR (d : Ctl) (op : Nat) (m : RoadMsg) (P : Bytes → Ctl → Prop) : Prop :=
  ∃ p e, Arrives (at_ (buffered d op m)) 0 op (sealed op m) p e ∧ P p e

theorem meets_road {d : Ctl} {op : Nat} {m : RoadMsg} {P : Bytes → Ctl → Prop}
    (h : passes d op m = true ∧ P (sub m.data 0 m.len.toNat) (landed d op m)) : MeetsR d op m P := ⟨_, _, arrives h.1, h.2⟩

/-! ### Witnesses: orders -/

theorem test_meets_order_reports :
    (∃ b, Ready (asks world 1 []) (.pf .ha) 1 [] b) ∧ (∃ b, Ready (asks world 2 []) (.pf .ha) 2 [] b) ∧
    (∃ a b, Ready (asks world 3 a) (.pf .ha) 3 a b ∧ badArgs a 8 [1, 2, 3] = false ∧ fld a 0 1 = 2) ∧
    (∃ a b, Ready (asks world 3 a) (.pf .ha) 3 a b ∧ badArgs a 8 [1, 2, 3] = false ∧ fld a 0 1 = 0) ∧
    (∃ a b, Ready (asks world 4 a) (.pf .ha) 4 a b ∧ a.length = 4) ∧
    (∃ a b, Ready (asks world 5 a) (.pf .ha) 5 a b ∧ a.length = 4) ∧
    (∃ a b, Ready (asks world 6 a) (.pf .ha) 6 a b ∧ badArgs a 8 [2, 3] = false) ∧
    (∃ a b e, Ready (asks world 7 a) (.pf .ha) 7 a b ∧ a.length = 4 ∧ Tbl.find? b.reeve.journal (fld a 0 4) = some e) ∧
    (∃ a b, Ready (asks world 7 a) (.pf .ha) 7 a b ∧ a.length = 4 ∧ Tbl.find? b.reeve.journal (fld a 0 4) = none) ∧
    (∃ a b, Ready (asks world 8 a) (.pf .ha) 8 a b ∧ a.length = 2 ∧ fld a 1 1 = 0xFF ∧ (getSlice b (fld a 0 1)).state ≠ .free) ∧
    (∃ a b, Ready (asks world 8 a) (.pf .ha) 8 a b ∧ a.length = 2 ∧ fld a 1 1 < 64 ∧ (getSlice b (fld a 0 1)).state ≠ .free ∧
      fld a 1 1 < (getSlice b (fld a 0 1)).laneLimit) :=
  ⟨⟨_, ready_of (by decide +kernel)⟩, ⟨_, ready_of (by decide +kernel)⟩,
   ⟨[2, 0, 0, 0, 0, 0, 0, 0], _, ready_of (by decide +kernel), by decide +kernel⟩,
   ⟨zeros 8, _, ready_of (by decide +kernel), by decide +kernel⟩,
   ⟨zeros 4, _, ready_of (by decide +kernel), rfl⟩, ⟨zeros 4, _, ready_of (by decide +kernel), rfl⟩,
   ⟨zeros 8, _, ready_of (by decide +kernel), by decide +kernel⟩,
   ⟨[1, 0, 0, 0], _, _, ready_of (by decide +kernel), rfl, rfl⟩,
   ⟨[9, 0, 0, 0], _, ready_of (by decide +kernel), rfl, by decide +kernel⟩,
   ⟨[0, 0xFF], _, ready_of (by decide +kernel), by decide +kernel⟩,
   ⟨[0, 1], _, ready_of (by decide +kernel), by decide +kernel⟩⟩

theorem test_meets_order_tenants :
    Meets world 0x0100 [6, 0, 0, 0, 4, 0, 0, 0] (fun b => tenantMaskBad [6, 0, 0, 0, 4, 0, 0, 0] = false ∧
      b.pkg.debugUnlocked = false ∧ tenantById b 6 = none ∧ (∀ h ∈ [2], (getHam b h).assign = .unassigned) ∧
      freeIndex b = some 1 ∧ freeWay b Tenant.wayDesc = some 1 ∧ freeWay b Tenant.wayAtc = some 1 ∧
      freeWay b Tenant.wayLane = some 1) ∧
    Meets world 0x0101 [5, 0] (fun b => identBad [5, 0] = false ∧ tenantById b 5 = some (0, tenant5) ∧ tenant5.state ≠ .removing) ∧
    Meets world 0x0102 [5, 0, 1, 0] (fun b => permitBad [5, 0, 1, 0] = false ∧ tenantById b 5 = some (0, tenant5) ∧
      tenant5.permitStrict = false ∧ overBooked b true = none) ∧
    Meets world 0x0102 [5, 0, 0, 2] (fun b => permitBad [5, 0, 0, 2] = false ∧ tenantById b 5 = some (0, tenant5)) ∧
    Meets { world with reservations := [(0, { cls := 0, reserved := false, hamlets := 0, slices := [0], tenant := 0, guarantees := [(0, 60000)] })] }
      0x0102 [5, 0, 1, 0] (fun b => tenantById b 5 = some (0, tenant5) ∧ overBooked b true = some 0) ∧
    Meets world 0x0103 [5, 0, 0, 0, 4, 0, 0, 0] (fun b => tenantMaskBad [5, 0, 0, 0, 4, 0, 0, 0] = false ∧
      tenantById b 5 = some (0, tenant5) ∧ (∀ h ∈ [2], (getHam b h).assign = .unassigned)) ∧
    Meets world 0x0104 [5, 0, 0, 0, 1, 0, 0, 0] (fun b => tenantMaskBad [5, 0, 0, 0, 1, 0, 0, 0] = false ∧
      tenantById b 5 = some (0, tenant5) ∧ (∀ h ∈ maskAt [5, 0, 0, 0, 1, 0, 0, 0] 4, (getHam b h).tenant = 0 ∧
        (getHam b h).assign ≠ .unassigned ∧ (getHam b h).reservedMode = false) ∧
      (∃ h ∈ keptHamlets b 0, h ∉ maskAt [5, 0, 0, 0, 1, 0, 0, 0] 4)) :=
  ⟨meets_pf (by decide +kernel), meets_pf (by decide +kernel), meets_pf (by decide +kernel), meets_pf (by decide +kernel),
   meets_pf (by decide +kernel), meets_pf (by decide +kernel), meets_pf (by decide +kernel)⟩

theorem test_meets_order_settings :
    Meets world 0x0106 [0, 1, 15, 0, 0, 0] (fun b => hamletConfigBad [0, 1, 15, 0, 0, 0] = false ∧ localUsed b 0 ≤ 15 * 524288 ∧
      (getHam b 0).remoteUsed ≤ (16 - 15) * 524288) ∧
    MeetsF world 0x0107 [0xFF, 3, 6, 0] (fun b => 1023 / 32 ≠ pkgNum b) ∧
    MeetsF world 0x0107 [32, 0, 0, 0] (fun b => 32 / 32 ≠ pkgNum b) ∧
    MeetsF world 0x0107 [31, 0, 0, 0] (fun b => 31 / 32 = pkgNum b) ∧
    Meets world 0x0108 [5, 0, 0, 0, 1, 0, 0, 0, 2, 0, 0, 0, 0, 0, 0, 0x80] (fun b =>
      badArgs [5, 0, 0, 0, 1, 0, 0, 0, 2, 0, 0, 0, 0, 0, 0, 0x80] 16 [2, 3] = false ∧ tenantById b 5 = some (0, tenant5) ∧
      (∀ e ∈ b.tenants, e.1 ≠ 0 → e.2.wayDesc &&& 1 = 0 ∧ e.2.wayAtc &&& 2 = 0 ∧ e.2.wayLane &&& 0x80000000 = 0)) ∧
    Meets world 0x0109 [5, 0, 0, 0, 1, 0, 0, 0] (fun b => tenantById b 5 = some (0, tenant5) ∧
      (∀ k ∈ maskAt [5, 0, 0, 0, 1, 0, 0, 0] 4, Tbl.find? b.tallyBlocks k = none)) ∧
    Meets { world with tallyBlocks := [(0, 0)] } 0x0109 [5, 0, 1, 0, 1, 0, 0, 0] (fun b => tenantById b 5 = some (0, tenant5) ∧
      (∀ k ∈ maskAt [5, 0, 1, 0, 1, 0, 0, 0] 4, Tbl.find? b.tallyBlocks k = some 0)) :=
  ⟨meets_pf (by decide +kernel), meets_env (by decide +kernel), meets_env (by decide +kernel), meets_env (by decide +kernel),
   meets_pf (by decide +kernel), meets_pf (by decide +kernel), meets_pf (by decide +kernel)⟩

/-- Arguments of MB_SLICE_CREATE: slice 1 of tenant 5, four lanes, on HA. -/
def createArgs : Bytes := [1, 4, 5, 0, 1, 4, 6, 0, 2, 0, 0, 0, 0, 0, 0, 0, 16, 0, 1, 0] ++ zeros 36

theorem test_meets_order_slices :
    Meets world 0x0200 createArgs (fun b => sliceCreateBad createArgs = false ∧ laneSum b + fld createArgs 1 1 ≤ 4096 ∧
      (getSlice b 1).state = .free ∧ portTaken b .ha (portArgs createArgs false) = false ∧ bitOf (fld createArgs 4 1) 1 = false ∧
      tenantById b 5 = some (0, tenant5)) ∧
    Meets world 0x0201 [0] (fun b => (getSlice b 0).state ≠ .free) ∧
    Meets world 0x0202 [0] (fun b => (getSlice b 0).state = .active) ∧
    Meets (withSlice fun s => { s with state := .portLost }) 0x0202 [0] (fun b => (getSlice b 0).state = .portLost ∧
      boundOn (getSlice b 0) .ha = true ∧ (getPort b .ha).linkUp = true) ∧
    Meets world 0x0203 [0, 1] (fun b => dualHomed (getSlice b 0) = true ∧ (getPort b (portOf 1)).linkUp = true) ∧
    Meets world 0x0204 ([0, 1, 0, 1] ++ zeros 16) (fun b => sliceSchedBad ([0, 1, 0, 1] ++ zeros 16) = false ∧
      (getSlice b 0).state ≠ .free) ∧
    Meets world 0x0205 ([0, 16, 32, 0] ++ zeros 12) (fun b => sliceRateBad ([0, 16, 32, 0] ++ zeros 12) = false ∧
      fastUnfit (modSlice b 0 (rateSlice b ([0, 16, 32, 0] ++ zeros 12))) 0 = false) ∧
    Meets { world with slices := [(0, slice0), (1, slice0)] } 0x0205 ([0, 16, 32, 0] ++ zeros 12) (fun b =>
      fastUnfit (modSlice b 0 (rateSlice b ([0, 16, 32, 0] ++ zeros 12))) 0 = true) :=
  ⟨meets_pf (by decide +kernel), meets_pf (by decide +kernel), meets_pf (by decide +kernel), meets_pf (by decide +kernel),
   meets_pf (by decide +kernel), meets_pf (by decide +kernel), meets_pf (by decide +kernel), meets_pf (by decide +kernel)⟩

/-- Arguments of MB_ALMANAC_WRITE: one POOL entry of 100 µs in hamlet 0. -/
def almanacArgs : Bytes := [0, 1] ++ zeros 14 ++ [100, 0, 0, 0, 2, 0]

/-- Arguments of MB_RESV_CREATE: reservation 0 with slice 0 of tenant 5. -/
def resvArgs : Bytes := [0, 0, 0, 1] ++ zeros 20 ++ [5, 0] ++ zeros 82

theorem test_meets_order_roads :
    Meets world 0x0300 almanacArgs (fun b => almanacBad almanacArgs = false ∧
      (∀ e ∈ argEntries almanacArgs, foreignEntry b 0 e = false)) ∧
    Meets world 0x0301 resvArgs (fun b => resvBad resvArgs = false ∧ tenantById b 5 = some (0, tenant5) ∧
      resvRefusal b 0 5 (argResv b resvArgs 0) = none ∧
      overBooked { b with reservations := Tbl.set b.reservations 0 (argResv b resvArgs 0) }
        (anyStrict { b with reservations := Tbl.set b.reservations 0 (argResv b resvArgs 0) }) = none ∧
      weightsDeliver { b with reservations := Tbl.set b.reservations 0 (argResv b resvArgs 0) } = true) ∧
    (∃ v, Meets { world with reservations := [(63, v)] } 0x0302 [63] (fun b => resvNumBad [63] = false ∧ Tbl.find? b.reservations 63 = some v) ∧
      Meets { world with reservations := [(63, v)] } 0x0303 [63] (fun b => Tbl.find? b.reservations 63 = some v)) ∧
    Meets { world with roads := [(63, { state := .disabled })] } 0x0400 [63] (fun b => roadNumBad [63] = false ∧
      (getRoad b 63).state = .disabled) ∧
    Meets world 0x0401 [0] (fun _ => roadNumBad [0] = false) ∧
    Meets world 0x0402 ([0xFF, 0, 16] ++ zeros 31) (fun b =>
      roadWeightBad (takenFrom (asks world 0x0402 ([0xFF, 0, 16] ++ zeros 31)).toCtl 0x0402 (.pf .ha)) ([0xFF, 0, 16] ++ zeros 31) = false ∧
      weightsDeliver (setWeights b ([0xFF, 0, 16] ++ zeros 31)) = true) :=
  ⟨meets_pf (by decide +kernel), meets_pf (by decide +kernel),
   ⟨{ cls := 0, reserved := false, hamlets := 0, slices := [0], tenant := 0 }, meets_pf (by decide +kernel), meets_pf (by decide +kernel)⟩,
   meets_pf (by decide +kernel), meets_pf (by decide +kernel), meets_pf (by decide +kernel)⟩

theorem test_meets_order_time :
    Meets world 0x0500 [3, 1, 0xFF] (fun _ =>
      timeRoleBad (takenFrom (asks world 0x0500 [3, 1, 0xFF]).toCtl 0x0500 (.pf .ha)) [3, 1, 0xFF] = false) ∧
    Meets world 0x0501 ([1, 2] ++ zeros 22) (fun _ => timeConfigBad ([1, 2] ++ zeros 22) = false) ∧
    Meets world 0x0502 (zeros 16) (fun b => badArgs (zeros 16) 16 [1, 2, 3, 4, 5, 6, 7] = false ∧ b.time.state = .unset ∧
      follows b.time = false) ∧
    Meets world 0x0502 ([1] ++ zeros 15) (fun b => badArgs ([1] ++ zeros 15) 16 [1, 2, 3, 4, 5, 6, 7] = false ∧
      b.time.state = .unset ∧ follows b.time = false) ∧
    Meets { world with time := { state := .locked } } 0x0502 (zeros 16) (fun b => b.time.state ≠ .unset ∧ b.time.state ≠ .freerun) :=
  ⟨meets_pf (by decide +kernel), meets_pf (by decide +kernel), meets_pf (by decide +kernel), meets_pf (by decide +kernel),
   meets_pf (by decide +kernel)⟩

/-- A job of slice 0, in slot 0. -/
def job3 : Job := { ident := 3, gen := 1, abort := true, slices := [0] }

theorem test_meets_order_recovery :
    Meets world 0x0600 [1] (fun _ => fld [1] 0 1 ≤ 1) ∧
    Meets world 0x0601 ([1, 64] ++ zeros 17) (fun _ => recoverySetBad ([1, 64] ++ zeros 17) = false) ∧
    Meets world 0x0105 [1] (fun b => (getHam b 1).assign ≠ .unassigned ∧ (getHam b 1).assign ≠ .releasing ∧
      (getHam b 1).outOfService = false) ∧
    Meets world 0x0602 [0] (fun b => b.pkg.life = .operating ∧ b.pkg.fullJseq = 0) ∧
    Meets world 0x0602 [1] (fun _ => fld [1] 0 1 = 1) ∧
    Meets world 0x0602 [2] (fun b => b.pkg.fullJseq = 0) ∧
    Meets (withHam fun x => { x with outOfService := true }) 0x0603 [0, 0] (fun b => (getHam b 0).outOfService = true ∧
      unfit (getHam b 0) = false) ∧
    Meets (withPkg fun k => { k with outOfService := true }) 0x0603 [1, 0] (fun b => b.pkg.outOfService = true) ∧
    MeetsF world 0x0604 ([3, 0, 1, 1, 1] ++ zeros 31) (fun b => jobClash b ([3, 0, 1, 1, 1] ++ zeros 31) = false ∧
      jobSlot b 3 = some 0) ∧
    MeetsF { world with jobs := [(0, job3)] } 0x0605 [3, 0, 1] (fun b => jobById b 3 = some (0, job3)) ∧
    MeetsF { world with jobs := [(0, job3)] } 0x0606 [3, 0] (fun b => jobById b 3 = some (0, job3) ∧ jobBusy b 3 = false) :=
  ⟨meets_pf (by decide +kernel), meets_pf (by decide +kernel), meets_pf (by decide +kernel), meets_pf (by decide +kernel),
   meets_pf (by decide +kernel), meets_pf (by decide +kernel), meets_pf (by decide +kernel), meets_pf (by decide +kernel),
   meets_env (by decide +kernel), meets_env (by decide +kernel), meets_env (by decide +kernel)⟩

theorem test_meets_order_migration :
    Meets world 0x0700 [0] (fun b => mayFreeze b 0 = true) ∧
    Meets (withSlice fun s => { s with state := .frozen }) 0x0701 (zeros 24) (fun b => migSaveBad (zeros 24) = false ∧
      migReady b 0 0 = true ∧ completionsWritten b 0 = true ∧ (imageOf [] b 0 []).isSome = true ∧ transientShort b 0 true = none) ∧
    Meets (withSlice fun s => { s with state := .frozen, lanes := [] }) 0x0702 ([0, 0, 1] ++ zeros 23) (fun b =>
      migRestoreBad ([0, 0, 1] ++ zeros 23) = false ∧ migReady b 0 0 = true ∧ hasComputeLane (getSlice b 0) = false ∧
      completionsWritten b 0 = true ∧ (∀ p ∈ migPairs ([0, 0, 1] ++ zeros 23), grantedTo b 0 p.2 = true) ∧
      transientShort b 0 false = none) ∧
    Meets (withSlice fun s => { s with state := .frozen }) 0x0703 [0] (fun b => (getSlice b 0).state = .frozen ∧
      (getSlice b 0).proc = none ∧ (getSlice b 0).saved = false) ∧
    Meets (withSlice fun s => { s with state := .frozen, saved := true }) 0x0703 [0] (fun b => (getSlice b 0).state = .frozen ∧
      (getSlice b 0).proc = none ∧ (getSlice b 0).arm ≠ none) :=
  ⟨meets_pf (by decide +kernel), meets_pf (by decide +kernel), meets_pf (by decide +kernel), meets_pf (by decide +kernel),
   meets_pf (by decide +kernel)⟩

/-- Arguments of MB_CHARTER_WRITE that clear the record of tag 1. -/
def charterArgs : Bytes := [4, 0, 0, 0, 1, 0, 0xFF, 0xFF]

theorem test_meets_order_provisioning :
    Meets world 0x0800 ([3] ++ zeros 7) (fun _ => badArgs ([3] ++ zeros 7) 8 [1, 2, 3] = false) ∧
    Meets world 0x0801 charterArgs (fun b => charterWriteBad charterArgs = false ∧ charterSeq b.pkg + 1 < 2 ^ 32) ∧
    Meets world 0x0802 ([1] ++ zeros 15 ++ [0, 0, 0x80, 0]) (fun b =>
      badArgs ([1] ++ zeros 15 ++ [0, 0, 0x80, 0]) 20 [1, 2, 3, 4, 5, 6, 7] = false ∧
      fld ([1] ++ zeros 15 ++ [0, 0, 0x80, 0]) 16 4 ≤ 8 * 2 ^ 20 ∧ (getPort b .hb).linkUp = true) ∧
    Meets world 0x0803 [] (fun _ => True) ∧
    Meets { world with tenants := [], slices := [], hamlets := [] } 0x0805 (zeros 128) (fun b => b.tenants = []) ∧
    Meets world 0x0804 [] (fun _ => True) :=
  ⟨meets_pf (by decide +kernel), meets_pf (by decide +kernel), meets_pf (by decide +kernel), meets_pf ⟨by decide +kernel, trivial⟩,
   meets_pf (by decide +kernel), meets_pf ⟨by decide +kernel, trivial⟩⟩

/-- `roadWorld` with its hamlet 0 changed. -/
def roadHam (f : Hamlet → Hamlet) : Ctl := { roadWorld with hamlets := [(0, f { assign := .granted }), (1, { assign := .granted })] }

/-- A hamlet with one READ_WRITE window over its first page. -/
def windowed (x : Hamlet) : Hamlet := { x with windows := [(0, { base := 0, limit := 4095, perm := 2 })] }

/-- A set of hamlet 0 of package 1, under tag 9. -/
def set9 : StagedSet := { src := 32, ttag := 9, dest := 0, tenant := 0, granted := 128 }

def reset1 : HamletReset := { jseq := 1, start := 0, fault := false, reason := 0 }

theorem test_meets_road_requests :
    MeetsR (roadHam windowed) 0x01 { tenantMsg 0 with addr := 3072, len := 1024 } (fun _ e => resetting e 0 = false ∧
      accessOk e { tenantMsg 0 with addr := 3072, len := 1024 } false = true ∧ isPoisoned [] 0 3072 1024 = false) ∧
    MeetsR (roadHam fun x => { windowed x with sets := [{ set9 with granted := 4 }] }) 0x02
      { tenantMsg 0 with addr := 64, len := 4, operand := 9, data := zeros 4 } (fun p e => resetting e 0 = false ∧
      accessOk e { tenantMsg 0 with addr := 64, len := 4, operand := 9, data := zeros 4 } true = true ∧
      findSet e 0 32 9 = some { set9 with granted := 4 } ∧ setUsed set9 + p.length ≤ 4) ∧
    MeetsR roadWorld 0x21 { tenantMsg 2 with len := 1048576 } (fun _ e => resetting e 0 = false ∧ 1048576 ≤ remoteBytes (getHam e 0) ∧
      canGrant (getHam e 0) 1048576 = true) ∧
    MeetsR (roadHam fun x => { x with remoteUsed := 1 }) 0x21 { tenantMsg 2 with len := 1048576 } (fun _ e =>
      1048576 ≤ remoteBytes (getHam e 0) ∧ canGrant (getHam e 0) 1048576 = false) ∧
    MeetsR (roadHam fun x => { x with reset := some reset1 }) 0x21 { tenantMsg 2 with len := 1 } (fun _ e => resetting e 0 = true) ∧
    MeetsR roadWorld 0x22 (tenantMsg 2) (fun _ _ => True) ∧
    MeetsR (roadHam fun x => { x with reset := some reset1 }) 0x01 (tenantMsg 0) (fun _ e => resetting e 0 = true) ∧
    MeetsR (roadHam windowed) 0x01 { tenantMsg 0 with addr := 3072, len := 1025 } (fun _ e => resetting e 0 = false ∧
      accessOk e { tenantMsg 0 with addr := 3072, len := 1025 } false = false) ∧
    MeetsR (roadHam fun x => { x with reset := some reset1 }) 0x02 (tenantMsg 0) (fun _ e => resetting e 0 = true) ∧
    MeetsR (roadHam windowed) 0x02 { tenantMsg 0 with addr := 4093, len := 4 } (fun _ e => resetting e 0 = false ∧
      accessOk e { tenantMsg 0 with addr := 4093, len := 4 } true = false) ∧
    MeetsR (roadHam fun x => { windowed x with sets := [{ set9 with granted := 3 }] }) 0x02
      { tenantMsg 0 with addr := 64, len := 4, operand := 9, data := zeros 4 } (fun p e => resetting e 0 = false ∧
      accessOk e { tenantMsg 0 with addr := 64, len := 4, operand := 9, data := zeros 4 } true = true ∧
      findSet e 0 32 9 = some { set9 with granted := 3 } ∧ 3 < setUsed set9 + p.length) ∧
    MeetsR roadWorld 0x21 { tenantMsg 2 with len := 1048577 } (fun _ e => remoteBytes (getHam e 0) < 1048577) ∧
    MeetsR (roadHam fun x => { x with reset := some reset1 }) 0x25 (tenantMsg 2) (fun _ e => endIsHearth 0 = false ∧
      resetting e 0 = true) :=
  ⟨meets_road (by decide +kernel), meets_road (by decide +kernel), meets_road (by decide +kernel), meets_road (by decide +kernel),
   meets_road (by decide +kernel), meets_road ⟨by decide +kernel, trivial⟩, meets_road (by decide +kernel),
   meets_road (by decide +kernel), meets_road (by decide +kernel), meets_road (by decide +kernel), meets_road (by decide +kernel),
   meets_road (by decide +kernel), meets_road (by decide +kernel)⟩

theorem test_meets_road_sets_end :
    MeetsR (roadHam fun x => { x with sets := [set9] }) 0x23 { tenantMsg 2 with ttag := 9 } (fun _ e => endIsHearth 0 = false ∧
      findSet e 0 32 9 = some set9) ∧
    MeetsR roadWorld 0x23 { tenantMsg 2 with ttag := 9 } (fun _ e => findSet e 0 32 9 = none) ∧
    MeetsR roadWorld 0x23 { tenantMsg 2 with ttag := 9, dst := 32768 } (fun _ _ => endIsHearth 32768 = true) ∧
    MeetsR roadWorld 0x24 (tenantMsg 2) (fun _ _ => endIsHearth 0 = false) ∧
    MeetsR roadWorld 0x24 { tenantMsg 2 with dst := 32768 } (fun _ _ => endIsHearth 32768 = true) ∧
    MeetsR roadWorld 0x24 { tenantMsg 2 with operand := 1 } (fun _ _ => (1 : W64).getLsbD 0 = true) :=
  ⟨meets_road (by decide +kernel), meets_road (by decide +kernel), meets_road (by decide +kernel), meets_road (by decide +kernel),
   meets_road (by decide +kernel), meets_road (by decide +kernel)⟩

/-- A claim of slice 0 of package 1 in generation 0, command-scoped to context 0. -/
def owner1 : Owner := { pkg := 1, slice := 0, context := 0, gen := 0 }

/-- A tally message of tenant 5 with operand `v`, for the set under tag 9. -/
def tallyMsg (v : W64) : RoadMsg := { tenantMsg 2 with operand := v, len := 9 }

/-- A TALLY_OP of release to Hearth tally 0. -/
def releaseMsg : RoadMsg := { tenantMsg 2 with dst := 32768, addr := 0x80000000, operand := 0x700000000 }

theorem test_meets_road_tallies :
    MeetsR roadWorld 0x25 (tallyMsg 0) (fun _ e => ((tenantById e 5).map Prod.fst).getD 32 = 0 ∧ tallyNamed 0 = true ∧ tallyEndpoint 0 = 0 ∧
      operandOp 0 = some .read ∧ tallyOpen e 0 0 = true ∧ resetting e 0 = false ∧
      (tallyAt e 0 .read 0 (msgOwner (tallyMsg 0)) (remoteWaiter (tallyMsg 0))).1 = some (.value 0)) ∧
    MeetsR (roadHam fun x => { windowed x with sets := [{ set9 with granted := 64 }] }) 0x25 (tallyMsg 0x300000001) (fun _ e =>
      operandOp 0x300000001 = some .add ∧ tallyOpen e 0 0 = true ∧ resetting e 0 = false ∧
      (tallyAt e 0 .add 1 (msgOwner (tallyMsg 0x300000001)) (remoteWaiter (tallyMsg 0x300000001))).1 = none ∧
      effectOf .add 1 = some (.add 1) ∧ (stageRemote e (tallyMsg 0x300000001) 0 0 (.add 1)).isSome = true) ∧
    MeetsR (roadHam fun x => { windowed x with sets := [{ set9 with granted := 63 }] }) 0x25 (tallyMsg 0x300000001) (fun _ e =>
      (tallyAt e 0 .add 1 (msgOwner (tallyMsg 0x300000001)) (remoteWaiter (tallyMsg 0x300000001))).1 = none ∧
      tallyOpen e 0 0 = true ∧ stageRemote e (tallyMsg 0x300000001) 0 0 (.add 1) = none) ∧
    MeetsR { roadWorld with tallies := [(2 ^ 31, { claimMode := true, claim := .claimed, owner := some owner1 })] } 0x25
      releaseMsg (fun _ e => syncTally releaseMsg = 2 ^ 31 ∧ tallyNamed (2 ^ 31) = true ∧ operandOp releaseMsg.operand = some .release ∧
      tallyEndpoint (2 ^ 31) = 32768 ∧ endIsHearth 32768 = true ∧ tallyOpen e 0 (2 ^ 31) = true ∧
      (tallyAt e (2 ^ 31) .release 0 (msgOwner releaseMsg) (remoteWaiter releaseMsg)).1 = some .owner ∧
      (stageRemote e releaseMsg (2 ^ 31) 0 .release).isSome = true) ∧
    MeetsR roadWorld 0x26 (tallyMsg 0x100000000) (fun _ e => operandOp 0x100000000 = some .waitGe ∧
      tallyOpen (reply e (tallyMsg 0x100000000) 0x17 0 0 []) 0 0 = true ∧
      (tallyAt (reply e (tallyMsg 0x100000000) 0x17 0 0 []) 0 .waitGe 0 owner1 (remoteWaiter (tallyMsg 0x100000000))).1 = none) ∧
    MeetsR roadWorld 0x26 (tallyMsg 0) (fun _ e => operandOp 0 = some .read ∧
      tallyOpen (reply e (tallyMsg 0) 0x17 0 0 []) 0 0 = true ∧
      (tallyAt (reply e (tallyMsg 0) 0x17 0 0 []) 0 .read 0 owner1 (remoteWaiter (tallyMsg 0))).1 = some (.value 0)) ∧
    MeetsR roadWorld 0x0F (tenantMsg 2) (fun _ _ => operandOp 0 = some .read ∧ tallyNamed 0 = true ∧ tallyEndpoint 0 = 0) :=
  ⟨meets_road (by decide +kernel), meets_road (by decide +kernel), meets_road (by decide +kernel), meets_road (by decide +kernel),
   meets_road (by decide +kernel), meets_road (by decide +kernel), meets_road (by decide +kernel)⟩

/-- `roadWorld` with one request of command 0 in hamlet 0, under tag 9. -/
def asked (op : Nat) : Ctl := { roadWorld with
  requests := [{ hamlet := 0, ttag := 9, cmd := 0, inst := 0, peer := 1, opcode := op, time := 0 }]
  cmds := [(0, { slice := 0, lane := 1, seq := 0, gen := 0 })] }

/-- The request of `asked`. -/
def request9 (op : Nat) : Request := { hamlet := 0, ttag := 9, cmd := 0, inst := 0, peer := 1, opcode := op, time := 0 }

theorem test_meets_road_answers :
    (∀ k ∈ [(0x11, 0x01), (0x12, 0x02), (0x12, 0x25), (0x13, 0x23), (0x14, 0x21), (0x15, 0x21), (0x18, 0x01)],
      MeetsR (asked k.2) k.1 { tenantMsg 1 with ttag := 9 } fun _ e =>
        requestFor e { tenantMsg 1 with ttag := 9 } = some (request9 k.2)) ∧
    MeetsR (asked 0x25) 0x16 { tenantMsg 1 with ttag := 9 } (fun _ e =>
      requestFor e { tenantMsg 1 with ttag := 9 } = some (request9 0x25) ∧ operandOp (request9 0x25).operand = some .read) ∧
    MeetsR (roadHam fun x => { x with sets := [{ set9 with discardSent := true }] }) 0x17 { tenantMsg 1 with ttag := 9 } (fun _ e =>
      ((getHam e 0).sets.find? fun y => y.src == 32 && y.ttag == 9 && y.discardSent) = some { set9 with discardSent := true }) ∧
    MeetsR (asked 0x26) 0x17 { tenantMsg 1 with ttag := 9 } (fun _ e =>
      ((getHam e 0).sets.find? fun y => y.src == 32 && y.ttag == 9 && y.discardSent) = none ∧
      requestFor e { tenantMsg 1 with ttag := 9 } = some (request9 0x26)) ∧
    MeetsR (asked 0x26) 0x27 { tenantMsg 2 with ttag := 9 } (fun _ e =>
      ((reply e { tenantMsg 2 with ttag := 9 } 0x17 0 0 []).requests.find? fun q => q.hamlet == 0 && q.ttag == 9 && q.opcode == 0x26)
        = some (request9 0x26)) ∧
    MeetsR roadWorld 0x27 { tenantMsg 2 with ttag := 9 } (fun _ e =>
      ((reply e { tenantMsg 2 with ttag := 9 } 0x17 0 0 []).requests.find? fun q => q.hamlet == 0 && q.ttag == 9 && q.opcode == 0x26) = none) ∧
    MeetsR (roadHam fun x => { x with retiredTtags := [(9, 0)] }) 0x11 { tenantMsg 1 with ttag := 9 } (fun _ e =>
      requestFor e { tenantMsg 1 with ttag := 9 } = none ∧ (Tbl.find? (getHam e 0).retiredTtags 9).isSome = true) ∧
    MeetsR roadWorld 0x11 { tenantMsg 1 with ttag := 9 } (fun _ e => requestFor e { tenantMsg 1 with ttag := 9 } = none ∧
      Tbl.find? (getHam e 0).retiredTtags 9 = none) :=
  ⟨fun k hk => meets_road (by revert k; decide +kernel), meets_road (by decide +kernel), meets_road (by decide +kernel), meets_road (by decide +kernel),
   meets_road (by decide +kernel), meets_road (by decide +kernel), meets_road (by decide +kernel), meets_road (by decide +kernel)⟩

/-- A barrier that awaits package 1. -/
def barrier1 : Barrier := { kind := 0, gen := 2, awaited := [1], start := 0 }

theorem test_meets_road_epochs :
    MeetsR roadWorld 0x31 { ctrlMsg with operand := 0x500000002 } (fun _ e =>
      epochTenant e { ctrlMsg with operand := 0x500000002 } = some (0, tenant5) ∧ tenant5.state = .claimed ∧
      (∀ k ∈ tenant5.roadCur.toList ++ tenant5.roadPrev.toList, k.gen ≠ 2)) ∧
    MeetsR roadWorld 0x31 { ctrlMsg with operand := 0x500000001 } (fun _ e =>
      epochTenant e { ctrlMsg with operand := 0x500000001 } = some (0, tenant5) ∧
      ∃ k ∈ tenant5.roadCur.toList ++ tenant5.roadPrev.toList, k.gen = 1) ∧
    MeetsR roadWorld 0x32 { ctrlMsg with operand := 0x500000001 } (fun _ e =>
      epochTenant e { ctrlMsg with operand := 0x500000001 } = some (0, tenant5) ∧ (0x500000001 : W64).getLsbD 48 = false) ∧
    MeetsR roadWorld 0x32 { ctrlMsg with operand := 0x1000500000001 } (fun _ e =>
      epochTenant e { ctrlMsg with operand := 0x1000500000001 } = some (0, tenant5) ∧ (0x1000500000001 : W64).getLsbD 48 = true) ∧
    MeetsR { roadWorld with tenants := [(0, { tenant5 with barrier := some barrier1 })] } 0x33
      { ctrlMsg with operand := 0x500000002, len := 16 } (fun _ e =>
      epochTenant e { ctrlMsg with operand := 0x500000002, len := 16 } = some (0, { tenant5 with barrier := some barrier1 }) ∧
      barrier1.awaited.contains 1 = true ∧ (16 : W32) = barrierMark barrier1) :=
  ⟨meets_road (by decide +kernel), meets_road (by decide +kernel), meets_road (by decide +kernel), meets_road (by decide +kernel),
   meets_road (by decide +kernel)⟩

theorem test_meets_road_control :
    (∀ op ∈ [0x34, 0x35, 0x36, 0x37, 0x38, 0x3C], MeetsR roadWorld op ctrlMsg fun _ _ => True) ∧
    MeetsR { roadWorld with roads := [(0, { state := .up, replayPending := true })] } 0x39 { ctrlMsg with operand := 0x100000007 } (fun _ e =>
      (getRoad e 0).replayPending = true ∧ roadPeer (pkgNum e) 0 = 1) ∧
    MeetsR { roadWorld with time := { role := .leader } } 0x3A ctrlMsg (fun _ e => e.time.role = .leader) ∧
    MeetsR roadWorld 0x3A ctrlMsg (fun _ e => e.time.role ≠ .leader) ∧
    MeetsR { roadWorld with time := { role := .follower, leader := 1, probe := some (7, 0) } } 0x3B { ctrlMsg with addr := 7 } (fun _ e =>
      follows e.time = true ∧ 1 = timeLeader e ∧ e.time.probe = some (7, e.time.steps)) ∧
    MeetsR { roadWorld with time := { role := .follower, leader := 1, probe := some (7, 1) } } 0x3B { ctrlMsg with addr := 7 } (fun _ e =>
      e.time.probe = some (7, 1) ∧ (1 : Byte) ≠ e.time.steps) :=
  ⟨fun op h => meets_road ⟨by revert op; decide +kernel, trivial⟩, meets_road (by decide +kernel), meets_road (by decide +kernel),
   meets_road (by decide +kernel), meets_road (by decide +kernel), meets_road (by decide +kernel)⟩

/-! ### Witnesses: registers, mailboxes, lanes -/

theorem test_meets_register_reads :
    barUp world (.bar2 0x48) = true ∧ livePair world (.port .ha) (.bar2 0x48) 0x48 = some 0 ∧
    getShadow (setShadow world (.port .hb) (.bar2 0x4C) (0x48, 5)) (.port .hb) (.bar2 0x4C) = some (0x4C - 4, 5) ∧
    livePair (setShadow world (.port .hb) (.bar2 0x4C) (0x48, 5)) (.port .hb) (.bar2 0x4C) 0x48 = some 0 ∧
    getShadow world .reeve (.bar2 0x4C) = none ∧ livePair world .reeve (.bar2 0x4C) 0x48 = some 0 ∧
    addrOff (.bar2 0x48) % 8 = 0 ∧ addrOff (.bar2 0x4C) % 8 = 4 ∧ barUp world (.bar2 0x4C) = true ∧
    goodAccess (addrOff (.bar2 0x49)) 4 = false ∧ goodAccess (addrOff (.bar2 0x48)) 2 = false ∧ barUp world (.bar2 0x49) = true := by
  decide +kernel

theorem test_meets_register_writes :
    world.pkg.life = .operating ∧ goodAccess 0x54 4 = true ∧ counterAt world (0x54 - 0x54 % 8) = some 0 ∧
    goodAccess 0x36 4 = false ∧ (Tbl.getD (getPort world .ha).msix (0x7FF8 / 16) {}).masked = true ∧
    (0x7FF8 : BitVec 16).toNat % 16 = 8 ∧ (0x7FF8 : BitVec 16).toNat < 0x8000 := by decide +kernel

theorem test_meets_mailboxes :
    bar2Up world = true ∧
    (getPort (modPort world .ha fun x => { x with mbx := { x.mbx with state := .responded } }) .ha).mbx.state = .responded ∧
    (getPort world .ha).mbx.state ≠ .responded ∧
    (getWide (modWide world (.port .ha) fun _ => { valid := true }) (.port .ha)).valid = true ∧
    (getWide world .reeve).valid = false ∧ (getWide world .reeve).req = false ∧
    (snapshot (modWide world .reeve fun w => { w with req := true, selector := 1, index := 31 }) 1 31).isSome = true ∧
    snapshot (modWide world (.port .ha) fun w => { w with req := true, selector := 1, index := 32 }) 1 32 = none ∧
    (snapshot (modWide (modWide world (.port .ha) fun _ => { req := true, valid := true, selector := 2, index := 63 }) (.port .ha)
      fun w => { w with valid := false, words := [] }) 2 63).isSome = true := by decide +kernel

theorem test_meets_ledger :
    bar2Up world = true ∧ world.ledger.commitSeq.toNat = world.ledger.cfgSeq ∧
    ({ commitSeq := 1 } : Ledger).commitSeq.toNat ≠ ({} : Ledger).cfgSeq ∧
    ((0x3FFFF : W32) &&& 0xFFFFC#32).toNat < 0x40000 ∧ 0x7FFFF < ((0x80000 : W32) &&& 0xFFFFC#32).toNat ∧
    0x40000 ≤ ((0x40000 : W32) &&& 0xFFFFC#32).toNat ∧ ((0x7FFFF : W32) &&& 0xFFFFC#32).toNat ≤ 0x7FFFF ∧
    ldgBase world.ledger 0 ≠ (0x7FFFF : W32) &&& 0xFFFFC#32 ∧
    ({ cfgSeq := 1, pass := some (0, 7) } : Ledger).pass = some (0, 7) ∧
    ({ pass := some (0, 7), capturing := true } : Ledger).pass = some (({} : Ledger).cfgSeq, 7) ∧
    ({ pass := some (0, 7), state := 1, reference := 7 } : Ledger).reference = 7 ∧
    (7 : W32) ≠ ({ pass := some (0, 7), state := 1, reference := 8 } : Ledger).reference := by decide +kernel

theorem test_meets_lane_pointers :
    lanesUp world = true ∧ windowLive world 0 1 = true ∧ boundOn (getSlice world 0) .hb = true ∧
    (getSlice world 0).state = .active ∧ (getLane world 0 1).state = .enabled ∧ (63 : W32).toNat < sqSize (getLane world 0 1) ∧
    (63 : W32).toNat ≠ (getLane world 0 1).sqTail ∧ sqSize (getLane world 0 1) ≤ (64 : W32).toNat ∧
    windowOn world (.port .hb) 0 = true ∧
    (0 + cqSize (getLane world 0 1) - (getLane world 0 1).cqHead) % cqSize (getLane world 0 1) ≤ (getLane world 0 1).unconsumed ∧
    (getLane world 0 1).unconsumed < (63 + cqSize (getLane world 0 1) - (getLane world 0 1).cqHead) % cqSize (getLane world 0 1) ∧
    cqSize (getLane world 0 1) ≤ (64 : W32).toNat % 65536 := by decide +kernel

/-! ### Witnesses: admin commands -/

/-- Command 0 of slice 0: an admin command of opcode `op` with operands `raw`, in the journal's step 1. -/
def adminCmd (op : Byte) (raw : Bytes) : Cmd :=
  { slice := 0, lane := 0, seq := 0, gen := 0, phase := .admin, opcode := op, raw := raw, resultCap := 320, jseq := 1 }

/-- The same with a result buffer of `cap` bytes. -/
def adminCap (op : Byte) (raw : Bytes) (cap : Nat) : Cmd := { adminCmd op raw with resultCap := cap }

/-- `d` with command `k` in place 0. -/
def holds0 (d : Ctl) (k : Cmd) : Ctl := { d with cmds := (0, k) :: d.cmds }

/-- An admin command passes its checks 5 and 6, and runs in a state with `P`. -/
def MeetsA (d : Ctl) (check : Ctl → Cmd → Option Status) (k : Cmd) (P : Ctl → Prop) : Prop :=
  ∃ b, AdminRuns (at_ (holds0 d k)) 0 k.opcode check k b ∧ P b

theorem meets_admin {d : Ctl} {check : Ctl → Cmd → Option Status} {k : Cmd} {P : Ctl → Prop}
    (h : adminReady (holds0 d k) 0 k.opcode = some k ∧ check (beginOrder (holds0 d k) k.jseq) k = none ∧
      (check6 (beginOrder (holds0 d k) k.jseq) k).isSome = true ∧ P ((check6 (beginOrder (holds0 d k) k.jseq) k).getD d)) :
    MeetsA d check k P := by
  obtain ⟨h1, h2, h3, h4⟩ := h
  obtain ⟨b, hb⟩ := Option.isSome_iff_exists.mp h3
  rw [hb] at h4
  exact ⟨b, ⟨h1, h2, hb⟩, h4⟩

/-- An admin command starts in a state with `P`. -/
def MeetsS (d : Ctl) (k : Cmd) (P : Ctl → Prop) : Prop := ∃ b, AdminStarts (at_ (holds0 d k)) 0 k.opcode k b ∧ P b

theorem meets_start {d : Ctl} {k : Cmd} {P : Ctl → Prop}
    (h : adminReady (holds0 d k) 0 k.opcode = some k ∧ P (beginOrder (holds0 d k) k.jseq)) : MeetsS d k P := ⟨_, ⟨h.1, rfl⟩, h.2⟩

/-- An empty record of tenant place 0 with index 3. -/
def record3 : GleaningsRecord := { tenant := 0, index := 3, header := zeros 64, body := zeros 16, tag := zeros 16 }

/-- A model of tenant place 0 with one entry point, of kind 1, in hamlet 0. -/
def model7 : Model := { tenant := 0, entries := [{ kind := 1 }], records := [{ hamlet := 0 }] }

/-- Operands of GQI_ADM_GLEANINGS_READ: index 3, and the list. -/
def index3 : Bytes := zeros 16 ++ [3] ++ zeros 20
def listAll : Bytes := zeros 16 ++ [0xFF, 0xFF, 0xFF, 0xFF]

theorem test_meets_admin_reports :
    MeetsA world (fun _ _ => none) (adminCmd 0x80 (zeros 64)) (fun _ => 96 ≤ (adminCmd 0x80 []).resultCap) ∧
    MeetsA world (fun _ _ => none) (adminCap 0x80 (zeros 64) 95) (fun _ => (adminCap 0x80 (zeros 64) 95).resultCap < 96) ∧
    MeetsS (withSlice fun s => { s with submit := { rate := 1 } }) (adminCmd 0x80 (zeros 64)) (fun b =>
      check6 b (adminCmd 0x80 (zeros 64)) = none) ∧
    MeetsA (withSlice fun s => { s with lanes := [(0, { state := .enabled })] }) featureCheck (adminCmd 0x81 (zeros 64)) (fun _ => True) ∧
    MeetsS { withSlice fun s => { s with lanes := [] } with tenants := [(0, { tenant5 with permitStrict := false })] }
      (adminCmd 0x81 (zeros 17 ++ [2] ++ zeros 46)) (fun b =>
      featuresPermitted b (getSlice b 0).tenant (BitVec.ofNat 64 (fld (zeros 17 ++ [2] ++ zeros 46) 16 8)) = false) ∧
    MeetsS world (adminCmd 0x81 (zeros 64)) (fun b => hasComputeLane (getSlice b 0) = true ∧
      featuresPermitted b (getSlice b 0).tenant (BitVec.ofNat 64 (fld (zeros 64) 16 8)) = true) ∧
    MeetsS (withSlice fun s => { s with featuresSet := true }) (adminCmd 0x81 (zeros 64)) (fun b => (getSlice b 0).featuresSet = true ∧
      featuresPermitted b (getSlice b 0).tenant (BitVec.ofNat 64 (fld (zeros 64) 16 8)) = true) ∧
    MeetsA world statsCheck (adminCap 0x88 (zeros 24 ++ [0xFF]) 288) (fun _ => fld (zeros 24 ++ [0xFF]) 24 1 = 0xFF) ∧
    MeetsA world statsCheck (adminCap 0x88 (zeros 24 ++ [1]) 288) (fun _ => fld (zeros 24 ++ [1]) 24 1 ≠ 0xFF) ∧
    MeetsA { world with gleanings := [record3] } recordCheck (adminCmd 0x89 index3) (fun b => fld index3 16 4 = 3 ∧
      (gleaningsOf b (adminCmd 0x89 index3)).find? (fun r => r.index == 3) = some record3 ∧
      (recordBytes record3).length + 32 ≤ (adminCmd 0x89 []).resultCap) ∧
    MeetsA world recordCheck (adminCap 0x89 listAll 72) (fun _ => fld listAll 16 4 = 0xFFFFFFFF) :=
  ⟨meets_admin (by decide +kernel), meets_admin (by decide +kernel), meets_start (by decide +kernel),
   meets_admin (by decide +kernel), meets_start (by decide +kernel), meets_start (by decide +kernel), meets_start (by decide +kernel),
   meets_admin (by decide +kernel), meets_admin (by decide +kernel), meets_admin (by decide +kernel), meets_admin (by decide +kernel)⟩

theorem test_meets_admin_lanes :
    MeetsA world createCheck (adminCmd 0x82 (zeros 24 ++ [3])) (fun _ => True) ∧
    MeetsS world (adminCmd 0x82 (zeros 24 ++ [1])) (fun b => 1 < (getSlice b 0).laneLimit ∧ (getLane b 0 1).state ≠ .disabled) ∧
    MeetsS world (adminCmd 0x82 (zeros 24 ++ [4])) (fun b => (getSlice b 0).laneLimit ≤ 4) ∧
    MeetsS (withSlice fun s => { s with laneCreations := [(3, 4096)] }) (adminCmd 0x82 (zeros 24 ++ [3])) (fun b =>
      (getLane b 0 3).state = .disabled ∧ 4096 ≤ Tbl.getD (getSlice b 0).laneCreations 3 0) ∧
    MeetsA world (laneCheck fun x => x != .disabled) (adminCmd 0x83 (zeros 24 ++ [1])) (fun _ => True) ∧
    (∀ l ∈ [0, 3, 4], MeetsS world (adminCmd 0x83 (zeros 24 ++ [l])) fun b => l = 0 ∨ (getSlice b 0).laneLimit ≤ l.toNat ∨
      (getLane b 0 l.toNat).state = .disabled) ∧
    MeetsA world (laneCheck fun x => x == .enabled) (adminCmd 0x84 (zeros 24 ++ [1])) (fun _ => True) ∧
    (∀ l ∈ [0, 3, 4], MeetsS world (adminCmd 0x84 (zeros 24 ++ [l])) fun b => l = 0 ∨ (getSlice b 0).laneLimit ≤ l.toNat ∨
      (getLane b 0 l.toNat).state ≠ .enabled) ∧
    MeetsA world policyCheck (adminCmd 0x85 (zeros 24 ++ [1, 0])) (fun _ => fld (zeros 24 ++ [1, 0]) 16 4 = 0) ∧
    MeetsA { world with models := [(7, model7)] } policyCheck (adminCmd 0x85 (zeros 16 ++ [7] ++ zeros 7 ++ [1, 0])) (fun _ => True) :=
  ⟨meets_admin (by decide +kernel), meets_start (by decide +kernel), meets_start (by decide +kernel), meets_start (by decide +kernel),
   meets_admin (by decide +kernel), fun l h => meets_start (by revert l; decide +kernel), meets_admin (by decide +kernel),
   fun l h => meets_start (by revert l; decide +kernel), meets_admin (by decide +kernel), meets_admin (by decide +kernel)⟩

/-! ### A sealed model -/

theorem sub_mid {a b c : Bytes} {off len : Nat} (h : a.length = off) (hl : b.length = len) : sub (a ++ (b ++ c)) off len = b := by
  subst h; subst hl; simp [sub]

/-- The header of a one-page image of tenant 5, with a body of 160 bytes: one entry point, one placement record. -/
def header7 : Bytes := [0x47, 0x5A, 0x4D, 0x49, 1, 0, 0xB0, 0, 5, 0, 1, 1, 0, 0, 0, 0, 160] ++ zeros 23

def body7 : Bytes := [1, 0, 1, 0, 1] ++ zeros 31 ++ [1] ++ zeros 123

/-- The tag of the model key, all zeros, wrapped under the tenant's key. -/
def keyTag7 : Bytes := gcmTag (wrapKey tenant5) (zeros 12) header7 (gcmCrypt (wrapKey tenant5) (zeros 12) (zeros 32))

/-- The image: its model key under tag `t`, and its body under the model key. -/
def image7 (t : Bytes) : Bytes :=
  let k := gcmCrypt (wrapKey tenant5) (zeros 12) (zeros 32)
  header7 ++ (k ++ (t ++ (zeros 24 ++ (zeros 16 ++ (gcmCrypt (zeros 32) (zeros 12) body7 ++ zeros 3808)))))

theorem image7_parts {t : Bytes} (ht : t.length = 16) : sub (image7 t) 40 32 = gcmCrypt (wrapKey tenant5) (zeros 12) (zeros 32) ∧
    sub (image7 t) 72 16 = t ∧ sub (image7 t) 88 24 = zeros 24 ∧ sub (image7 t) 112 16 = zeros 16 ∧
    sub (image7 t) 128 160 = gcmCrypt (zeros 32) (zeros 12) body7 ∧ (image7 t).length = 4096 := by
  have hk : (gcmCrypt (wrapKey tenant5) (zeros 12) (zeros 32)).length = 32 := by rw [length_gcmCrypt]; rfl
  have hb : (gcmCrypt (zeros 32) (zeros 12) body7).length = 160 := by rw [length_gcmCrypt]; rfl
  have hh : header7.length = 40 := rfl
  have hz : ∀ n, (zeros n).length = n := fun n => by simp [zeros]
  refine ⟨sub_mid hh hk, ?_, ?_, ?_, ?_, ?_⟩
  · rw [image7, ← List.append_assoc]; exact sub_mid (by simp [hh, hk]) ht
  · rw [image7, ← List.append_assoc, ← List.append_assoc]
    exact sub_mid (by simp [hh, hk, ht]) (hz 24)
  · rw [image7, ← List.append_assoc, ← List.append_assoc, ← List.append_assoc]
    exact sub_mid (by simp [hh, hk, ht, hz]) (hz 16)
  · rw [image7, ← List.append_assoc, ← List.append_assoc, ← List.append_assoc, ← List.append_assoc]
    exact sub_mid (by simp [hh, hk, ht, hz]) hb
  · simp [image7, hh, hk, hb, ht, hz]

theorem length_keyTag7 : keyTag7.length = 16 := length_gcmTag _ _ _ _

theorem sub_head {a r : Bytes} {off n : Nat} (h : off + n ≤ a.length) : sub (a ++ r) off n = sub a off n := by
  rw [sub, sub, List.drop_append_of_le_length (by omega), List.take_append_of_le_length (by simp; omega)]

theorem image7_head {t : Bytes} {off n : Nat} (h : off + n ≤ 40) : sub (image7 t) off n = sub header7 off n := sub_head h

/-- The image is well formed under any tag, and opens under its own alone. -/
theorem image7_opens {t : Bytes} (ht : t.length = 16) : let v := padTo (4096 * 1) (image7 t)
    headerOk v 5 1 = true ∧
    gcmOpen (wrapKey tenant5) (sub v 24 12) (v.take 40) (sub v 40 32) (sub v 72 16) = (if t = keyTag7 then some (zeros 32) else none) ∧
    fld v 10 1 = 1 ∧ fld v 11 1 = 1 ∧ sub v 112 16 = zeros 16 ∧
    gcmCrypt (zeros 32) (zeros 12) (sub v 128 (fld v 16 8)) = body7 := by
  obtain ⟨h1, h2, h3, h4, h5, h6⟩ := image7_parts ht
  have hp : padTo (4096 * 1) (image7 t) = image7 t := by rw [padTo, ← h6]; simp
  have hf : ∀ off n, off + n ≤ 40 → fld (image7 t) off n = fld header7 off n := fun off n h => by rw [fld, image7_head h]; rfl
  have hq : (image7 t).take 40 = header7 := by rw [image7]; exact List.take_left' rfl
  have hn : sub header7 24 12 = zeros 12 := by decide +kernel
  have hl : fld header7 16 8 = 160 := by decide +kernel
  rw [hp]
  refine ⟨?_, ?_, ?_, ?_, h4, ?_⟩
  · rw [headerOk, h3, hf 0 4 (by decide), hf 4 2 (by decide), hf 6 1 (by decide), hf 7 1 (by decide), hf 8 2 (by decide),
      hf 10 1 (by decide), hf 11 1 (by decide), hf 12 4 (by decide), hf 36 4 (by decide), hf 16 8 (by decide)]
    decide +kernel
  · rw [h1, h2, image7_head (by decide), hn, hq, gcmOpen, gcmCrypt_gcmCrypt]
    by_cases h : t = keyTag7
    · rw [if_pos h]; exact if_pos h.symm
    · rw [if_neg h]; exact if_neg fun e => h e.symm
  · rw [hf 10 1 (by decide)]; decide +kernel
  · rw [hf 11 1 (by decide)]; decide +kernel
  · rw [hf 16 8 (by decide), hl, h5, gcmCrypt_gcmCrypt]

/-- The model `body7` describes. -/
def loaded7 : Model := { tenant := 0, entries := [{ kind := 1 }], records := [{ hamlet := 0, windows := [none, none, none, none] }], bodyTag := zeros 16 }

/-- Operands of GQI_ADM_MODEL_LOAD: one page. -/
def loadRaw : Bytes := zeros 24 ++ [1] ++ zeros 39

theorem test_meets_admin_models :
    MeetsS { world with tenants := [(0, { tenant5 with state := .created })] } (adminCmd 0x86 loadRaw) (fun b =>
      Tbl.find? b.tenants 0 = some { tenant5 with state := .created }) ∧
    MeetsS (withSlice fun s => { s with proc := some { kind := .freeze, jseq := 0, start := 0 } }) (adminCmd 0x86 loadRaw) (fun b =>
      Tbl.find? b.tenants 0 = some tenant5 ∧ tenantFrozen b 0 = true) ∧
    MeetsA world loadCheck (adminCmd 0x86 loadRaw) (fun b => Tbl.find? b.tenants 0 = some tenant5 ∧ fld loadRaw 24 4 = 1 ∧
      holdPages b .ha 0 (pagesAt 0 4096) = b ∧ headerOk (padTo 4096 (zeros 4096)) 5 1 = false ∧ resourcesOk b 0 loaded7 = true) ∧
    MeetsA world loadCheck (adminCmd 0x86 (zeros 64)) (fun _ => fld (zeros 64) 24 4 = 0) ∧
    MeetsA { world with hamlets := [] } loadCheck (adminCmd 0x86 loadRaw) (fun b => resourcesOk b 0 loaded7 = false) ∧
    (∃ t v, v = padTo (4096 * 1) (image7 t) ∧ headerOk v 5 1 = true ∧
      gcmOpen (wrapKey tenant5) (sub v 24 12) (v.take 40) (sub v 40 32) (sub v 72 16) = none) ∧
    (∃ v, v = padTo (4096 * 1) (image7 keyTag7) ∧ headerOk v 5 1 = true ∧
      gcmOpen (wrapKey tenant5) (sub v 24 12) (v.take 40) (sub v 40 32) (sub v 72 16) = some (zeros 32) ∧
      readBody 0 (fld v 10 1) (fld v 11 1) (fld loadRaw 28 4) (sub v 112 16)
        (gcmCrypt (zeros 32) (zeros 12) (sub v 128 (fld v 16 8))) = some (loaded7, [])) ∧
    MeetsA { world with models := [(0, model7)] } (unloadCheck 0) (adminCmd 0x87 (zeros 64)) (fun _ => True) ∧
    MeetsS { world with models := [(0, model7)], cmds := [(1, { slice := 0, lane := 1, seq := 0, gen := 0, phase := .running })] }
      (adminCmd 0x87 (zeros 64)) (fun b => resident b 0 0 = some model7 ∧ handleUsed b 0 0 = true) ∧
    MeetsS world (adminCmd 0x87 (zeros 64)) (fun b => resident b 0 0 = none) := by
  refine ⟨meets_start (by decide +kernel), meets_start (by decide +kernel), meets_admin ⟨by decide +kernel, by decide +kernel, by decide +kernel,
      by decide +kernel, by decide +kernel, rfl, by decide +kernel, by decide +kernel⟩, meets_admin (by decide +kernel),
    meets_admin (by decide +kernel), ?_, ?_, meets_admin (by decide +kernel), meets_start (by decide +kernel), meets_start (by decide +kernel)⟩
  · have hl : (keyTag7.map fun x => ~~~ x).length = 16 := by rw [List.length_map]; exact length_keyTag7
    obtain ⟨h1, h2, -⟩ := image7_opens hl
    refine ⟨_, _, rfl, h1, h2.trans (if_neg fun h => ?_)⟩
    have h0 := congrArg (fun l => l[0]?) h
    have hi : 0 < keyTag7.length := by rw [length_keyTag7]; decide
    simp only [List.getElem?_map, List.getElem?_eq_getElem hi, Option.map_some, Option.some.injEq] at h0
    have h7 := congrArg (fun x => x.getLsbD 0) h0
    simp at h7
  · obtain ⟨h1, h2, h3, h4, h5, h6⟩ := image7_opens length_keyTag7
    refine ⟨_, rfl, h1, h2.trans (if_pos rfl), ?_⟩
    rw [h3, h4, h5, h6]; decide +kernel

/-! ### Witnesses: submissions -/

/-- The key epoch of slice 0. -/
def epoch1 : EpochKeys := ⟨1, zeros 32, zeros 32, 0⟩

/-- `world` with an entry to fetch on lanes 0 and 1 of slice 0. -/
def fetchWorld : Ctl := withSlice fun s => { s with lanes := s.lanes.map fun e => (e.1, { e.2 with sqTail := 1 }) }

/-- A descriptor of 48 bytes `h` for lane `l`, with its tag. -/
def taggedDesc (l : Nat) (h : Bytes) : Bytes :=
  h ++ gcmTag (zeros 32) (laneNonce { slice := 0, lane := l, seq := 0, gen := 0, incarnation := 1 } 0) h []

theorem tagCheck_ok {s : Slice} {ln : Lane} {c : Cmd} {k : EpochKeys} {p : Bytes} (hk : s.keys.current = some k)
    (ho : openUnder c k = some p) : tagCheck s ln c = .ok (k, p) := by
  simp [tagCheck, hk, ho]

/-- The descriptor read from `taggedDesc` and what stands with it: its slice takes it, and `P` holds of the state and the command. -/
def MeetsD (l : Nat) (h : Bytes) (P : Ctl → Cmd → Prop) : Prop :=
  let w := holdPages fetchWorld (getSlice fetchWorld 0).cur 0 (pagesAt (fetchPlace fetchWorld 0 l) 64)
  let a := acceptDescriptor w 0 l (padTo 64 (taggedDesc l h))
  fetchable fetchWorld 0 l = true ∧ tagCheck (getSlice w 0) (getLane w 0 l) a.2.1 = .ok (epoch1, []) ∧
    P (modCmd (fillDescriptor (refillLane a.2.2 0 l) 0 a.1) a.1 fun c => { c with epoch := some epoch1 }) a.2.1

theorem padTo_len (n : Nat) (bs : Bytes) (h : bs.length = n) : padTo n bs = bs := by subst h; simp [padTo]

theorem meets_desc {l : Nat} {h : Bytes} {P : Ctl → Cmd → Prop} (hl : l = 0 ∨ l = 1) (hn : h.length = 48)
    (hp : let a := acceptDescriptor fetchWorld 0 l (taggedDesc l h)
      P (modCmd (fillDescriptor (refillLane a.2.2 0 l) 0 a.1) a.1 fun c => { c with epoch := some epoch1 }) a.2.1) : MeetsD l h P := by
  have hpad : padTo 64 (taggedDesc l h) = taggedDesc l h := padTo_len _ _ (by simp [taggedDesc, hn, length_gcmTag])
  have hw : holdPages fetchWorld (getSlice fetchWorld 0).cur 0 (pagesAt (fetchPlace fetchWorld 0 l) 64) = fetchWorld := by
    rcases hl with rfl | rfl <;> decide +kernel
  simp only [MeetsD, hpad, hw]
  refine ⟨?_, tagCheck_ok ?_ ?_, hp⟩
  · rcases hl with rfl | rfl <;> decide +kernel
  · decide +kernel
  · have hs : ∀ bs, (acceptDescriptor fetchWorld 0 l bs).2.1.slot = none ∧ (acceptDescriptor fetchWorld 0 l bs).2.1.raw = bs ∧
        laneNonce (acceptDescriptor fetchWorld 0 l bs).2.1 0 =
          laneNonce { slice := 0, lane := l, seq := 0, gen := 0, incarnation := 1 } 0 := by
      intro bs; rcases hl with rfl | rfl <;> exact ⟨rfl, rfl, rfl⟩
    obtain ⟨h1, h2, h3⟩ := hs (taggedDesc l h)
    have ht : (taggedDesc l h).take 48 = h := by rw [taggedDesc, ← hn]; simp
    have hg : sub (taggedDesc l h) 48 16 = gcmTag (zeros 32) (laneNonce { slice := 0, lane := l, seq := 0, gen := 0, incarnation := 1 } 0) h [] := by
      rw [taggedDesc, sub, ← hn, List.drop_left]
      exact List.take_of_length_le (Nat.le_of_eq (length_gcmTag _ _ _ _))
    simp only [openUnder, h1, h2, h3, ht, hg, gcmOpen]
    exact (if_neg Bool.false_ne_true).trans (if_pos rfl)

/-- 48 bytes of a descriptor: opcode, deadline none, `il` bytes of input and a result buffer of `cap` bytes. -/
def descHead (op : Byte) (model il cap : Byte) : Bytes :=
  [op, 0, 0, 0, model, 0, 0, 0] ++ List.replicate 8 0xFF ++ zeros 8 ++ [il, 0, 0, 0, cap, 0, 0, 0] ++ zeros 16

/-- 48 bytes of an admin descriptor: opcode and a result buffer of `cap` bytes. -/
def adminHead (op : Byte) (cap : Byte) : Bytes := [op] ++ zeros 27 ++ [cap] ++ zeros 19

theorem test_meets_descriptor :
    (lanesUp fetchWorld = true ∧ fetchable fetchWorld 0 1 = true) ∧
    (∃ d, tagCheck { slice0 with keys := {} } {} (acceptDescriptor d 0 1 (zeros 64)).2.1 = .error St.noKey ∧
      (acceptDescriptor d 0 1 (zeros 64)).2.1.inputLen = 0 ∧ fetchable d 0 1 = true ∧ lanesUp d = true ∧
      getSlice d 0 = { slice0 with keys := {}, lanes := [(1, { state := .enabled, sqLog := 6, sqTail := 1 })] }) ∧
    (∃ d, tagCheck (getSlice d 0) (getLane d 0 1) (acceptDescriptor d 0 1 (padTo 64 (descHead 5 0 1 32))).2.1 = .error St.noKey ∧
      (acceptDescriptor d 0 1 (padTo 64 (descHead 5 0 1 32))).2.1.inputLen = 1 ∧ fetchable d 0 1 = true ∧ lanesUp d = true ∧
      holdPages d (getSlice d 0).cur 0 (pagesAt (fetchPlace d 0 1) 64) = d) ∧
    MeetsD 1 (descHead 9 0 0 32) (fun _ c => formCheck (getSlice fetchWorld 0) (getLane fetchWorld 0 1) c = some St.badOpcode) ∧
    MeetsD 1 (descHead 1 0 0 32) (fun d c => formCheck (getSlice fetchWorld 0) (getLane fetchWorld 0 1) c = none ∧
      ∃ d', checks456 d c = .error (St.notResident, d')) ∧
    MeetsD 0 (adminHead 0x80 96) (fun d c => formCheck (getSlice fetchWorld 0) (getLane fetchWorld 0 0) c = none ∧
      ∃ d', checks456 d c = .ok d') ∧
    MeetsD 1 (descHead 5 0 1 32) (fun d c => formCheck (getSlice fetchWorld 0) (getLane fetchWorld 0 1) c = none ∧
      c.inputLen ≠ 0 ∧ ∃ d', checks456 d c = .ok d') ∧
    MeetsD 1 (descHead 5 0 0 32) (fun d c => formCheck (getSlice fetchWorld 0) (getLane fetchWorld 0 1) c = none ∧
      c.inputLen = 0 ∧ ∃ d', checks456 d c = .ok d') := by
  refine ⟨by decide +kernel, ⟨{ world with slices := [(0, { slice0 with
      keys := {}, lanes := [(1, { state := .enabled, sqLog := 6, sqTail := 1 })] })] }, rfl, rfl, rfl, rfl, rfl⟩,
    ⟨{ world with slices := [(0, { slice0 with
      keys := {}, lanes := [(1, { state := .enabled, sqLog := 6, sqTail := 1 })] })] }, by decide +kernel⟩,
    meets_desc (.inr rfl) rfl (by decide +kernel), meets_desc (.inr rfl) rfl ⟨by decide +kernel, _, rfl⟩,
    meets_desc (.inl rfl) rfl ⟨by decide +kernel, _, rfl⟩, meets_desc (.inr rfl) rfl ⟨by decide +kernel, by decide +kernel, _, rfl⟩,
    meets_desc (.inr rfl) rfl ⟨by decide +kernel, by decide +kernel, _, rfl⟩⟩

/-- Slot 0 of lane 1 with bytes written from its first on. -/
def slotted (d : Ctl) (bs : Bytes) : Ctl :=
  modSlot d 0 1 0 fun x => { x with bytes := (bs.zipIdx 0).foldl (fun t e => Tbl.set t e.2 e.1) x.bytes }

/-- A one-cell postcard of GQI_OP_NOP without input, but its tag. -/
def cardHead : Bytes := [5, 1, 0, 0] ++ zeros 4 ++ List.replicate 8 0xFF ++ zeros 32

/-- `cardHead` with its tag. -/
def taggedCard : Bytes :=
  cardHead ++ gcmTag (zeros 32) (laneNonce { slice := 0, lane := 1, seq := 0, gen := 0, incarnation := 1 } 2) (cardHead.take 16) []

theorem find?_written : ∀ (bs : Bytes) (off k : Nat) (t : Tbl Byte),
    Tbl.find? ((bs.zipIdx off).foldl (fun t e => Tbl.set t e.2 e.1) t) k =
      if off ≤ k ∧ k < off + bs.length then bs[k - off]? else Tbl.find? t k
  | [], off, k, t => by simp
  | b :: bs, off, k, t => by
    simp only [List.zipIdx_cons, List.foldl_cons, find?_written bs (off + 1) k, List.length_cons, Tbl.find?_set]
    by_cases h : k = off
    · subst h; simp
    · by_cases h2 : off ≤ k
      · have : k - off = (k - (off + 1)) + 1 := by omega
        rw [this, List.getElem?_cons_succ]
        split <;> split <;> first | rfl | omega
      · simp [h]; rw [if_neg (by omega), if_neg (by omega)]

theorem slotBytes_written (bs : Bytes) (n : Nat) (h : 64 * n = bs.length) :
    slotBytes { bytes := (bs.zipIdx 0).foldl (fun t e => Tbl.set t e.2 e.1) [] } n = bs := by
  apply List.ext_getElem
  · simp [slotBytes, h]
  · intro k h1 h2
    simp [slotBytes, Tbl.getD, find?_written, h2]

theorem card_length : taggedCard.length = 64 := by simp [taggedCard, length_gcmTag, cardHead, zeros]

theorem card_raw : (acceptChain (slotted world taggedCard) .ha 0 1 0).2.1.raw = taggedCard := by
  have h1 := slotBytes_written taggedCard 1 card_length.symm
  have h2 : (acceptChain (slotted world taggedCard) .ha 0 1 0).2.1.raw =
      slotBytes { bytes := (taggedCard.zipIdx 0).foldl (fun t e => Tbl.set t e.2 e.1) [] }
        (chainCells (slotBytes { bytes := (taggedCard.zipIdx 0).foldl (fun t e => Tbl.set t e.2 e.1) [] } 1)) := rfl
  have h3 : chainCells taggedCard = 1 := by decide +kernel
  rw [h2, h1, h3, h1]

theorem test_meets_postcards :
    (world.pkg.life = .operating ∧ windowLive world 0 0 = true ∧ windowLive world 0 1 = true ∧ windowOn world (.port .ha) 0 = true ∧
      (getSlice world 0).state = .active ∧ (getLane world 0 1).state = .enabled) ∧
    (Tbl.getD (getLane (withSlice fun s => { s with lanes := [(1, { state := .enabled, slots := [(2, { taken := true })] })] }) 0 1).slots 2 {}).taken = true ∧
    chainComplete (Tbl.getD (getLane (slotted world [5, 1]) 0 1).slots 0 {}) = false ∧
    (∃ d, chainComplete (Tbl.getD (getLane (slotted d taggedCard) 0 1).slots 0 {}) = true ∧ (getLane d 0 1).state = .enabled ∧
      (getSlice (slotted d taggedCard) 0).fastLimit ≤ fastCount (slotted d taggedCard) 0 ∧ freeEntries (slotted d taggedCard) 0 1 ≠ 0) ∧
    (∃ d, chainComplete (Tbl.getD (getLane (slotted d taggedCard) 0 1).slots 0 {}) = true ∧ (getLane d 0 1).state = .enabled ∧
      fastCount (slotted d taggedCard) 0 < (getSlice (slotted d taggedCard) 0).fastLimit ∧ freeEntries (slotted d taggedCard) 0 1 = 0) ∧
    (chainComplete (Tbl.getD (getLane (slotted world (zeros 64)) 0 1).slots 0 {}) = true ∧
      fastCount (slotted world (zeros 64)) 0 < (getSlice (slotted world (zeros 64)) 0).fastLimit ∧ freeEntries (slotted world (zeros 64)) 0 1 ≠ 0 ∧
      chainBits (acceptChain (slotted world (zeros 64)) .ha 0 1 0).2.2.1 < 1) ∧
    ((Tbl.getD (getLane world 0 1).slots 0 {}).taken = false ∧ chainComplete (Tbl.getD (getLane (slotted world taggedCard) 0 1).slots 0 {}) = true ∧
      fastCount (slotted world taggedCard) 0 < (getSlice (slotted world taggedCard) 0).fastLimit ∧ freeEntries (slotted world taggedCard) 0 1 ≠ 0 ∧
      chainBits (acceptChain (slotted world taggedCard) .ha 0 1 0).2.2.1 = 1 ∧
      tagCheck (getSlice (slotted world taggedCard) 0) (getLane (slotted world taggedCard) 0 1) (acceptChain (slotted world taggedCard) .ha 0 1 0).2.1 =
        .ok (epoch1, [])) := by
  refine ⟨by decide +kernel, by decide +kernel, by decide +kernel,
    ⟨withSlice fun s => { s with fastLimit := 0 }, by decide +kernel⟩,
    ⟨withSlice fun s => { s with lanes := [(1, { state := .enabled, cqLog := 6, unconsumed := 64 })] }, by decide +kernel⟩,
    by decide +kernel, by decide +kernel, by decide +kernel, by decide +kernel, by decide +kernel, by decide +kernel, tagCheck_ok (by decide +kernel) ?_⟩
  have h1 : (acceptChain (slotted world taggedCard) .ha 0 1 0).2.1.slot.isSome = true := by decide +kernel
  have h2 : laneNonce (acceptChain (slotted world taggedCard) .ha 0 1 0).2.1 2 =
      laneNonce { slice := 0, lane := 1, seq := 0, gen := 0, incarnation := 1 } 2 := by decide +kernel
  have h3 : (acceptChain (slotted world taggedCard) .ha 0 1 0).2.1.inputLen = 0 := by decide +kernel
  have h4 : chainCells taggedCard = 1 := by decide +kernel
  have h5 : taggedCard.take 16 = cardHead.take 16 := by decide +kernel
  have h6 : sub taggedCard 48 16 = gcmTag (zeros 32) (laneNonce { slice := 0, lane := 1, seq := 0, gen := 0, incarnation := 1 } 2) (cardHead.take 16) [] := by
    have : cardHead.length = 48 := by decide +kernel
    rw [taggedCard, sub, ← this, List.drop_left]
    exact List.take_of_length_le (Nat.le_of_eq (length_gcmTag _ _ _ _))
  simp only [openUnder, card_raw, h1, h2, h3, h4, h5]
  rw [if_pos trivial, show 64 * 1 - 16 = 48 from rfl, h6]
  exact if_pos rfl

/-- A command of slice 0 on lane 1 in a phase, with 0 bytes of input and the epoch's keys. -/
def waiting (ph : CmdPhase) : Cmd :=
  { slice := 0, lane := 1, seq := 0, gen := 0, incarnation := 1, phase := ph, opcode := 5, deadline := noDeadline, epoch := some epoch1, resultCap := 32, credit := true }

/-- The input `waiting` reads: its tag alone. -/
def tagInput : Bytes := gcmTag (zeros 32) (laneNonce (waiting .input) 1) [] []

theorem test_meets_inputs :
    Tbl.find? { world with cmds := [(0, waiting .input)] }.cmds 0 = some (waiting .input) ∧ (waiting .input).status = none ∧
    ({ waiting .input with early := some St.noKey } : Cmd).early = some St.noKey ∧ (waiting .input).early = none ∧
    (({ waiting .input with epoch := none } : Cmd).epoch.bind fun e => openInput { waiting .input with epoch := none } e (padTo 16 [])) = none ∧
    ((waiting .input).epoch.bind fun e => openInput (waiting .input) e (padTo ((waiting .input).inputLen + 16) tagInput)) = some [] := by
  refine ⟨by decide +kernel, by decide +kernel, by decide +kernel, by decide +kernel, rfl, ?_⟩
  have hp : padTo 16 tagInput = tagInput := padTo_len _ _ (length_gcmTag _ _ _ _)
  have hi : (waiting .input).inputLen + 16 = 16 := rfl
  have ht : sub tagInput 0 16 = tagInput := by
    rw [sub, List.drop_zero]; exact List.take_of_length_le (Nat.le_of_eq (length_gcmTag _ _ _ _))
  have he : (waiting .input).epoch = some epoch1 := rfl
  rw [he, hi, hp, Option.bind_some, openInput]
  have hz : (waiting .input).inputLen = 0 := rfl
  rw [hz, ht, List.take_zero]
  exact if_pos rfl

/-- A postcard's command that awaits its decision. -/
def card : Cmd := { waiting .accepted with slot := some 0 }

theorem test_meets_decisions :
    card.phase = .accepted ∧ card.slot.isSome = true ∧ card.early = none ∧
    (∃ d, checks456 (withSlice fun s => { s with state := .fenced }) card = .error (St.fenced, d)) ∧
    (∃ d, checks456 world card = .ok d) ∧
    (∃ st d, check89 { world with cmds := [(0, { card with deadline := 0 })] } 0 { card with deadline := 0 } = .refused st d) ∧
    (∃ d, check89 { world with cmds := [(0, card)] } 0 card = .admitted d) ∧
    card.waitUntil = 0 ∧ now world < ({ card with waitUntil := 1000 } : Cmd).waitUntil :=
  ⟨rfl, rfl, rfl, ⟨_, rfl⟩, ⟨_, rfl⟩, ⟨_, _, rfl⟩, ⟨_, rfl⟩, rfl, by decide +kernel⟩

/-- A model of tenant 5 that runs on one core of hamlet 0. -/
def runModel : Model := { tenant := 0, entries := [{ kind := 1 }], records := [{ hamlet := 0 }] }

def runWorld : Ctl := { world with models := [(7, runModel)] }

/-- A RUN of `runModel`. -/
def run : Cmd := { waiting .accepted with opcode := 1, model := 7 }

theorem test_meets_watchman :
    (isModelOp run.opcode = true ∧ resident runWorld 0 7 = some runModel ∧ entryOf runModel 1 = some { kind := 1 }) ∧
    (timeLe 1 0 = false ∧ (0 : W64) ≠ noDeadline ∧ timeLe 5 5 = true) ∧
    step8b { runWorld with brownout := [0, 1] } run (some { kind := 1 }) = none ∧
    (∃ e, step8b (withSlice fun s => { s with credits := 0 }) { run with credit := false } (some { kind := 1 }) = some e ∧
      ({ run with credit := false }.credit || !sliceBusy e 0) = false ∧ diverts run = false) ∧
    (step8b runWorld run (some { kind := 1 }) = some runWorld ∧ (run.credit || !sliceBusy runWorld 0) = true ∧
      roomFor runWorld runModel { kind := 1 } = true ∧ ((entryHamlets runModel { kind := 1 }).any fun h => hamletDown runWorld h { kind := 1 }) = false ∧
      meetsDeadline runWorld run (predict runWorld run runModel { kind := 1 }) = true ∧ outputTooBig run { kind := 1 } = false) ∧
    (outputTooBig run { kind := 1, outputBytes := 1 } = true ∧
      meetsDeadline runWorld run (predict runWorld run runModel { kind := 1, outputBytes := 1 }) = true) ∧
    (meetsDeadline runWorld { run with deadline := 1 } (predict runWorld { run with deadline := 1 } runModel { kind := 1 }) = false ∧
      timeLe run.tAccept 1 = true) ∧
    (hamletDown { runWorld with hamlets := [] } 0 { kind := 1 } = true ∧
      roomFor { runWorld with hamlets := [] } runModel { kind := 1 } = true) ∧
    roomFor { runWorld with cmds := (List.range 60).map fun k => (k, { run with phase := .admitted }) } runModel { kind := 1 } = false := by
  refine ⟨by decide +kernel, by decide +kernel, by decide +kernel, ⟨_, rfl, by decide +kernel, by decide +kernel⟩, ?_, ?_, ?_, ?_, ?_⟩
  all_goals decide +kernel

theorem test_meets_admitted :
    (∀ op ∈ [1, 2, 3], ∃ k : Cmd, k.opcode = op ∧ k.phase = .admitted ∧ k.status = none ∧ 
      cmdModel { runWorld with models := [(7, { runModel with entries := [{ kind := op.toNat }] })] } k = some { runModel with entries := [{ kind := op.toNat }] } ∧
      cmdEntry { runWorld with models := [(7, { runModel with entries := [{ kind := op.toNat }] })] } k = some { kind := op.toNat }) ∧
    (waiting .admitted).phase = .admitted ∧ (waiting .admitted).status = none ∧ (waiting .admitted).opcode = 5 ∧
    ({ waiting .admitted with opcode := 4 } : Cmd).opcode = 4 := by
  refine ⟨fun op h => ⟨{ run with phase := .admitted, opcode := op }, rfl, rfl, rfl, ?_⟩, rfl, rfl, rfl, rfl⟩
  revert op; decide +kernel

/-! ### Witnesses: execution, commit, tallies, remote access -/

/-- `run` bound to core 0 of hamlet 0. -/
def running : Cmd := { run with phase := .running, parts := [(0, { state := .bound, cores := [0] })] }

/-- `runWorld` with one command. -/
def with1 (c : Cmd) : Ctl := { runWorld with cmds := [(0, c)] }

/-- Core 0 of hamlet 0. -/
def tile0 : Tile := ⟨0, 0⟩

/-- A command that holds its reservations and waits for cores. -/
def ready1 : Cmd := { run with phase := .running, parts := [(0, { state := .reserving, reserved := true })] }

/-- `with1` where the entry point has 4 bytes of output and 4 bytes of local granary. -/
def small (c : Cmd) : Ctl := { with1 c with
  models := [(7, { runModel with entries := [{ kind := 1, outputBytes := 4, granaryLocal := 4 }] })] }

theorem test_meets_hamlet_execution :
    (∃ r, mayBind (with1 ready1) 0 = true ∧ readyCmd (markCores (with1 ready1) 0) 0 = some r) ∧
    (mayBind world 0 = true ∧ (readyCmd (markCores world 0) 0).isNone = true) ∧
    mayBind { runWorld with hamlets := [] } 0 = false ∧
    (mayComplete running tile0 true = true ∧ jobsLost (small running) = false ∧ mayComplete running ⟨0, 1⟩ true = false) ∧
    (tileOutput (small running) (tileKey (small running) running tile0 [[]]) [(0, zeros 4)] = [(0, zeros 4)] ∧
      tileOutput (small running) (tileKey (small running) running tile0 [[]]) [(1, zeros 4)] = [(1, zeros 4)] ∧
      ((cmdEntry (small running) running).map Entry.outputBytes).getD 0 = 4) ∧
    (accessFault (small running) 0 (12 * 2 ^ 30 - 3) 4 (isContextOp running.opcode) = some St.memory ∧
      accessFault (small running) 0 (12 * 2 ^ 30 - 4) 4 (isContextOp running.opcode) = none) ∧
    (stagesTooMuch (addTile [] (small running) 0 tile0 running { writes := [(0, zeros 5)], last := true }) 0 0 = true ∧
      stagesTooMuch (addTile [] (small running) 0 tile0 running { writes := [(0, zeros 4)], last := true }) 0 0 = false) := by
  refine ⟨⟨_, by decide +kernel, Option.eq_some_of_isSome (by decide +kernel)⟩, ?_⟩
  decide +kernel

/-- A command of slice 0 that has run, with its status. -/
def ran (ph : CmdPhase) : Cmd := { run with phase := ph, parts := [(0, { state := .staged })], status := some St.ok }

theorem test_meets_commit :
    mayCommit (with1 { ran .running with status := none }) 0 { ran .running with status := none } = true ∧
    mayCommit (with1 running) 0 running = false ∧
    (ran .resolved).phase = .resolved ∧ silent (with1 (ran .resolved)) 0 = false ∧
    (∃ d, (ran .delivered).phase = .delivered ∧ (oldest (with1 (ran .delivered)) 0 1).map Prod.fst = some 0 ∧ (ran .delivered).slot = none ∧
      (ran .delivered).status = some St.ok ∧
      d = dropCmd (detailRecord (bump (with1 (ran .delivered)) 0 1 fun x => countPath (ran .delivered) St.ok (countStatus St.ok x)) (ran .delivered) St.ok) 0 ∧
      (getPort d (getSlice d 0).cur).ats = false) ∧
    (∃ d, silent { with1 (ran .delivered) with portA := { linkUp := true, perst := false, ats := true } } 0 = false ∧
      (oldest { with1 (ran .delivered) with portA := { linkUp := true, perst := false, ats := true } } 0 1).map Prod.fst = some 0 ∧
      d = dropCmd (detailRecord (bump { with1 (ran .delivered) with portA := { linkUp := true, perst := false, ats := true } } 0 1
        fun x => countPath (ran .delivered) St.ok (countStatus St.ok x)) (ran .delivered) St.ok) 0 ∧
      (getPort d (getSlice d 0).cur).ats = true) ∧
    (∃ d, (oldest (with1 { ran .delivered with slot := some 2 }) 0 1).map Prod.fst = some 0 ∧
      d = modSlot (dropCmd (detailRecord (bump (with1 { ran .delivered with slot := some 2 }) 0 1
        fun x => countPath { ran .delivered with slot := some 2 } St.ok (countStatus St.ok x)) { ran .delivered with slot := some 2 } St.ok) 0) 0 1 2 (fun _ => {}) ∧
      (getPort d (getSlice d 0).cur).ats = false) ∧
    (jobsLost world = false ∧ jobsLost (withPkg fun k => { k with life := .failed }) = true) ∧
    windowLive world 0 1 = true ∧ irqDue world (getLane world 0 1) = false ∧
    irqDue world { irqCtl := 1, irqCount := 1 } = true :=
  ⟨by decide +kernel, by decide +kernel, by decide +kernel, by decide +kernel,
   ⟨_, by decide +kernel, by decide +kernel, by decide +kernel, by decide +kernel, rfl, by decide +kernel⟩,
   ⟨_, by decide +kernel, by decide +kernel, rfl, by decide +kernel⟩, ⟨_, by decide +kernel, rfl, by decide +kernel⟩, by decide +kernel⟩

/-- A sheaf of slice 0 that a transfer into the device moves, at carter 0 or engine 4. -/
def sheaf0 (u : SheafUse) (p : SheafPlace) : Sheaf := { tenant := 0, slice := 0, gen := 0, len := 64, use := u, place := p }

/-- A load of `n` sheaves by command 3. -/
def load3 (n : Nat) : Load := { cmd := 3, model := runModel, pages := [], tagOk := true, sheaves := n }

/-- Slice 0 in a save or restore. -/
def moving (k : SliceProcKind) : Ctl := withSlice fun s => { s with state := .frozen, proc := some { kind := k, jseq := 1, start := 0 } }

theorem test_meets_sheaves :
    (∀ u ∈ [SheafUse.input 3 0, .load 3, .migration], ∀ x, x = sheaf0 u (.engine 4) →
      Tbl.find? { world with sheaves := [(0, x)] }.sheaves 0 = some x ∧ inUnit x = true ∧ x.squashed = false ∧ firstUnit x = false) ∧
    inUnit (sheaf0 .migration .queued) = false ∧
    (inUnit { sheaf0 .migration (.carter 0) with squashed := true } = true ∧ firstUnit (sheaf0 .migration (.carter 0)) = true) ∧
    (∀ n ∈ [1, 2], Tbl.find? { world with loads := [(3, load3 n)] }.loads 3 = some (load3 n)) ∧
    (∀ k ∈ [SliceProcKind.save, .restore], (getSlice (moving k) 0).proc = some { kind := k, jseq := 1, start := 0 }) ∧
    migLeft (moving .restore) 0 = 0 := by
  refine ⟨?_, by decide +kernel, by decide +kernel, by decide +kernel, by decide +kernel, by decide +kernel⟩
  intro u hu x hx
  subst hx
  revert u
  decide +kernel

/-- Claims of `running`'s command on tally 255 of hamlet 0, and on the one of hamlet 1. -/
def claims (y : Tally) : Ctl := { with1 running with tallies := [(255, y), (2 ^ 19 + 255, y)] }
def mine : Tally := { claimMode := true, claim := .claimed, owner := some (ownerOf (with1 running) 0 running) }

theorem test_meets_tallies :
    (runsTile running tile0 = true ∧ ∀ n ∈ [255, 2 ^ 19 + 255], tallyNamed n = true ∧ tallyPkg n = pkgNum (with1 running) ∧
      tallyOpen (with1 running) 0 n = true ∧ (getTally (with1 running) n).claimMode = false) ∧
    (tallyAway 255 0 = false ∧ tallyAway (2 ^ 19 + 255) 0 = true ∧ (getHam (with1 running) 1).reset = none) ∧
    (∀ y ∈ [({ claimMode := true } : Tally), mine], getTally (claims y) 255 = y ∧ getTally (claims y) (2 ^ 19 + 255) = y ∧
      y.claimMode = true) ∧
    (isOwner { claimMode := true } (ownerOf (with1 running) 0 running) = false ∧ isOwner mine (ownerOf (with1 running) 0 running) = true) ∧
    (let d := { with1 running with hamlets := [(0, { assign := .granted }), (1, { assign := .granted, reset := some reset1 })] }
     tallyOpen d 0 (2 ^ 19 + 255) = true ∧ (getHam d 1).reset.isSome = true ∧
       wakes d (2 ^ 19 + 255) { kind := .ge 0, cmd := some 0, tile := some tile0 } = false) ∧
    (({} : Tally).claim ≠ .claimed ∧ mine.claim = .claimed ∧
      wakes (with1 running) 255 { kind := .ge 0, cmd := some 0, tile := some tile0 } = true) ∧
    Tbl.find? (claims mine).tallies 255 = some mine := by decide +kernel

/-- A tile reads what its own command staged last, over what is committed (R162). -/
theorem test_staged_over : stagedOver [(8, [1, 2]), (9, [3])] 7 [9, 9, 9, 9] = [9, 1, 3, 9] := by decide +kernel

/-- A window over the first page of hamlet 1. -/
def window1 : Hamlet := { assign := .granted, windows := [(0, { base := 0, limit := 4095, perm := 1 })] }

/-- `with1 running` with hamlet 1 open for reads. -/
def open1 : Ctl := { with1 running with hamlets := [(0, { assign := .granted }), (1, window1)] }

/-- `running` of a model that reads other packages. -/
def afar : Ctl := { with1 running with models := [(7, { runModel with entries := [{ kind := 1, roadOps := true }] })] }

theorem test_meets_remote :
    (runsTile running tile0 = true ∧ addrValid (2 ^ 53 - 1) = true ∧ addrValid (2 ^ 43 + 4092) = true) ∧
    (addrPkg (2 ^ 43 + 4092) = pkgNum open1 ∧ addrHamlet (2 ^ 43 + 4092) = 1 ∧ readFault open1 running 0 1 4092 4 = none ∧
      isPoisoned [] 1 4092 4 = false ∧ isPoisoned [memKey 1 4032] 1 4092 4 = true) ∧
    (addrHamlet 0 = 0 ∧ readFault (with1 running) running 0 0 0 4 = none) ∧
    (readFault (with1 running) running 0 2 0 4 = some St.memory ∧ addrHamlet (2 * 2 ^ 43) = 2) ∧
    (addrPkg (2 ^ 48) ≠ pkgNum (with1 running) ∧ hasRoadOps (with1 running) running = false ∧ hasRoadOps afar running = true ∧
      roomForRequest afar 0 (spans 0 4096).length = true) ∧
    (64 / 2 ^ 43 = rackHamlet (with1 running) 0 ∧
      accessFault (with1 running) 0 (addrOffset 64) 4 (isContextOp running.opcode) = none ∧
      accessFault (with1 running) 0 (addrOffset (12 * 2 ^ 30)) 4 (isContextOp running.opcode) = some St.memory ∧
      stagesTooMuch (writeLocal (small running) 0 0 (64, zeros 5)) 0 0 = true ∧
      stagesTooMuch (writeLocal (small running) 0 0 (64, zeros 4)) 0 0 = false) ∧
    (2 ^ 48 / 2 ^ 43 ≠ rackHamlet (with1 running) 0 ∧ roomForRequest (with1 running) (homeHamlet (with1 running) running) (spans 0 4).length = true ∧
      2 ^ 43 / 2 ^ 43 ≠ rackHamlet (with1 running) 0 ∧ addrPkg (2 ^ 43) = pkgNum (with1 running)) := by
  decide +kernel

/-! ### The arithmetic of the cores -/

/-- The largest finite numbers of R145: 448, 57,344, 6, 65,504 and 1.984375. -/
theorem test_largest_finite :
    decodeNum e4m3 (maxFinite e4m3) = .fin false 14 5 ∧ decodeNum e5m2 (maxFinite e5m2) = .fin false 7 13 ∧
    decodeNum e2m1 (maxFinite e2m1) = .fin false 3 1 ∧ decodeNum fp16 (maxFinite fp16) = .fin false 2047 5 ∧
    decodeMxInt8 0x7F = .fin false 127 (-6) ∧ decodeNum e4m3 0x7F = .nan ∧ decodeNum e5m2 0xFC = .inf true := by decide +kernel

/-- 21 in E4M3 is a tie and goes to 20 (R151); 1,000 is past 448. -/
theorem test_convert :
    convertNum e4m3 .satFinite (decodeFp32 0x41A80000) false = 0x5A ∧ convertNum e4m3 .satFinite (decodeFp32 0x447A0000) false = 0x7E ∧
    convertNum e4m3 .special (decodeFp32 0x447A0000) false = 0x7F ∧ convertNum e5m2 .special (decodeFp32 0xFF800000) false = 0xFC ∧
    convertInt8 0 (decodeFp32 0xC3480000) = 0x80 ∧ convertInt8 0 .nan = 0 := by decide +kernel

/-- Sixteen products of ones make 16 (R147); a block of ones in MXFP8 takes the scale exponent 0 - 8 (R152). -/
theorem test_k_step :
    millStep e4m3 e4m3 0 (List.replicate 16 0x38) (List.replicate 16 0x38) = some (0x41800000, 0) ∧
    mxQuantize .e4m3 (List.replicate 32 0x3F800000) = (119, List.replicate 32 0x78) ∧
    mxStep e4m3 e4m3 0 119 119 (List.replicate 32 0x78) (List.replicate 32 0x78) = some (0x42000000, 0) ∧
    (mxStep e2m1 e2m1 0 0xFF 127 (List.replicate 32 2) (List.replicate 32 2)).map Prod.fst = some canonicalNan ∧
    intStep 0x7FFFFFFF (1 :: List.replicate 15 0) (List.replicate 16 1) = some (0x7FFFFFFF, 4) ∧ intStep 0 [1] [1] = none ∧
    (millStep bf16 fp16 0 (List.replicate 8 0) (List.replicate 8 0)).isNone = true ∧
    (mxStep e4m3 e2m1 0 127 127 (List.replicate 32 0) (List.replicate 32 0)).isNone = true := by decide +kernel

theorem test_meets_arithmetic :
    (0xFE < 2 ^ (1 + e4m3.expBits + e4m3.manBits) ∧ 0xFE % 2 ^ (e4m3.expBits + e4m3.manBits) ≤ maxFinite e4m3) ∧
    (ExactNum.nan ∈ [ExactNum.nan, .fin false 1 0] ∧ [ExactNum.nan, .fin false 1 0].length = 2 ^ 1) ∧
    ((0x7FFFFFFF : W32).toInt + intSum (List.replicate 16 0) (List.replicate 16 0) ≤ 2 ^ 31 - 1 ∧
      2 ^ 31 - 1 < (0x7FFFFFFF : W32).toInt + intSum (List.replicate 16 1) (List.replicate 16 1) ∧
      (0x80000000 : W32).toInt + intSum (List.replicate 16 1) (List.replicate 16 0xFF) < -(2 ^ 31)) := by decide +kernel

/-! ### Witnesses: scheduling, memory events, detectors -/

/-- An entry point that takes every core of a hamlet with one croft in service. -/
def wide (kind : Nat) : Entry := { kind := kind, coreDemand := 72, cost := 100000 }

/-- A command of opcode `op` of slice 1 holds every core of hamlet 0, and a RUN of slice 0 waits, under almanac `a`. -/
def crowded (op : Byte) (a : Almanac) (wait : Nat) : Ctl := { world with
  hamlets := [(0, { assign := .granted, badCrofts := List.range 12, almanac := a, stepWait := wait, slotDue := true })], slices := [(0, slice0), (1, slice0)]
  models := [(7, { runModel with entries := [wide 1, wide 3] })]
  cmds := [(0, { running with slice := 1, opcode := op, parts := [(0, { state := .bound, cores := List.range 72 })] }),
    (1, ready1)] }

/-- An almanac whose one slot is slice 0's for 1 ms. -/
def alone : Almanac := { entries := [⟨1000, 1, 0⟩] }

/-- A stile and a command that stops at it. -/
def stile0 : Stile := ⟨10, 0, 0, 0, 0⟩

def parking (p : Part) : Cmd := { run with phase := .running, parts := [(0, p)] }

theorem test_meets_scheduling :
    (timeLe 0 (devNow world) = true ∧ timeLe 1 (devNow world) = false ∧
      ({ pendingAlmanac := some alone } : Hamlet).pendingAlmanac = some alone) ∧
    (alone.entries[({} : Hamlet).entryInForce]? = some ⟨1000, 1, 0⟩ ∧
      timeLe ((0 : W64) + BitVec.ofNat 64 (slotNs ⟨1000, 1, 0⟩)) (devNow { world with time := { device := 1000000 <<< 32 } }) = true) ∧
    (mayBind (crowded 3 {} 10) 0 = true ∧ (stepTrigger (crowded 3 {} 10) 0).isSome = true) ∧
    (mayBind (crowded 1 alone 1000) 0 = true ∧ (stepTrigger (crowded 1 alone 1000) 0).isNone = true ∧
      (getHam (crowded 1 alone 1000) 0).slotDue = true ∧ (getHam (crowded 1 alone 1000) 0).preempting = none) ∧
    ((stepTrigger world 0).isNone = true ∧ (getHam world 0).slotDue = false) ∧
    (applyGrants { world with reservations := [(0, { cls := 0, reserved := false, hamlets := 0, slices := [0], tenant := 0, share := 7 })] }).reservations
      ≠ { world with reservations := [(0, { cls := 0, reserved := false, hamlets := 0, slices := [0], tenant := 0, share := 7 })] }.reservations ∧
    (∃ e ∈ { world with tenants := [(0, { tenant5 with permitStrict := true })] }.tenants,
      strictInEffect { world with tenants := [(0, { tenant5 with permitStrict := true })] } e.1 = true) ∧
    (runsIn (parking { state := .bound, parkAt := some stile0 }) 0 = true ∧ stile0.wave = 0 ∧
      waitsIn (parking { state := .bound, parkAt := some stile0 }) 0 = false) ∧
    waitsIn { parking { state := .bound, parkAt := some stile0 } with waits := [.tally tile0 255] } 0 = true ∧
    unsettled (parking { state := .bound, parkAt := some stile0, parking := true }) = true := by decide +kernel

/-- `world` with a model whose spill pages lie in hamlet 0, and a command with its token. -/
def spilled : Ctl := { with1 { running with token := true } with
  models := [(7, { tenant := 0, entries := [{ kind := 1 }], records := [{ hamlet := 0, spillPages := 1 }] })] }

theorem test_meets_hbm :
    (readable world 0 (12 * 2 ^ 24 - 1) = true ∧ readable world 0 (12 * 2 ^ 24) = false) ∧
    (readable (with1 running) 0 0 = true ∧ Tbl.find? (with1 running).cmds 0 = some running ∧ running.token = false) ∧
    (readable spilled 0 0 = true ∧ isSpill spilled 0 (64 * 0 / 4096) = true ∧ (eccRead { toCtl := spilled } 0 0 (.uncorrectable true) id).2 = true ∧
      Tbl.find? spilled.cmds 0 = some { running with token := true }) ∧
    (let d := { world with hamlets := [(1, { assign := .filling })] }
     (getHam d 1).assign = .filling ∧ (getHam d 1).reset = none ∧ d.pkg.warm = none) ∧
    (getHam { world with hamlets := [(1, { assign := .filling, reset := some reset1 })] } 1).reset.isSome = true := by decide +kernel

theorem test_meets_detectors :
    world.pkg.life = .operating ∧ logCroft (getHam world 0) 11 = some 11 ∧ logCroft (getHam world 0) 12 = none ∧
    world.pkg.policyPackage = false ∧ fieldHamlet (.almanac 31) = some 31 ∧ fieldHamlet .strongboxSlots = none := by decide +kernel

theorem test_meets_fabric :
    awake world = true ∧ world.pkg.life ≠ .selftest ∧ awake { pkg := { life := .selftest } } = true ∧ world.pkg.life ≠ .failed ∧
    awake { pkg := { life := .failed } } = true ∧
    (pairState world.reeve 0 = .active ∧ pairState world.reeve 1 = .standby ∧ world.reeve.takeover = false) ∧
    (pairState { pair1 := .out } 0 = .active ∧ pairState { pair1 := .out } 1 ≠ .standby) ∧
    pairState { takeover := true } 1 = .standby ∧ pairState { pair1 := .selftest } 1 = .selftest := by decide +kernel

/-! ### Witnesses: recovery, roads' links, peers -/

def retirement0 : Retirement := { crofts := [0], start := 0 }

/-- `d` once `t` units of interval time have passed. -/
def at_time (t : Nat) (d : Ctl) : Ctl := { d with time := { d.time with interval := t } }

theorem test_meets_croft_recovery :
    (retirement0.spareOk = none ∧ hasSpare ({ retirement := some retirement0 } : Hamlet) = true) ∧
    (hasSpare ({ badCrofts := [3] } : Hamlet) = false ∧ gleans { world with tenants := [] } 0 = false ∧
      (getHam (withHam fun x => { x with badCrofts := [3], retirement := some retirement0 }) 0).retirement = some retirement0 ∧
      (getHam (withHam fun x => { x with badCrofts := [3], retirement := some retirement0 }) 0).reset = none) ∧
    world.reeve.takeover = false ∧ (getHam world 0).retirement = none ∧
    (getHam (withHam fun x => { x with channelRetiring := some 1 }) 0).channelRetiring.isSome = true ∧
    Tbl.find? (getHam (withHam fun x => { x with croftResets := [(12, { start := 0, reason := 0, collected := true })] }) 0).croftResets 12
      = some { start := 0, reason := 0, collected := true } := by decide +kernel

theorem test_meets_timeouts :
    (running.phase = .running ∧ unsettled running = true ∧ hangRuns running = true ∧
      running.bindTime + (hangLimit (at_time (us 20) (with1 running)) running - running.hangRun) ≤ now (at_time (us 20) (with1 running))) ∧
    now (at_time (us 20 - 1) (with1 running)) < running.bindTime + (hangLimit (at_time (us 20 - 1) (with1 running)) running - running.hangRun) ∧
    ((at_time (us 20) (asked 1)).requests.find? fun q => q.hamlet == 0 && q.ttag == 9 && !q.deferred &&
      decide (q.time + us 20 ≤ now (at_time (us 20) (asked 1)))) = some (request9 1) ∧
    (∀ q ∈ (asked 1).requests, now (at_time (us 20 - 1) (asked 1)) < q.time + us 20) := by decide +kernel

def warm0 : WarmReset := { jseq := 1, start := 0, policy := false, counted := false, cause := 0x80, squashed := true }

theorem test_meets_resets_end :
    world.pkg.warm = none ∧
    (getHam (withHam fun x => { x with sampled := [0], reset := some { reset1 with squashed := true } }) 0).reset = some { reset1 with squashed := true } ∧
    ((getHam (withHam fun x => { x with retirement := some retirement0 }) 0).reset = none ∧ retirement0.collected = false) ∧
    (withPkg fun k => { k with warm := some warm0 }).pkg.warm = some warm0 ∧
    (gleanDue (withHam fun x => { x with reset := some { reset1 with squashed := true } }) 0 = false ∧
      reset1.start + us 100 ≤ now (at_time (us 100) world) ∧ reset1.answers = 0 ∧ reset1.release = false ∧ world.reeve.takeover = false) ∧
    now (at_time (us 100 - 1) world) < reset1.start + us 100 ∧
    (warmReady (at_time (ms 2) (withPkg fun k => { k with warm := some warm0 })) warm0 = true ∧ warm0.policy = false) ∧
    warmReady (at_time (ms 2) (withPkg fun k => { k with warm := some { warm0 with policy := true } })) { warm0 with policy := true } = true ∧
    warm0.start + ms 180 ≤ now (at_time (ms 180) world) ∧ now (at_time (ms 180 - 1) world) < warm0.start + ms 180 := by decide +kernel

theorem test_meets_deadlines :
    ((getSlice (withSlice fun s => { s with proc := some { kind := .reset, jseq := 1, start := 0 } }) 0).proc = some { kind := .reset, jseq := 1, start := 0 } ∧
      Machine.fenced (at_time (us 100) world) 0 = true) ∧
    ((getHam (withHam fun x => { x with reset := some reset1 }) 0).reset = some reset1 ∧ reset1.squashed = false) ∧
    (getHam (withHam fun x => { x with reset := some { reset1 with release := true } }) 0).reset = some { reset1 with release := true } ∧
    reset1.jseq ≠ 0 ∧
    (getHam (withHam fun x => { x with reset := some { reset1 with jseq := 0, release := true } }) 0).reset =
      some { reset1 with jseq := 0, release := true } ∧
    ({ warm0 with squashed := false } : WarmReset).squashed = false ∧
    (Tbl.find? { world with tenants := [(31, { tenant5 with state := .removing, removeStep := 1 })] }.tenants 31 =
      some { tenant5 with state := .removing, removeStep := 1 } ∧ tenant5.removeStart + us 100 ≤ now (at_time (us 100) world)) ∧
    Machine.fenced (at_time (us 100 - 1) world) 0 = false ∧
    (Tbl.find? (getHam (withHam fun x => { x with croftResets := [(12, { start := 0, reason := 0 })] }) 0).croftResets 12 = some { start := 0, reason := 0 } ∧
      0 + us 20 ≤ now (at_time (us 20) world)) ∧
    retirement0.start + ms 5 ≤ now (at_time (ms 5) world) ∧
    reset1.start + ms 2 + fenceExcess world ≤ now (at_time (ms 2) world) ∧
    (warm0.workDone = false ∧ warm0.start + ms 180 + fenceExcess world ≤ now (at_time (ms 180) world)) ∧
    fullLate (at_time (sec 9) { pkg := { life := .selftest } }) = true ∧ fullLate (at_time (sec 9 - 1) { pkg := { life := .selftest } }) = false := by
  decide +kernel

/-- A package in a life. -/
def living (l : PkgLife) (f : Package → Package) : Ctl := { pkg := f { life := l } }

/-- An intact block from road 60 of package 1 with sequence `n`. -/
def block1 (n : Nat) : RoadBlock :=
  let a := leBytes 4 n ++ zeros 56
  let la := a ++ leBytes 4 (crc32c a).toNat
  let b := [0, 0, 0, 0, 1, 60, 0] ++ zeros 53
  { decodes := true, correctedCodewords := 3, linkA := la, flits := [], linkB := b ++ leBytes 4 (crc32c (la ++ b)).toNat }

theorem test_meets_road_link :
    (roadsOn world = true ∧ (getRoad world 63).state = .down) ∧
    (roadPeer (pkgNum world) 0 = 1 ∧ farRoadOf 0 = 60 ∧ (getRoad { world with roads := [(0, { state := .training })] } 0).state = .training) ∧
    (2 ≠ roadPeer (pkgNum world) 0 ∧ 61 ≠ farRoadOf 0) ∧
    (0 + ms 5 ≤ now (at_time (ms 5) world) ∧ now (at_time (ms 5 - 1) world) < 0 + ms 5) ∧
    ((getRoad roadWorld 0).state = .up ∧ blockIntact (block1 1) = true ∧ identityHeld (getRoad roadWorld 0) (block1 1) = true ∧
      fld (block1 1).linkA 0 4 = ((getRoad roadWorld 0).rxAck + 1).toNat) ∧
    (identityHeld { getRoad roadWorld 0 with farGen := 1 } (block1 1) = false ∧
      identityHeld { getRoad roadWorld 0 with state := .fenced } (block1 1) = true) ∧
    (roadsOn (living .failed id) = false ∧ (getRoad roadWorld 1).state ≠ .up ∧ (getRoad roadWorld 1).state ≠ .fenced) ∧
    blockIntact { block1 1 with decodes := false } = false ∧
    (blockIntact (block1 2) = true ∧ identityHeld (getRoad roadWorld 0) (block1 2) = true ∧
      fld (block1 2).linkA 0 4 ≠ ((getRoad roadWorld 0).rxAck + 1).toNat) := by decide +kernel

theorem test_meets_routes :
    ((List.range 32).filter fun q => q != pkgNum roadWorld && routeTo roadWorld q != ((getPeer roadWorld q).route, (getPeer roadWorld q).via)) ≠ [] ∧
    ((List.range 32).filter fun q => q != pkgNum world && routeTo world q != ((getPeer world q).route, (getPeer world q).via)) = [] ∧
    ((getPeer { world with peers := [(31, { route := .direct, known := true })] } 31).route = .direct ∧
      (getPeer { world with peers := [(31, { route := .direct, known := true })] } 31).known = true ∧
      (getPeer { world with peers := [(31, { route := .direct, known := true })] } 31).lost = false ∧
      (getPeer world 31).lastBlock + us 20 ≤ now (at_time (us 20) world) ∧ now (at_time (us 20 - 1) world) < (getPeer world 31).lastBlock + us 20) ∧
    (tenant5.roadCur = some ⟨1, zeros 32⟩ ∧ tenant5.joined = true ∧ tenant5.barrier = none ∧
      2 ^ 47 ≤ topNonce { world with nonces := [(5, 2 ^ 47)] } tenant5) ∧
    (Tbl.find? (getHam (withHam fun x => { x with retiredTtags := [(9, 0)] }) 0).retiredTtags 9 = some 0 ∧
      0 + us 40 ≤ now (at_time (us 40) world) ∧ now (at_time (us 40 - 1) world) < 0 + us 40) := by decide +kernel

/-! ### Witnesses: power, self-test, the board, host ports -/

/-- The state in which the outcome of self-test phase `n` is judged, after the phases before it. -/
def judged (n : Nat) (f : Package → Package) (r : PhaseResult) : Ctl :=
  testHamlets (r.failed.foldl (unitFailed n) (phaseWork (living .selftest fun k => f { k with phase := n - 1 }) n)) n

/-- A phase that passed, and one that met its lantern condition. -/
def passed : PhaseResult := { durationMs := 1 }
def met : PhaseResult := { durationMs := 1, lantern := true }

theorem test_meets_power :
    ((living .off fun k => { k with pwrOk := false }).pkg.life = .off ∧ (living .off fun k => { k with pwrOk := false }).pkg.pwrOk = false) ∧
    ((living .aux id).pkg.life = .aux ∧ (living .aux id).pkg.resetN = true ∧ (living .aux id).pkg.thermtrip = false) ∧
    (living .aux fun k => { k with resetN := false }).pkg.resetN = false ∧ awake world = true ∧ world.pkg.life = .operating ∧
    ((living .inReset fun k => { k with resetN := false }).pkg.life = .inReset ∧ (living .inReset id).pkg.pwrOk = true) ∧
    (living .selftest fun k => { k with refclk := false }).pkg.refclk = false ∧
    (living .failed fun k => { k with refclk := false, thermtrip := true }).pkg.thermtrip = true := by decide +kernel

theorem test_meets_selftest :
    ((living .selftest fun k => { k with phase := 0 }).pkg.life = .selftest ∧ (living .selftest id).pkg.refclk = true) ∧
    lanternCondition (judged 1 id passed) 1 passed = false ∧
    (lanternCondition (judged 5 id passed) 5 passed = false ∧
      (recordPhase (judged 5 id passed) 5 passed (lanternCondition (judged 5 id passed) 5 passed)).pkg.latch = false) ∧
    (lanternCondition (judged 5 (fun k => { k with latch := true }) passed) 5 passed = false ∧
      (recordPhase (judged 5 (fun k => { k with latch := true }) passed) 5 passed
        (lanternCondition (judged 5 (fun k => { k with latch := true }) passed) 5 passed)).pkg.latch = true) ∧
    lanternCondition (judged 8 id passed) 8 passed = false ∧ lanternCondition (judged 5 id met) 5 met = true ∧
    lanternCondition (judged 6 id met) 6 met = true := by decide +kernel

theorem test_meets_board :
    (i3cUp world = true ∧ Tbl.find? world.pkg.avsTimes 3 = none ∧ 800 % 5 = 0 ∧ 650 % 5 = 0) ∧
    (withPkg fun k => { k with flash := [.charter 1 true [1]] }).pkg.flash = .charter 1 true [1] :: [] ∧
    (withPkg fun k => { k with flash := [.firmware 1 true [1]] }).pkg.flash = .firmware 1 true [1] :: [] ∧ ([1] : Bytes) ≠ [] ∧
    world.pkg.flash = [] ∧ world.pkg.life ≠ .off ∧ world.pkg.resetN = true ∧ (living .inReset fun k => { k with resetN := false }).pkg.life ≠ .off := by
  decide +kernel

theorem test_meets_host_ports :
    (awake world = true ∧ (getPort world .ha).linkUp = true ∧ (getPort { world with portB := {} } .hb).linkUp = false) ∧
    (mayTrain { world with portB := { perst := false } } .hb = true ∧ 128 ≤ (optionsOf world .hb).rate ∧ 16 ≤ (optionsOf world .hb).width) ∧
    mayTrain world .hb = false ∧ (optionsOf world .hb).rate < 129 ∧ world.pkg.resetN = true ∧
    (living .inReset fun k => { k with resetN := false }).pkg.resetN = false ∧
    (withPkg fun k => { k with deviceId := none }).pkg.deviceId = none ∧ world.pkg.deviceId = some 0x0040 ∧
    (0xFFC : BitVec 12) ≠ 0x000 ∧ (0xFFC : BitVec 12) ≠ 0x008 ∧ (0xFFC : BitVec 12) ≠ 0x02C ∧
    (atcHolds { atc := [⟨1, 1, 0⟩] } 1 1 = true ∧ atcHolds { atc := [⟨1, 1, 0⟩] } 1 8 = false ∧ sliceOfPasid world .ha 1 = some 0 ∧
      inResultArea world .ha 1 1 = true ∧ inResultArea world .ha 1 8 = true ∧ inResultArea world .ha 1 9 = false) := by decide +kernel

/-! ### Witnesses: trust messages, SPDM -/

/-- A session of port HA that has last taken counter `c`. -/
def session1 (c : Option Nat) : SpdmSession := { id := 1, transcript := zeros 48, established := true, lastCounter := c }

/-- `world` with tenant `t` and slice `z`, and the session. -/
def trusting (t : Tenant) (z : Slice) (c : Option Nat) : Ctl := { world with
  tenants := [(0, t)], slices := [(0, z)], portA := { linkUp := true, perst := false, sessions := [session1 c] } }

/-- A trust message: code, length, counter 7 of tenant 5, then its body. -/
def trustMsg (r : TrustRow) (body : Bytes) : Bytes := padTo r.length (leBytes 2 r.code ++ leBytes 2 r.length ++ [5, 0, 0, 0, 7] ++ zeros 7 ++ body)

/-- The state in which the message runs. -/
def trustState (d : Ctl) (r : TrustRow) (m : Bytes) : Ctl :=
  let d' := modSession d .ha 1 fun q => { q with used := now d }
  let e : JEntry := {
    master := pfMaster .ha, source := .doe .ha, opcode := 0x9000 + r.code, obj := trustObj r m, arrival := mclk d
    args := leBytes 4 1 ++ m }
  beginOrder (enter d' e) d'.reeve.nextJseq

/-- A trust message of session 1 runs, in a state with `P`. -/
def MeetsT (d : Ctl) (r : TrustRow) (m : Bytes) (P : SpdmSession → Ctl → Prop) : Prop :=
  ∃ q b, TrustRuns (at_ d) .ha r 1 m q b ∧ P q b

theorem meets_trust {d : Ctl} {r : TrustRow} {m : Bytes} {P : SpdmSession → Ctl → Prop} {q : SpdmSession}
    (h : (doeUp d .ha = true ∧ (sessionOf d .ha 1).isSome = true ∧ trustForm r m = true ∧
      trustWinner (modSession d .ha 1 fun q => { q with used := now d }) .ha (0x9000 + r.code) (trustObj r m) = none ∧
      (blockers (enter (modSession d .ha 1 fun q => { q with used := now d }) {
        master := pfMaster .ha, source := .doe .ha, opcode := 0x9000 + r.code, obj := trustObj r m, arrival := mclk d
        args := leBytes 4 1 ++ m }) (modSession d .ha 1 fun q => { q with used := now d }).reeve.nextJseq (trustObj r m)).isEmpty = true ∧
      sessionOf (trustState d r m) .ha 1 = some q) ∧ P q (trustState d r m)) : MeetsT d r m P :=
  ⟨q, _, ⟨h.1.1, h.1.2.1, h.1.2.2.1, h.1.2.2.2.1, h.1.2.2.2.2.1, rfl, h.1.2.2.2.2.2⟩, h.2⟩

/-- A key epoch before the one in force. -/
def epoch0 : EpochKeys := { epoch1 with epoch := 0 }

theorem test_meets_trust :
    MeetsT (trusting { tenant5 with state := .created } slice0 none) rowClaim (trustMsg rowClaim []) (fun q b =>
      q.lastCounter = none ∧ tenantById b (fld (trustMsg rowClaim []) 4 2) = some (0, { tenant5 with state := .created })) ∧
    MeetsT (trusting tenant5 slice0 (some 6)) rowInstall (trustMsg rowInstall [0, 0, 2, 0]) (fun q b =>
      (q.lastCounter = some 6 ∧ fld (trustMsg rowInstall [0, 0, 2, 0]) 8 4 = 7) ∧ tenantById b 5 = some (0, tenant5) ∧ tenant5.state = .claimed ∧
      (getSlice b 0).state ≠ .free ∧ (getSlice b 0).tenant = 0 ∧ (getSlice b 0).state ≠ .frozen ∧
      (((getSlice b 0).keys.current.map EpochKeys.epoch).getD 0) < fld (trustMsg rowInstall [0, 0, 2, 0]) 18 2) ∧
    MeetsT (trusting tenant5 { slice0 with keys := { current := some epoch1, previous := some epoch0 } } none) rowRetire (trustMsg rowRetire [0, 0, 0, 0])
      (fun _ b => (getSlice b 0).keys.previous = some epoch0 ∧ epoch0.epoch = fld (trustMsg rowRetire [0, 0, 0, 0]) 18 2) ∧
    MeetsT (trusting tenant5 slice0 none) rowStatus (trustMsg rowStatus []) (fun _ b => tenantById b 5 = some (0, tenant5)) ∧
    MeetsT (trusting tenant5 slice0 none) rowArm (trustMsg rowArm []) (fun _ b => tenant5.permitMigration = true ∧
      (getSlice b 0).state ≠ .free ∧ (getSlice b 0).tenant = 0 ∧ featureOn (getSlice b 0) 10 = true) ∧
    MeetsT (trusting { tenant5 with ident := 6 } slice0 none) rowStatus (trustMsg rowStatus []) (fun _ b => tenantById b 5 = none) ∧
    MeetsT (trusting tenant5 slice0 (some 7)) rowStatus (trustMsg rowStatus []) (fun q b => tenantById b 5 = some (0, tenant5) ∧
      q.lastCounter = some 7 ∧ fld (trustMsg rowStatus []) 8 4 ≤ 7) ∧
    MeetsT (trusting tenant5 slice0 none) rowClaim (trustMsg rowClaim []) (fun q _ => q.lastCounter = none ∧ tenant5.state = .claimed) ∧
    MeetsT (trusting { tenant5 with permitMigration := false } slice0 none) rowArm (trustMsg rowArm []) (fun q b => q.lastCounter = none ∧
      tenantById b 5 = some (0, { tenant5 with permitMigration := false })) :=
  ⟨meets_trust (q := session1 none) (by decide +kernel), meets_trust (q := session1 (some 6)) (by decide +kernel),
   meets_trust (q := session1 none) (by decide +kernel), meets_trust (q := session1 none) (by decide +kernel),
   meets_trust (q := session1 none) (by decide +kernel), meets_trust (q := session1 none) (by decide +kernel),
   meets_trust (q := session1 (some 7)) (by decide +kernel), meets_trust (q := session1 none) (by decide +kernel),
   meets_trust (q := session1 none) (by decide +kernel)⟩

/-- `world` with port HA in a state of its SPDM connection, and a session that awaits FINISH. -/
def spdm (v c a : Bool) : Ctl := { world with
  portA := { linkUp := true, perst := false, spdmVersion := v, spdmCaps := c, spdmAlgs := a, sessions := [{ id := 1, transcript := [] }] } }

/-- The base point of the curve as a public key. -/
def basePoint : Bytes := beBytes 48 p384Gx ++ beBytes 48 p384Gy

theorem asks_of {d : Ctl} {req : Bytes} {code least : Nat} (h : doeUp d .ha = true ∧ fld req 1 1 = code ∧ least ≤ req.length ∧ fld req 0 1 = 0x12) :
    SpdmAsks d .ha req code least := h

theorem test_meets_spdm :
    (doeUp world .ha = true ∧ fld [0x10, 0x84, 0, 0] 1 1 = 0x84) ∧
    (SpdmAsks (spdm true false false) .ha ([0x12, 0xE1] ++ zeros 18) 0xE1 20 ∧ (getPort (spdm true false false) .ha).spdmVersion = true) ∧
    (SpdmAsks world .ha ([0x12, 0xE1] ++ zeros 18) 0xE1 20 ∧ (getPort world .ha).spdmVersion = false) ∧
    (SpdmAsks (spdm true true false) .ha ([0x12, 0xE3] ++ zeros 6 ++ [0x80, 0, 0, 0, 2] ++ zeros 19) 0xE3 32 ∧
      bitOf (fld ([0x12, 0xE3] ++ zeros 6 ++ [0x80, 0, 0, 0, 2] ++ zeros 19) 8 4) 7 = true ∧
      bitOf (fld ([0x12, 0xE3] ++ zeros 6 ++ [0x80, 0, 0, 0, 2] ++ zeros 19) 12 4) 1 = true) ∧
    (SpdmAsks (spdm true true true) .ha [0x12, 0x81, 0, 0] 0x81 4 ∧ negotiated (spdm true true true) .ha = true) ∧
    SpdmAsks (spdm true true true) .ha ([0x12, 0x82] ++ zeros 6) 0x82 8 ∧
    SpdmAsks (spdm true true true) .ha ([0x12, 0x83] ++ zeros 34) 0x83 36 ∧
    (SpdmAsks (spdm true true true) .ha [0x12, 0xE0, 0, 0] 0xE0 4 ∧ measureAsked (spdm true true true) 0 = some [] ∧
      measureAsked (spdm true true true) 47 = none ∧ measureAsked (spdm true true true) 16 = some [16]) ∧
    (SpdmAsks (spdm true true true) .ha ([0x12, 0xE0, 1] ++ zeros 34) 0xE0 4 ∧ bitOf (fld ([0x12, 0xE0, 1] ++ zeros 34) 2 1) 0 = true ∧
      37 ≤ ([0x12, 0xE0, 1] ++ zeros 34 : Bytes).length) ∧
    (SpdmAsks (spdm true true true) .ha ([0x12, 0xE4] ++ zeros 38 ++ basePoint ++ zeros 2) 0xE4 138 ∧
      ecKeyValid (sub ([0x12, 0xE4] ++ zeros 38 ++ basePoint ++ zeros 2) 40 96) = true) ∧
    (SpdmAsks (spdm true true true) .ha ([0x12, 0xE5] ++ zeros 50) 0xE5 52 ∧
      ((getPort (spdm true true true) .ha).sessions.find? fun n => n.id == 1 && !n.established) = some { id := 1, transcript := [] } ∧
      ((getPort (spdm true true true) .ha).sessions.find? fun n => n.id == 2 && !n.established) = none) := by
  refine ⟨by decide +kernel, ⟨asks_of (by decide +kernel), by decide +kernel⟩, ⟨asks_of (by decide +kernel), by decide +kernel⟩,
    ⟨asks_of (by decide +kernel), by decide +kernel⟩, ⟨asks_of (by decide +kernel), by decide +kernel⟩, asks_of (by decide +kernel),
    asks_of (by decide +kernel), ⟨asks_of (by decide +kernel), by decide +kernel⟩, ⟨asks_of (by decide +kernel), by decide +kernel⟩,
    ⟨asks_of (by decide +kernel), by decide +kernel⟩, ⟨asks_of (by decide +kernel), by decide +kernel⟩⟩

/-! ### PTP, PPS and the time sources -/

def head7 : PtpHeader := { domain := 0, sdoId := 0, source := 9, sourcePort := 1, seq := 4, correction := 0 }

/-- An Announce of a grandmaster of priority `n`. -/
def gm (n : Byte) : PtpAnnounceBody := {
  gmId := 1, priority1 := n, clockClass := 6, accuracy := 0x20, variance := 0, priority2 := 128, stepsRemoved := 0
  ptpTimescale := true, utcOffset := 37, utcValid := true }

/-- `world` with its time unit changed. -/
def timed (f : TimeUnit → TimeUnit) : Ctl := { world with time := f {} }

/-- The PTP port follows the grandmaster of priority 7. -/
def slave (p : PtpState) : TimeUnit → TimeUnit := fun t => { t with source := .ptp, ptp := { p with master := some (gm 7), masterPort := 9 } }

theorem test_meets_ptp_sync :
    (ptpOurs world head7 = true ∧ (gm 7).ptpTimescale = true ∧ world.time.ptp.master = none) ∧
    (ptpOurs (timed (slave {})) { head7 with source := 8 } = true ∧ (timed (slave {})).time.ptp.master = some (gm 7) ∧
      betterMaster { gm 6 with gmId := 2 } 8 (gm 7) 9 = true ∧ betterMaster { gm 8 with gmId := 2 } 8 (gm 7) 9 = false ∧
      announceLate (timed (slave {})) = false) ∧
    (ptpOurs (timed (slave {})) { head7 with logInterval := 0 } = true ∧ (-7 : Int) ≤ -7 ∧
      ptpOurs (timed (slave {})) { head7 with logInterval := -7, twoStep := true } = true ∧ head7.source = 9 ∧
      head7.twoStep = false) ∧
    (ptpOurs (timed (slave {})) { head7 with logInterval := 1 } = true ∧ (0 : Int) < 1 ∧
      ptpOurs (timed (slave {})) { head7 with logInterval := -8 } = true ∧ (-8 : Int) < -7) ∧
    (ptpOurs (timed (slave { pendingSync := some (4, 0, 0) })) head7 = true ∧
      (timed (slave { pendingSync := some (4, 0, 0) })).time.ptp.pendingSync = some (head7.seq.toNat, 0, 0)) ∧
    (timed (slave {})).time.ptp.pendingSync = none := by decide +kernel

theorem test_meets_ptp_delay :
    ((timed (slave {})).time.peerDelay = false ∧ (timed (slave {})).time.ptp.master.isSome = true) ∧
    (world.time.peerDelay = false ∧ world.time.ptp.master = none) ∧
    (timed (slave { pendingDelay := some (4, 100), lastPair := some (0, 0) })).time.ptp.pendingDelay = some (head7.seq.toNat, 100) ∧
    (timed (slave { pendingDelay := some (4, 100), lastPair := some (0, 0) })).time.ptp.lastPair = some (0, 0) ∧
    ((timed fun t => { t with peerDelay := true, ptp := { pendingDelay := some (4, 100) } }).time.peerDelay = true ∧
      ptpOurs (timed fun t => { t with peerDelay := true, ptp := { pendingDelay := some (4, 100) } }) head7 = true ∧
      ptpOurs (timed fun t => { t with peerDelay := true, ptp := { pendingPdelay := some (4, 1, 2, 3, 0) } }) head7 = true) := by
  decide +kernel

/-- The edge before came one second and `n` ns ago. -/
def edges (n : Nat) : Ctl := timed fun t => { t with interval := sec 5, ppsLast := some (sec 4 - n * 2 ^ 32) }

/-- A follower of package 1, whose road is UP. -/
def followWorld (lost : Bool) : Ctl := { roadWorld with
  time := { role := .follower, leader := 1, backup := some 0, source := .leader, lastReply := some 0, interval := ms 1 }
  peers := [(1, { lost := lost })] }

def backupWorld : Ctl := { world with time := { role := .backup, leader := 1, backup := some 0 }, peers := [(1, { lost := true })] }

theorem test_meets_pps_and_sources :
    (edgeValid (edges 1000) = true ∧ edgeValid (edges 1001) = false ∧ edgeValid world = true ∧ world.pkg.life = .operating) ∧
    (withPkg fun k => { k with life := .selftest }).pkg.life ≠ .operating ∧
    (∃ t, t = (timed fun t => { t with ppsOutEn := true, state := .locked, device := BitVec.ofNat 96 (1000000000 * 2 ^ 32) }) ∧
      t.time.ppsOutEn = true ∧ t.time.state = .locked ∧ (devNow t).toNat % 1000000000 < 4 ∧ t.time.ppsOutTime.toNat / 1000000000 ≠ (devNow t).toNat / 1000000000) ∧
    world.time.ppsOutEn = false ∧
    (∃ t, t = (timed fun t => { t with ppsOut := true, device := BitVec.ofNat 96 (100000000 * 2 ^ 32) }) ∧
      t.time.ppsOut = true ∧ timeLe (t.time.ppsOutTime + 100000000) (devNow t) = true) ∧
    timeLe (world.time.ppsOutTime + 100000000) (devNow world) = false ∧
    (announceLate (timed fun t => { slave {} t with interval := sec 3 }) = true ∧
      syncLate (timed fun t => { slave { lastAnnounce := some (sec 4) } t with interval := sec 4 }) = true ∧
      announceLate (timed (slave {})) = false ∧ syncLate (timed (slave {})) = false) ∧
    (repliesMissing (followWorld false) = true ∧ (followWorld false).time.source = .leader) ∧
    (∃ t, t = (timed fun t => { slave { lastAnnounce := some (sec 3) } t with source := .pps, config := 2, interval := sec 3 }) ∧
      edgesMissing t = true ∧ announceLate t = false ∧ t.time.ptp.master.isSome = true) ∧
    (∃ t, t = (timed fun t => { t with source := .pps, config := 1, interval := sec 3 }) ∧
      edgesMissing t = true ∧ t.time.config = 1) ∧
    (∃ t, t = (timed fun t => { t with state := .holdover, interval := sec 60 }) ∧
      t.time.state = .holdover ∧ t.time.holdoverStart + sec t.time.holdoverLimit ≤ now t) ∧
    now world < world.time.holdoverStart + sec world.time.holdoverLimit ∧
    (follows (followWorld false).time = true ∧ timeLeader (followWorld false) = 1 ∧ 1 ≠ pkgNum (followWorld false) ∧
      probeRoad (followWorld false) 1 = some 0 ∧ (followWorld false).pkg.warm = none) ∧
    follows world.time = false ∧
    (backupWorld.time.role = .backup ∧ (getPeer backupWorld backupWorld.time.leader).lost = true ∧ backupWorld.pkg.life = .operating) ∧
    (getPeer (followWorld false) (followWorld false).time.leader).lost = false := by
  refine ⟨by decide +kernel, by decide +kernel, ⟨_, rfl, by decide +kernel⟩, by decide +kernel, ⟨_, rfl, by decide +kernel⟩,
    by decide +kernel, by decide +kernel, by decide +kernel, ⟨_, rfl, by decide +kernel⟩, ⟨_, rfl, by decide +kernel⟩,
    ⟨_, rfl, by decide +kernel⟩, by decide +kernel⟩

/-! ### The whole block -/

theorem test_meets_step :
    (({ at_ world with pending := [.holdoverLimit] } : State).pending = .holdoverLimit :: []) ∧ MemOk State.reset ∧
    ((at_ world).pending = [] ∧ awake world = true ∧ world.pkg.refclk = true) ∧
    awake (withPkg fun k => { k with life := .off }) = false ∧ (withPkg fun k => { k with refclk := false }).pkg.refclk = false := by
  refine ⟨rfl, ?_, by decide +kernel, by decide +kernel, rfl⟩
  show Mem.wf [] = true
  rfl

theorem test_meets_idle :
    (world.portA.tx = [] ∧ world.portB.tx = [] ∧ world.roads.all (fun x => !x.2.linkDue) = true ∧ world.sheaves = []) ∧
    ∃ d : Ctl, ∃ t l, d.portA.tx = t :: l ∧ awake d = true ∧ d.pkg.refclk = true :=
  ⟨by decide +kernel, { world with portA := { world.portA with tx := [{ cls := 0, act := .msix .ha none 0 }] } }, _, _, rfl,
    by decide +kernel, rfl⟩

theorem test_meets_step_next : ∃ s', step (at_ world) = .next s' := ⟨_, rfl⟩

theorem test_meets_pins :
    (world.pkg.resetN = true ∧ world.pkg.thermtrip = false ∧ world.pkg.life = .operating) ∧
    (∃ d, d = withPkg (fun k => { k with life := .aux }) ∧ d.pkg.resetN = true ∧ awake d = false) ∧
    ((withPkg fun k => { k with thermtrip := true }).pkg.thermtrip = true ∧ (withPkg fun k => { k with thermtrip := true }).pkg.phase ≠ 0 ∧
      (withPkg fun k => { k with thermtrip := true, phase := 0 }).pkg.phase = 0) := by
  exact ⟨by decide +kernel, ⟨_, rfl, by decide +kernel⟩, rfl, by decide +kernel, rfl⟩

/-- EXTEST is loaded while the package operates, and engages when PKG_RESET_N asserts (18, "EXTEST is loaded"). -/
theorem test_extest_engages :
    (pins (withPkg fun k => { k with jtag := .extest })).ready = .high ∧
    (pins (withPkg fun k => { k with jtag := .extest, resetN := false, life := .inReset })).ready = .scan := by decide +kernel

/-- A message whose tag is no tag does not open. -/
theorem openMsg_untagged {d : Ctl} {op : Nat} {m : RoadMsg} (h : m.tag.length ≠ 16) : openMsg d op m = none := by
  rw [openMsg, Option.bind_eq_none_iff]
  intro k _
  rw [gcmOpen, if_neg]
  intro e
  exact h (by rw [← e, length_gcmTag])

/-- A sealed message opens. -/
theorem openMsg_sealed {d : Ctl} {op : Nat} {m : RoadMsg} (h : messageKey d m = some (zeros 32)) :
    (openMsg d op (sealed op m)).isSome = true := by
  have hk : messageKey d (sealed op m) = some (zeros 32) := h
  have ht : gcmTag (zeros 32) (roadNonce (sealed op m)) (headAad op (sealed op m)) (sealed op m).data = (sealed op m).tag := rfl
  simp only [openMsg, hk, Option.bind_some, gcmOpen, if_pos ht, Option.isSome_some]

/-- `roadWorld` with a job of tenant 5 whose generation 3 is dead. -/
def jobWorld : Ctl := { roadWorld with jobs := [(0, { ident := 4, gen := 4, abort := false, slices := [], dead := [3] })] }

/-- Road 0 last delivered hop sequence 8 before its replay. -/
def seqWorld : Ctl := { roadWorld with roads := [(0, { state := .up, farPkg := 1, farRoad := 60, hseqLast := some 8 })] }

/-- A message of opcode RD comes to its receive checks in a state with `P`. -/
def MeetsC (d : Ctl) (m : RoadMsg) (P : Ctl → Prop) : Prop :=
  ∃ e, e = buffer d 0x01 m ∧ roadTakes e 0 0x01 m = true ∧ fromLost e 0 m = false ∧ relayRoad e 0 m = none ∧ P e

theorem meets_check {d : Ctl} {m : RoadMsg} {P : Ctl → Prop} (h : roadUp (buffer d 0x01 m) 0 = true ∧ fromLost (buffer d 0x01 m) 0 m = false ∧
    (relayRoad (buffer d 0x01 m) 0 m).isNone = true ∧ P (buffer d 0x01 m)) : MeetsC d m P :=
  ⟨_, rfl, takes_buffer h.1, h.2.1, Option.isNone_iff_eq_none.mp h.2.2.1, h.2.2.2⟩

theorem test_meets_receive_checks :
    MeetsC roadWorld { tenantMsg 0 with dst := 32 } (fun e => endPkg 32 ≠ pkgNum e) ∧
    MeetsC roadWorld { tenantMsg 0 with tenant := 6 } (fun e => endPkg 0 = pkgNum e ∧ destOk e 0x01 { tenantMsg 0 with tenant := 6 } = false) ∧
    MeetsC roadWorld { tenantMsg 0 with epoch := 2 } (fun e => destOk e 0x01 { tenantMsg 0 with epoch := 2 } = true ∧
      epochOk e { tenantMsg 0 with epoch := 2 } = false) ∧
    MeetsC roadWorld (tenantMsg 0) (fun e => destOk e 0x01 (tenantMsg 0) = true ∧ epochOk e (tenantMsg 0) = true ∧
      openMsg e 0x01 (tenantMsg 0) = none) ∧
    (∃ m, m = sealed 0x01 { tenantMsg 0 with job := 4, jgen := 3 } ∧ MeetsC jobWorld m fun e =>
      destOk e 0x01 m = true ∧ epochOk e m = true ∧ (openMsg e 0x01 m).isSome = true ∧ isDead e m = true) ∧
    (∃ m, m = sealed 0x01 { tenantMsg 1 with hgen := 1 } ∧ MeetsC roadWorld m fun e =>
      destOk e 0x01 m = true ∧ epochOk e m = true ∧ (openMsg e 0x01 m).isSome = true ∧ isDead e m = false ∧ isStale e m = true) ∧
    (∃ m, m = sealed 0x01 { tenantMsg 0 with replayed := true, oroad := 60, hseq := 8 } ∧ MeetsC seqWorld m fun e =>
      destOk e 0x01 m = true ∧ epochOk e m = true ∧ (openMsg e 0x01 m).isSome = true ∧ isDead e m = false ∧ isStale e m = false ∧
      isDuplicate e 0 m = true) ∧
    roadTakes world 0 0x01 (tenantMsg 0) = false ∧
    (let e := buffer { roadWorld with peers := [(1, { lost := true })] } 0x01 (tenantMsg 0)
     roadTakes e 0 0x01 (tenantMsg 0) = true ∧ fromLost e 0 (tenantMsg 0) = true) := by
  refine ⟨meets_check (by decide +kernel), meets_check (by decide +kernel), meets_check (by decide +kernel),
    meets_check ⟨by decide +kernel, by decide +kernel, by decide +kernel, by decide +kernel, by decide +kernel, openMsg_untagged (by decide +kernel)⟩,
    ⟨_, rfl, meets_check ⟨by decide +kernel, by decide +kernel, by decide +kernel, by decide +kernel, by decide +kernel,
      openMsg_sealed (by decide +kernel), by decide +kernel⟩⟩,
    ⟨_, rfl, meets_check ⟨by decide +kernel, by decide +kernel, by decide +kernel, by decide +kernel, by decide +kernel,
      openMsg_sealed (by decide +kernel), by decide +kernel, by decide +kernel⟩⟩,
    ⟨_, rfl, meets_check ⟨by decide +kernel, by decide +kernel, by decide +kernel, by decide +kernel, by decide +kernel,
      openMsg_sealed (by decide +kernel), by decide +kernel, by decide +kernel, by decide +kernel⟩⟩,
    by decide +kernel, by decide +kernel, by decide +kernel⟩

/-- A journal entry of a master, in a state, for MB_IDENTIFY. -/
def entry (m : Nat) (st : JState) (at' : Nat) : JEntry :=
  { master := m, source := .pf .hb, opcode := 1, obj := .package, arrival := at', state := st }

/-- `world` with journal entries. -/
def journaled (l : List (Nat × JEntry)) : Ctl := { world with reeve := { journal := l, nextJseq := 7 } }

theorem test_meets_order_arrival :
    (reeveUp (withPkg fun k => { k with life := .lantern }) = true ∧
      sourceHolds (asks (withPkg fun k => { k with life := .lantern }) 4 []).toCtl 4 [] (.pf .ha) = true) ∧
    (reeveUp world = true ∧ sourceHolds (asks world 0x0107 []).toCtl 0x0107 [] (.pf .ha) = true) ∧
    sourceHolds (asks world 1 [0]).toCtl 1 [0] (.pf .ha) = true ∧
    winner (journaled [(2, entry 2 .executing 0)]) (pfMaster .ha) 1 .package = some 2 ∧
    (∃ d e, d = (asks (journaled [(2, entry 2 .executing 9)]) 1 []).toCtl ∧ sourceHolds d 1 [] (.pf .ha) = true ∧
      winner d (pfMaster .ha) 1 .package = none ∧
      e = enter (takeMailbox d .ha) (orderEntry d (.pf .ha) (pfMaster .ha) 1 [] (.ok [])) ∧
      (blockers e d.reeve.nextJseq .package).isEmpty = false) ∧
    (chanOrder world .fmRelay = none ∧ allZero ([1] : Bytes) = false) ∧
    (Tbl.find? (journaled [(2, entry 2 .waiting 0)]).reeve.journal 2 = some (entry 2 .waiting 0) ∧
      ∀ b ∈ blockers (journaled [(2, entry 2 .waiting 0)]) 2 .package, 2 ≤ b.1 ∧ b.2.state ≠ .executing) ∧
    (∃ b ∈ blockers (journaled [(1, entry 1 .executing 0), (2, entry 2 .waiting 0)]) 2 .package, b.1 < 2 ∨ b.2.state = .executing) ∧
    (Tbl.find? (journaled [(2, entry 2 .executing 0)]).reeve.journal 2 = some (entry 2 .executing 0) ∧
      (entry 2 .executing 0).state ≠ .waiting) := by
  refine ⟨by decide +kernel, by decide +kernel, by decide +kernel, by decide +kernel, ⟨_, _, rfl, ?_, ?_, rfl, ?_⟩,
    by decide +kernel, by decide +kernel, by decide +kernel, by decide +kernel⟩ <;> decide +kernel

/-- An envelope of a tag too short does not verify. -/
theorem test_meets_envelope_bad : envelopeOk world 1 { channel := .fmRelay, cookie := 0, counter := 1, bootNonce := 0, args := [], tag := [1] }
    = false := by
  simp only [envelopeOk, show world.pkg.mgmtKey = some (zeros 32) from rfl, Bool.and_eq_false_iff, beq_eq_false_iff_ne]
  refine .inl (.inl fun e => ?_)
  have := congrArg List.length e
  rw [length_gcmTag] at this
  exact absurd this (by decide)

theorem test_meets_layout :
    (31 : Fin 32) ≠ 0 ∧ peerOffset 0 31 = 31 ∧ peerOffset 31 0 = 1 ∧ (62 : Fin 64).val = 62 ∧
    physCroft { badCrofts := [0] } 0 = some 1 ∧ physCroft { badCrofts := [0] } 11 = some 12 ∧
    logCroft { badCrofts := [0] } 12 = some 11 ∧
    (getLane world 0 0).state ≠ .disabled ∧
    getSlice world 0 = getSlice { world with slices := [(0, slice0), (1, slice0)] } 0 ∧
    sliceCmds world 0 = sliceCmds { world with slices := [(0, slice0), (1, slice0)] } 0 ∧
    devNow world = devNow { world with slices := [(0, slice0), (1, slice0)] } := by decide +kernel

theorem test_meets_seals : ([] : Bytes) ≠ gcmTag (zeros 32) [] [] [] ∧ (3 : Nat) < 2 ^ 2 ∧ (2 : Nat).testBit 1 = true ∧
    (2 : W64).toNat.testBit 1 = true ∧ (1 : W64).toNat.testBit 1 = false := by
  refine ⟨fun e => ?_, by decide +kernel⟩
  have := congrArg List.length e
  rw [length_gcmTag] at this
  exact absurd this (by decide)

theorem test_meets_frames :
    (∃ s', exec (.shadowLoRead .reeve (.bar4 0) 8) (at_ world) = .next s') ∧ (∃ s', exec (.mbxAck .ha) (at_ world) = .next s') ∧
    (∃ s', exec (.wideReq .reeve 0 0) (at_ world) = .next s') ∧ (∃ s', exec (.wideAck .reeve) (at_ world) = .next s') ∧
    (∃ s', exec .holdoverLimit (at_ world) = .next s') ∧ (∃ s', exec .ptpDelayReqTimer (at_ world) = .next s') ∧
    (∃ s', exec (.lnSqTailWrite .ha 0 0 1) (at_ world) = .next s') ∧ (∃ s', exec (.lnCqHeadWrite .ha 0 0 0) (at_ world) = .next s') ∧
    (∃ s', exec (.postcardSlotWrite .ha 0 0 0 0 [1]) (at_ world) = .next s') ∧ (1 : Fin 256) ≠ 0 :=
  ⟨⟨_, rfl⟩, ⟨_, rfl⟩, ⟨_, rfl⟩, ⟨_, rfl⟩, ⟨_, rfl⟩, ⟨_, rfl⟩, ⟨_, rfl⟩, ⟨_, rfl⟩, ⟨_, rfl⟩, by decide⟩

theorem test_meets_time_events :
    (world.portA.ats = false ∧ world.portB.ats = false) ∧ (∀ e ∈ ({ world with slices := [] } : Ctl).slices, e.2.state ≠ .active) :=
  ⟨by decide +kernel, by intro e h; cases h⟩

theorem test_meets_stores :
    (memKey 0 0 + 1 ≤ memKey 0 4 ∧ ∀ k, k < 1 → (0 : Nat) < aliasBase → memKey 0 4 ≠ memKey 0 (mirrorOf (0 + k))) ∧
    (∀ j, j < 1 → (0 : Nat) < aliasBase → mirrorOf (0 + j) ≠ 0 + 0) ∧
    (∀ w ∈ ([(0, [7])] : List (Nat × Bytes)), (4 < w.1 ∨ w.1 + w.2.length ≤ 4) ∧ ∀ k, k < w.2.length → w.1 % 2 ^ 43 < aliasBase →
      4 ≠ memKey (w.1 / 2 ^ 43) (mirrorOf (w.1 % 2 ^ 43 + k))) := by decide +kernel

/-! ### Ill-formed commands are refused -/

/-- A message, an envelope source and a block of the right sizes. -/
def okMsg : RoadMsg := { tenantMsg 0 with tag := zeros 16 }
def okEnv : Envelope := { channel := .mgmt, cookie := 0, counter := 1, bootNonce := 0, args := [], tag := zeros 16 }
def okBlock : RoadBlock :=
  { decodes := true, correctedCodewords := 0, linkA := zeros 64, flits := List.replicate 25 (zeros 64), linkB := zeros 64 }

theorem test_wf_accepts :
    Instr.wf (.rd 0 okMsg) = true ∧ Instr.wf (.mbIdentify (.env okEnv)) = true ∧ Instr.wf (.roadBlockReceived 0 okBlock) = true ∧
    Instr.wf (.postcardSlotWrite .ha 0 0 0 255 [1]) = true ∧ Instr.wf (.registerWrite .reeve (.bar4 0) 4 7 .none) = true ∧
    Instr.wf (.descriptorFetchDone 0 0 (.ok (zeros 64))) = true ∧ Instr.wf (.thermalSample 4 (List.replicate 8 30)) = true ∧
    Instr.wf (.avsTargetChange 0 650) = true ∧ Instr.wf (.linkUp .ha 128 16) = true ∧ Instr.wf .holdoverLimit = true := by
  decide +kernel

theorem test_wf_refuses_messages :
    Instr.wf (.rd 0 { okMsg with tag := [] }) = false ∧ Instr.wf (.live 0 { okMsg with data := zeros 1025 }) = false ∧
    Instr.wf (.mbIdentify (.env { okEnv with args := zeros 257 })) = false ∧ Instr.wf (.mbReboot (.env { okEnv with tag := [] })) = false ∧
    Instr.wf (.mbReboot (.env { okEnv with channel := .tc })) = false ∧
    Instr.wf (.tenantClaim .ha 1 (zeros 15)) = false ∧ Instr.wf (.getVersion .ha (zeros 3)) = false ∧
    Instr.wf (.roadBlockReceived 0 { okBlock with linkA := [] }) = false ∧ Instr.wf (.roadBlockReceived 0 { okBlock with linkB := [] }) = false ∧
    Instr.wf (.roadBlockReceived 0 { okBlock with flits := [zeros 64] }) = false ∧
    Instr.wf (.roadBlockReceived 0 { okBlock with flits := List.replicate 25 (zeros 63) }) = false ∧
    Instr.wf (.ptpAnnounce { head7 with domain := 128 } (gm 1)) = false := by decide +kernel

theorem test_wf_refuses_operands :
    Instr.wf (.postcardSlotWrite .ha 0 0 0 255 [1, 2]) = false ∧ Instr.wf (.postcardSlotWrite .ha 0 0 0 0 []) = false ∧
    Instr.wf (.registerWrite .reeve (.bar4 0) 4 0x100000000 .none) = false ∧ Instr.wf (.registerWrite .reeve (.bar4 0) 2 0 .none) = false ∧
    Instr.wf (.descriptorFetchDone 0 0 (.ok (zeros 63))) = false ∧ Instr.wf (.tileComplete 0 tile0 { writes := [(0, [])] }) = false ∧
    Instr.wf (.tileComplete 0 tile0 { flags := [(864, 1)] }) = false ∧
    Instr.wf (.tileComplete 0 tile0 { reads := [(0, 0)] }) = false ∧ Instr.wf (.tileComplete 0 tile0 { registers := [(65535, [1, 2])] }) = false ∧ Instr.wf (.remoteRead ⟨0, tile0⟩ 0 0) = false ∧ Instr.wf (.remoteWrite ⟨0, tile0⟩ 0 []) = false ∧
    Instr.wf (.correctedWriteback 0 201326592) = false ∧ Instr.wf (.patrolScrub 0 201326592 .clean) = false ∧ Instr.wf (.granaryEcc 0 256 .corrected []) = false ∧ Instr.wf (.spadEcc 0 0 4194304 true) = false ∧
    Instr.wf (.bridge 0 0) = false ∧ Instr.wf (.thermalSample 0 (List.replicate 8 30)) = false ∧
    Instr.wf (.avsTargetChange 0 645) = false ∧ Instr.wf (.avsTargetChange 0 652) = false ∧
    Instr.wf (.configRequest .ha 2 none) = false ∧ Instr.wf (.linkUp .ha 64 3) = false ∧ Instr.wf (.linkUp .ha 65 16) = false ∧
    Instr.wf (.selftestPhaseDone { durationMs := 65536 }) = false ∧
    Instr.wf (.selftestPhaseDone { durationMs := 0, failed := [⟨7, 0, 0⟩] }) = false ∧
    Instr.wf (.gleaningsCollected 0 { cores := [(864, { state := 0, flags := 0, pc := 0, cycles := 0 })], samples := [], badWords := 0 }) = false ∧
    Instr.wf (.gleaningsCollected 0 { cores := [], samples := [(0, [])], badWords := 0 }) = false := by decide +kernel

end Sys2Proof.Tests
end

section
/-! SUPPORT. Register writes (R14, R63, R437 to R440, R496, R498, R501): what a write of each address space does, said once,
and the statement about them. -/

namespace Sys2Proof.Machine
open Sys2Proof

theorem setCtl_toCtl (s : State) : setCtl s s.toCtl = s := rfl

/-! ### The address spaces of an operating package (R24, R63) -/

theorem barUp_of_operating {d : Ctl} (a : RegAddr) (h : d.pkg.life = .operating) : barUp d a = true := by
  cases a <;> simp [barUp, h]

theorem exec_registerWrite (s : State) (src : RegSource) (a : RegAddr) (width : Nat) (v : W64) (hw : HwUpdate) :
    exec (.registerWrite src a width v hw) s = execRegisterWrite src a width v hw s := rfl

section Spaces
variable {s : State} (src : RegSource) (width : Nat) (v : W64) (hw : HwUpdate)

theorem exec_registerWrite_bar2 (off : BitVec 20) (h : s.toCtl.pkg.life = .operating) :
    exec (.registerWrite src (.bar2 off) width v hw) s =
      .next (setCtl s (bar2Access s.toCtl src off.toNat width v hw)) := by
  simp [exec_registerWrite, execRegisterWrite, onCtl, barUp_of_operating _ h, setCtl]

/-- The registers of a lane window lie below its postcard slots (R61, R62). -/
theorem exec_registerWrite_laneAccess (i : Fin 256) (l : Fin 64) {off : BitVec 10}
    (h : s.toCtl.pkg.life = .operating) (ho : off.toNat < 0x100) :
    exec (.registerWrite src (.bar0 i l off) width v hw) s =
      .next (setCtl s (laneAccess s.toCtl src i.val l.val off.toNat width v hw)) := by
  simp [exec_registerWrite, execRegisterWrite, onCtl, barUp_of_operating _ h, setCtl, bar0Access, ho]

theorem exec_registerWrite_bar4 (off : BitVec 16) (h : s.toCtl.pkg.life = .operating) :
    exec (.registerWrite src (.bar4 off) width v hw) s =
      .next (setCtl s (bar4Access s.toCtl src off.toNat width v)) := by
  simp [exec_registerWrite, execRegisterWrite, onCtl, barUp_of_operating _ h, setCtl]

end Spaces

/-! ### BAR2 accesses (R438, R440, R496, R498) -/

section Bar2
variable {d : Ctl} (src : RegSource) {off width : Nat} (v : W64) (hw : HwUpdate)

theorem bar2Access_of_not_goodAccess (h : goodAccess off width = false) :
    bar2Access d src off width v hw = setRegErr d 1 := by
  simp [bar2Access, h]

theorem bar2Access_counter {c : W64} (hl : d.pkg.life = .operating) (hg : goodAccess off width = true)
    (hc : counterAt d (off - off % 8) = some c) :
    bar2Access d src off width v hw = setCounter d (off - off % 8)
      (BitVec.ofNat 64 (collide .counter 64 c.toNat (counterLoad (off % 8 != 0) width v) hw)) := by
  simp [bar2Access, hg, hl, hc]

theorem bar2Access_word (hl : d.pkg.life = .operating) (hg : goodAccess off 4 = true)
    (hc : counterAt d (off - off % 8) = none) :
    bar2Access d src off 4 v hw = bar2Write d src off (v.extractLsb' 0 32) hw := by
  simp [bar2Access, hg, hl, hc]

end Bar2

/-- The Hearth block has its counters from 0x048 on (R503). -/
theorem counterAt_of_lt (d : Ctl) {off : Nat} (h : off < 0x048) : counterAt d off = none := by
  rw [counterAt, if_neg (by omega), if_neg (by omega), if_neg (by omega), if_neg (by omega)]

/-- The PF mailbox block, the wide mailbox block and the ledger block hold no counter (R422, R445, R505). -/
theorem counterAt_of_mailboxes (d : Ctl) {off : Nat} (h : 0x1000 ≤ off) (h' : off < 0x4000) : counterAt d off = none := by
  rw [counterAt, if_neg (by omega), if_neg (by omega), if_neg (by omega), if_neg (by omega)]

section Bar2Write
variable (d : Ctl) (src : RegSource) (v : W32) (hw : HwUpdate)

theorem bar2Write_pfIrqEn :
    bar2Write d src 0x034 v hw = modReeve d fun r => { r with pfIrqEn := v.extractLsb' 0 3 } := rfl

theorem bar2Write_regErr :
    bar2Write d src 0x038 v hw =
      modReeve d fun r => { r with regErr := BitVec.ofNat 2 (collide .w1c 2 r.regErr.toNat (some v.toNat) hw) } := rfl

/-- HRT_ID is read-only (R14). -/
theorem bar2Write_id : bar2Write d src 0x000 v hw = d := by cases src <;> rfl

/-- The PF mailbox blocks are the ports' own (R422). -/
theorem bar2Write_mailbox_reeve {off : Nat} (h : 0x1000 ≤ off) (h' : off < 0x1800) : bar2Write d .reeve off v hw = d := by
  rw [bar2Write, if_neg (by omega), if_neg (by omega), if_neg (by omega), if_neg (by omega), if_neg (by omega)]

end Bar2Write

/-! ### Lane registers (R62, R63, R76) -/

section Lane
variable {d : Ctl} {p : Port} {i l : Nat} {off : Nat} (v : W64) (hw : HwUpdate)

/-- An aligned 32-bit write above the two ring pointers, in a window that answers. -/
theorem laneAccess_word (hg : goodAccess off 4 = true) (ho : 0x008 < off) (hl : windowLive d i l = true)
    (hp : windowOn d (.port p) i = true) :
    laneAccess d (.port p) i l off 4 v hw = laneRegWrite d i l off (v.extractLsb' 0 32) hw := by
  have h0 : off ≠ 0 := by omega
  have h8 : off ≠ 8 := by omega
  simp [laneAccess, hg, hl, hp, h0, h8]

theorem laneRegWrite_err (v : W32) (h : (getLane d i l).state ≠ .disabled) :
    laneRegWrite d i l 0x018 v hw =
      modLane d i l fun ln => { ln with err := BitVec.ofNat 5 (collide .w1c 5 ln.err.toNat (some v.toNat) hw) } := by
  simp [laneRegWrite, h]

theorem laneRegWrite_irqCtl (v : W32) (h : (getLane d i l).state ≠ .disabled) :
    laneRegWrite d i l 0x020 v hw =
      checkIrq (modLane d i l fun ln => { ln with irqCtl := v &&& 0xFFFFFF01#32 }) i l := by
  simp [laneRegWrite, h]

end Lane

/-! ### The MSI-X table (R75, R501) -/

theorem msixSet_data (e : MsixEntry) (v : W32) : msixSet e 8 v = { e with data := v } := rfl

/-- A masked entry that takes its data word stays masked, so nothing is raised. -/
theorem msixWrite_data_of_masked (d : Ctl) (p : Port) {off : Nat} (v : W32) (h8 : off % 16 = 8) (ho : off < 0x8000)
    (hm : (Tbl.getD (getPort d p).msix (off / 16) {}).masked = true) :
    msixWrite d p off v = modPort d p fun x => { x with
      msix := Tbl.modify x.msix (off / 16) {} fun e => { e with data := v } } := by
  have hstays : ({ Tbl.getD (getPort d p).msix (off / 16) {} with data := v } : MsixEntry).masked = true := hm
  simp only [msixWrite, if_pos ho, h8, msixSet_data, getPort_modPort_self, Tbl.modify, Tbl.getD_set_self, hstays, Bool.true_or,
    if_true]

theorem bar4Access_word (d : Ctl) (p : Port) {off : Nat} (v : W64) (hg : goodAccess off 4 = true) :
    bar4Access d (.port p) off 4 v = msixWrite d p off (v.extractLsb' 0 32) := by
  simp [bar4Access, hg]

/-! ### Aligned 32-bit writes of an operating package -/

section Words
variable {s : State} (v : W64) (hw : HwUpdate)

/-- An aligned 32-bit write of BAR2 to a register that is no counter. -/
theorem exec_registerWrite_bar2Word (src : RegSource) {off : BitVec 20} {n : Nat} (hn : off.toNat = n)
    (hlife : s.toCtl.pkg.life = .operating) (hg : goodAccess n 4 = true) (hc : counterAt s.toCtl (n - n % 8) = none) :
    exec (.registerWrite src (.bar2 off) 4 v hw) s =
      .next (setCtl s (bar2Write s.toCtl src n (v.extractLsb' 0 32) hw)) := by
  subst hn
  rw [exec_registerWrite_bar2 src 4 v hw off hlife, bar2Access_word src v hw hlife hg hc]

/-- An aligned 32-bit write of a port above the ring pointers of a lane window that answers. -/
theorem exec_registerWrite_laneWord {p : Port} {i : Fin 256} {l : Fin 64} {off : BitVec 10} (n : Nat) (hn : off.toNat = n)
    (hlife : s.toCtl.pkg.life = .operating) (hg : goodAccess n 4 = true) (hlo : 0x008 < n) (hhi : n < 0x100)
    (hlive : windowLive s.toCtl i.val l.val = true) (hon : windowOn s.toCtl (.port p) i.val = true) :
    exec (.registerWrite (.port p) (.bar0 i l off) 4 v hw) s =
      .next (setCtl s (laneRegWrite s.toCtl i.val l.val n (v.extractLsb' 0 32) hw)) := by
  subst hn
  rw [exec_registerWrite_laneAccess (.port p) 4 v hw i l hlife hhi, laneAccess_word v hw hg hlo hlive hon]

end Words

/-! ### The statement -/

/-- Settles O15, space by space: each clause is the access rule of its space followed by the equation of its register. -/
theorem registerWrites : Obligations.Register_writes := by
  unfold Obligations.Register_writes
  rintro s src p i l off width v hw n w rfl rfl hlife
  refine ⟨?counter, ?pfIrqEn, ?regErr, ?misaligned, ?id, ?mailbox, ?lane, ?msix⟩
  case counter =>
    intro c hg hc
    rw [exec_registerWrite_bar2 src width v hw off hlife, bar2Access_counter src v hw hlife hg hc]
  case pfIrqEn =>
    intro hn
    have hbits : (v.extractLsb' 0 32).extractLsb' 0 3 = v.extractLsb' 0 3 := BitVec.extractLsb'_extractLsb'_of_le (by decide)
    rw [exec_registerWrite_bar2Word v hw src hn hlife rfl (counterAt_of_lt _ (by decide)), bar2Write_pfIrqEn, hbits]
  case regErr =>
    intro hn
    rw [exec_registerWrite_bar2Word v hw src hn hlife rfl (counterAt_of_lt _ (by decide)), bar2Write_regErr]
  case misaligned =>
    intro hg
    rw [exec_registerWrite_bar2 src width v hw off hlife, bar2Access_of_not_goodAccess src v hw hg]
  case id =>
    intro hn
    rw [exec_registerWrite_bar2Word v hw src hn hlife rfl (counterAt_of_lt _ (by decide)), bar2Write_id, setCtl_toCtl]
  case mailbox =>
    rintro hg rfl hlo hhi
    rw [exec_registerWrite_bar2Word v hw .reeve rfl hlife hg (counterAt_of_mailboxes _ (by omega) (by omega)),
      bar2Write_mailbox_reeve _ _ _ hlo hhi, setCtl_toCtl]
  case lane =>
    intro hlive hon hst
    constructor
    · rw [exec_registerWrite_laneWord v hw 0x018 rfl hlife rfl (by decide) (by decide) hlive hon, laneRegWrite_err hw _ hst]
    · rw [exec_registerWrite_laneWord v hw 0x020 rfl hlife rfl (by decide) (by decide) hlive hon, laneRegWrite_irqCtl hw _ hst]
  case msix =>
    intro o ho hlt hm
    have hg : goodAccess o.toNat 4 = true := by simp [goodAccess]; omega
    rw [exec_registerWrite_bar4 (.port p) 4 v hw o hlife, bar4Access_word _ _ _ hg, msixWrite_data_of_masked _ _ _ ho hlt hm]

end Sys2Proof.Machine
end

section
/-! SUPPORT. Cabling and croft numbering (R29, R30, R45, R206): the far end of a road, the crofts in service as an ascending list,
and the statement about them. -/

namespace Sys2Proof.Machine
open Sys2Proof

/-! ### Cabling (R206) -/

theorem isReserve_iff (r : Nat) : isReserve r = true ↔ 62 ≤ r := by simp [isReserve]

theorem neighbour_neighbour (p : Nat) : neighbour (neighbour p) = p := by
  unfold neighbour
  split <;> split <;> omega

theorem farRoadOf_reserve {r : Nat} (h : 62 ≤ r) : farRoadOf r = r := if_pos ((isReserve_iff r).2 h)

theorem farRoadOf_mesh {r : Nat} (h : r < 62) : farRoadOf r = 2 * (30 - r / 2) + r % 2 := by
  rw [farRoadOf, if_neg (by rw [isReserve_iff]; omega)]
  omega

theorem roadPeer_reserve (p : Nat) {r : Nat} (h : 62 ≤ r) : roadPeer p r = neighbour p := if_pos ((isReserve_iff r).2 h)

theorem roadPeer_mesh (p : Nat) {r : Nat} (h : r < 62) : roadPeer p r = (p + r / 2 + 1) % 32 :=
  if_neg (by rw [isReserve_iff]; omega)

/-- The far end is a mesh road too: no mesh road meets a reserve road. -/
theorem farRoadOf_mesh_lt {r : Nat} (h : r < 62) : farRoadOf r < 62 := by rw [farRoadOf_mesh h]; omega

theorem farRoadOf_farRoadOf (r : Nat) : farRoadOf (farRoadOf r) = r := by
  rcases Nat.lt_or_ge r 62 with h | h
  · rw [farRoadOf_mesh (farRoadOf_mesh_lt h), farRoadOf_mesh h]; omega
  · rw [farRoadOf_reserve h, farRoadOf_reserve h]

/-- The offsets of the two ends of a mesh road add up to 32. -/
theorem roadPeer_roadPeer_farRoadOf {p : Nat} (hp : p < 32) (r : Nat) : roadPeer (roadPeer p r) (farRoadOf r) = p := by
  rcases Nat.lt_or_ge r 62 with h | h
  · rw [roadPeer_mesh p h, roadPeer_mesh _ (farRoadOf_mesh_lt h), farRoadOf_mesh h]; omega
  · rw [farRoadOf_reserve h, roadPeer_reserve _ h, roadPeer_reserve _ h, neighbour_neighbour]

/-! ### Crofts in service (R29, R30, R45) -/

theorem pairwise_inService (x : Hamlet) : (inService x).Pairwise (· < ·) :=
  (List.pairwise_lt_range.filter _).take

theorem nodup_inService (x : Hamlet) : (inService x).Nodup := (pairwise_inService x).imp Nat.ne_of_lt

theorem good_of_mem_inService {x : Hamlet} {c : Nat} (h : c ∈ inService x) : x.badCrofts.contains c = false ∧ c ≤ 12 := by
  obtain ⟨hr, hg⟩ := List.mem_filter.1 (List.mem_of_mem_take h)
  exact ⟨by simpa using hg, Nat.lt_succ_iff.1 (List.mem_range.1 hr)⟩

theorem croftCount_le (x : Hamlet) : croftCount x ≤ 12 := List.length_take_le _ _

theorem physCroft_lt {x : Hamlet} {j k a b : Nat} (hjk : j < k) (ha : physCroft x j = some a) (hb : physCroft x k = some b) :
    a < b := by
  obtain ⟨hj, rfl⟩ := List.getElem?_eq_some_iff.1 ha
  obtain ⟨hk, rfl⟩ := List.getElem?_eq_some_iff.1 hb
  exact List.pairwise_iff_getElem.1 (pairwise_inService x) j k hj hk hjk

theorem logCroft_eq_some_iff (x : Hamlet) (k c : Nat) :
    logCroft x c = some k ↔ c ∈ inService x ∧ (inService x).idxOf c = k := by
  simp [logCroft]

theorem physCroft_eq_some_iff_logCroft (x : Hamlet) (k c : Nat) : physCroft x k = some c ↔ logCroft x c = some k := by
  rw [logCroft_eq_some_iff, physCroft]
  constructor
  · intro h
    obtain ⟨hk, rfl⟩ := List.getElem?_eq_some_iff.1 h
    exact ⟨List.getElem_mem hk, (nodup_inService x).idxOf_getElem k hk⟩
  · rintro ⟨hc, rfl⟩
    exact List.getElem?_idxOf hc

/-! ### The statement -/

/-- Settles O55: mesh roads by the sum of the two offsets, reserve roads by the neighbour of the neighbour; croft numbers by the
strictly rising list of the crofts in service. -/
theorem cablingAndCrofts : Obligations.Cabling_and_crofts := by
  unfold Obligations.Cabling_and_crofts
  refine ⟨fun p r => ⟨?_, farRoadOf_farRoadOf r.val, roadPeer_roadPeer_farRoadOf p.isLt r.val⟩, fun x =>
    ⟨croftCount_le x, fun j k a b => physCroft_lt, physCroft_eq_some_iff_logCroft x, fun k c h => ?_⟩⟩
  · rcases Nat.lt_or_ge r.val 62 with h | h
    · exact (farRoadOf_mesh_lt h).trans (by decide)
    · rw [farRoadOf_reserve h]; exact r.isLt
  · exact good_of_mem_inService (List.mem_of_getElem? h)

end Sys2Proof.Machine
end

section
/-! SUPPORT. Roads as links (R47, R207, R214 to R216): what each event of training and each received block makes of the state, by
the state of its road, and the statement about them. -/

namespace Sys2Proof.Machine
open Sys2Proof

/-! ### Training (R47, R48, R207, R216) -/

section Training
variable {s : State} {r : Fin 64} {far : RoadIdentity}

theorem exec_roadTrainingStart (s : State) (r : Fin 64) : exec (.roadTrainingStart r) s = execRoadTrainingStart r s := rfl

theorem exec_roadTrainingDone (s : State) (r : Fin 64) (far : RoadIdentity) :
    exec (.roadTrainingDone r far) s = execRoadTrainingDone r far s := rfl

theorem exec_roadTrainingTimeout (s : State) (r : Fin 64) :
    exec (.roadTrainingTimeout r) s = execRoadTrainingTimeout r s := rfl

theorem exec_roadSignalLost (s : State) (r : Fin 64) : exec (.roadSignalLost r) s = execRoadSignalLost r s := rfl

theorem exec_roadTrainingStart_of_down (hon : roadsOn s.toCtl = true) (hx : (getRoad s.toCtl r.val).state = .down) :
    exec (.roadTrainingStart r) s = .next (setCtl s (leaveUp (modRoad s.toCtl r.val fun x => { x with
      trainStart := some (now s.toCtl) }) r.val .training)) := by
  simp [exec_roadTrainingStart, execRoadTrainingStart, onCtl, setCtl, hon, hx]

theorem exec_roadTrainingStart_of_not_roadsOn (hon : roadsOn s.toCtl = false) : exec (.roadTrainingStart r) s = .next s := by
  simp [exec_roadTrainingStart, execRoadTrainingStart, onCtl, hon]

theorem exec_roadTrainingDone_of_not_roadsOn (hon : roadsOn s.toCtl = false) :
    exec (.roadTrainingDone r far) s = .next s := by
  simp [exec_roadTrainingDone, execRoadTrainingDone, onCtl, hon]

/-- The end of a training: this package's identity goes out, and the far end's is learned and compared (R48, R216). -/
theorem exec_roadTrainingDone_of_training (hon : roadsOn s.toCtl = true) (hx : (getRoad s.toCtl r.val).state = .training) :
    exec (.roadTrainingDone r far) s = .next (setCtl s
      (let e := modRoad (sendIdentity s.toCtl r.val) r.val (learnFar far)
       if far.pkg.val ≠ roadPeer (pkgNum s.toCtl) r.val ∨ far.road.val ≠ farRoadOf r.val then leaveUp e r.val .mismatch
       else joinRoad e r.val far.pkg.val far.gen)) := by
  rw [exec_roadTrainingDone, execRoadTrainingDone, onCtl, if_neg (by simp [hon, hx])]
  rfl

theorem exec_roadTrainingDone_of_match (hon : roadsOn s.toCtl = true) (hx : (getRoad s.toCtl r.val).state = .training)
    (hp : far.pkg.val = roadPeer (pkgNum s.toCtl) r.val) (hr : far.road.val = farRoadOf r.val) :
    exec (.roadTrainingDone r far) s = .next (setCtl s
      (joinRoad (modRoad (sendIdentity s.toCtl r.val) r.val (learnFar far)) r.val far.pkg.val far.gen)) := by
  rw [exec_roadTrainingDone_of_training hon hx, if_neg (by simp [hp, hr])]

theorem exec_roadTrainingDone_of_mismatch (hon : roadsOn s.toCtl = true) (hx : (getRoad s.toCtl r.val).state = .training)
    (hne : far.pkg.val ≠ roadPeer (pkgNum s.toCtl) r.val ∨ far.road.val ≠ farRoadOf r.val) :
    exec (.roadTrainingDone r far) s = .next (setCtl s
      (leaveUp (modRoad (sendIdentity s.toCtl r.val) r.val (learnFar far)) r.val .mismatch)) := by
  rw [exec_roadTrainingDone_of_training hon hx, if_pos hne]

theorem exec_roadTrainingTimeout_of_elapsed {t : Nat} (hx : (getRoad s.toCtl r.val).state = .training)
    (ht : (getRoad s.toCtl r.val).trainStart = some t) (hle : t + ms 5 ≤ now s.toCtl) :
    exec (.roadTrainingTimeout r) s = .next (setCtl s (leaveUp (modRoad s.toCtl r.val fun x => { x with
      trainStart := none }) r.val .down)) := by
  simp [exec_roadTrainingTimeout, execRoadTrainingTimeout, onCtl, setCtl, hx, ht, hle]

theorem exec_roadTrainingTimeout_of_early {t : Nat} (ht : (getRoad s.toCtl r.val).trainStart = some t)
    (hlt : now s.toCtl < t + ms 5) : exec (.roadTrainingTimeout r) s = .next s := by
  simp [exec_roadTrainingTimeout, execRoadTrainingTimeout, onCtl, ht, Nat.not_le.2 hlt]

theorem exec_roadSignalLost_of_carrying (hx : (getRoad s.toCtl r.val).state = .up ∨ (getRoad s.toCtl r.val).state = .fenced ∨
    (getRoad s.toCtl r.val).state = .training) :
    exec (.roadSignalLost r) s = .next (setCtl s (modRoad (leaveUp s.toCtl r.val .down) r.val fun x => { x with
      fencedTx := false, fencedRx := false, trainStart := none })) := by
  simp [exec_roadSignalLost, execRoadSignalLost, onCtl, setCtl, hx]

end Training

/-! ### Blocks (R214 to R216) -/

section Blocks
variable {s : State} {r : Fin 64} {b : RoadBlock}

theorem exec_roadBlockReceived (s : State) (r : Fin 64) (b : RoadBlock) :
    exec (.roadBlockReceived r b) s = execRoadBlockReceived r b s := rfl

theorem exec_roadBlockReceived_of_idle (hup : (getRoad s.toCtl r.val).state ≠ .up) (hf : (getRoad s.toCtl r.val).state ≠ .fenced) :
    exec (.roadBlockReceived r b) s = .next s := by
  simp [exec_roadBlockReceived, execRoadBlockReceived, onCtl, hup, hf]

/-- A road that is UP or FENCED counts the corrected codewords, and then takes the block or NAKs it. -/
theorem exec_roadBlockReceived_of_open (hx : (getRoad s.toCtl r.val).state = .up ∨ (getRoad s.toCtl r.val).state = .fenced) :
    exec (.roadBlockReceived r b) s = .next (setCtl s
      (let x := getRoad s.toCtl r.val
       let d := countRoad s.toCtl r.val 0 b.correctedCodewords
       if blockIntact b && !identityHeld x b then
         (if x.state = .up then retrain (markNak d r.val b) r.val else markNak d r.val b)
       else if blockIntact b && fld b.linkA 0 4 == (x.rxAck + 1).toNat then acceptBlock d r.val b
       else nakBlock d r.val b)) := by
  rw [exec_roadBlockReceived, execRoadBlockReceived, onCtl, if_neg (by tauto)]
  rfl

end Blocks

/-! ### The statement -/

/-- Settles O36: the events of training by the state of the road and whether roads train, then a block by its checks in their
order: intact, of the trained identity, the next in sequence. -/
theorem roadLink : Obligations.Road_link := by
  unfold Obligations.Road_link
  constructor
  · rintro s r far x rfl
    refine ⟨exec_roadTrainingStart_of_down, ?_, fun hon => ⟨exec_roadTrainingStart_of_not_roadsOn hon,
      exec_roadTrainingDone_of_not_roadsOn hon⟩, fun t => exec_roadTrainingTimeout_of_elapsed,
      fun t => exec_roadTrainingTimeout_of_early, exec_roadSignalLost_of_carrying⟩
    rintro e rfl hon hx
    exact ⟨exec_roadTrainingDone_of_match hon hx, exec_roadTrainingDone_of_mismatch hon hx⟩
  · rintro s r b x d rfl rfl
    refine ⟨fun hx => ?_, exec_roadBlockReceived_of_idle⟩
    rw [exec_roadBlockReceived_of_open hx]
    refine ⟨fun hi hid hseq => ?next, fun hi hid => ?foreign, fun hi => ?damaged, fun hi hid hseq => ?outOfSequence⟩
    case next => simp [hi, hid, hseq]
    case foreign => simp [hi, hid]
    case damaged => simp [hi]
    case outOfSequence => rw [if_neg (by simp [hid]), if_neg (by simpa [hi] using hseq)]

end Sys2Proof.Machine
end

section
/-! SUPPORT. The detectors of the package fabric, of temperature and of the Reeve pairs (R46, R47, R366, R367, R372 to R374, R477,
R538, R539): what each event makes of a package that is powered and out of reset, and the statement about them. -/

namespace Sys2Proof.Machine
open Sys2Proof

/-! ### The package fault (R46, R366) -/

section FailPackage
variable {d : Ctl}

theorem failPackage_of_not_failed (ha : awake d = true) (hl : d.pkg.life ≠ .failed) (n u v : Nat) :
    failPackage d n u v =
      modPkg (pushHistory (fenceRoads (faultRecord d n 9 2 u v 0 0xFFFF 0)) 1 n true) fun k => { k with
        life := .failed, fullStart := now (pushHistory (fenceRoads (faultRecord d n 9 2 u v 0 0xFFFF 0)) 1 n true), warm := none } := by
  rw [failPackage, if_neg (by simp [ha]), if_neg hl]

theorem failPackage_of_failed (hl : d.pkg.life = .failed) (n u v : Nat) :
    failPackage d n u v = faultRecord d n 9 2 u v 0 0xFFFF 0 := by
  rw [failPackage, if_neg (by simp [awake, hl]), if_pos hl]

end FailPackage

/-! ### Fabric, clock, rails and temperature (R47, R367, R477, R538, R539) -/

section Fabric
variable {s : State} (ha : awake s.toCtl = true)
include ha

theorem exec_bridge_of_awake (f : Fin 4) (n : Nat) :
    exec (.bridge f n) s = .next (setCtl s
      (let e := modPkg s.toCtl fun k => { k with bridgeRetry := Tbl.modify k.bridgeRetry f.val 0 fun x => addCount x n }
       if n < 8 then countedFault e 0xA 0xFFFF 0xFF n
       else failPackage (modPkg e fun k => { k with bridgeBad := k.bridgeBad ++ [f.val] }) 0xA 0xFFFF 0xFF)) := by
  change execBridge f n s = _
  rw [execBridge, onCtl, if_neg (by simp [ha])]
  rfl

theorem exec_fieldNet_of_awake (f : Fin 4) :
    exec (.fieldNet f) s = .next (setCtl s
      (failPackage (modPkg s.toCtl fun k => { k with bridgeBad := k.bridgeBad ++ [8 + f.val] }) 0xB 0xFFFF 0xFF)) := by
  change execFieldNet f s = _
  rw [execFieldNet, onCtl, if_pos ha]
  rfl

theorem exec_hearthSram_of_awake (cache : Bool) :
    exec (.hearthSram cache) s = .next (setCtl s
      (if cache then alertFault s.toCtl 0xF 0xFFFF 0xFF else failPackage s.toCtl 0xF 0xFFFF 0xFF)) := by
  change execHearthSram cache s = _
  rw [execHearthSram, onCtl, if_neg (by simp [ha])]
  rfl

theorem exec_thermalSample_of_awake (g : Fin 5) (l : List Int) (hl : s.toCtl.pkg.life ≠ .failed) :
    exec (.thermalSample g l) s = .next (setCtl s (thermalSample s.toCtl g.val l)) := by
  change execThermalSample g l s = _
  rw [execThermalSample, onCtl, if_pos (by simp [ha, hl])]
  rfl

theorem exec_thermtrip_of_awake (g : Fin 5) :
    exec (.thermtrip g) s =
      .next (setCtl s (modPkg (failPackage s.toCtl 0x14 0xFFFF g.val) fun k => { k with thermtrip := true })) := by
  change execThermtrip g s = _
  rw [execThermtrip, onCtl, if_neg (by simp [ha])]
  rfl

end Fabric

theorem exec_cryptoKat (s : State) (g : Fin 16) :
    exec (.cryptoKat g) s = .next (setCtl s (failPackage s.toCtl 0x10 0xFFFF g.val)) := rfl

theorem exec_rail (s : State) (g : Fin 9) :
    exec (.rail g) s = .next (setCtl s (failPackage s.toCtl 0x12 0xFFFF g.val)) := rfl

/-- REFCLK's loss fails the package, but in self-test, which only stops (R47). -/
theorem exec_clock (s : State) :
    exec .clock s = .next (setCtl s
      (let e := modPkg s.toCtl fun k => { k with refclk := false }
       if s.toCtl.pkg.life = .selftest then e else failPackage e 0x11 0xFFFF 0xFF)) := rfl

/-! ### The Reeve pairs (R372 to R374) -/

section Pairs
variable {d : Ctl} {p n : Nat}

theorem reeveFault_of_active_of_standby (hp : pairState d.reeve p = .active) (hq : pairState d.reeve (1 - p) = .standby)
    (ht : d.reeve.takeover = false) :
    reeveFault d n p =
      modReeve (pairFails (faultRecord d n 7 2 p 0xFF 0 0xFFFF 0) p) fun r => { r with takeover := true } := by
  simp [reeveFault, hp, hq, ht]

/-- The last pair. -/
theorem reeveFault_of_active_of_not_standby (hp : pairState d.reeve p = .active) (hq : pairState d.reeve (1 - p) ≠ .standby) :
    reeveFault d n p = failPackage (pairFails d p) n p 0xFF := by
  simp [reeveFault, hp, hq]

theorem reeveFault_of_standby (hp : pairState d.reeve p = .standby) (ht : d.reeve.takeover = false) :
    reeveFault d n p = pairFails (faultRecord d n 7 2 p 0xFF 0 0xFFFF 0) p := by
  simp [reeveFault, hp, ht]

/-- The pair that was to take over. -/
theorem reeveFault_of_standby_of_takeover (hp : pairState d.reeve p = .standby) (ht : d.reeve.takeover = true) :
    reeveFault d n p = failPackage (pairFails d p) n p 0xFF := by
  simp [reeveFault, hp, ht]

variable {s : State}

theorem exec_reeveLock_of_awake (ha : awake s.toCtl = true) (p : Fin 2) :
    exec (.reeveLock p) s = .next (setCtl s (reeveFault s.toCtl 0xC p.val)) := by
  change execReeveLock p s = _
  rw [execReeveLock, onCtl, if_pos ha]
  rfl

theorem exec_reeveWdog_of_awake (ha : awake s.toCtl = true) (p : Fin 2) :
    exec (.reeveWdog p) s = .next (setCtl s (reeveFault s.toCtl 0xD p.val)) := by
  change execReeveWdog p s = _
  rw [execReeveWdog, onCtl, if_pos ha]
  rfl

theorem exec_reeveTakeoverDone_of_takeover (ht : s.toCtl.reeve.takeover = true) :
    exec .reeveTakeoverDone s = .next (setCtl s (modReeve s.toCtl fun r => { setPair r (1 - r.active) .active with
      active := 1 - r.active, takeover := false, takeovers := min 255 (r.takeovers + 1) })) := by
  change execReeveTakeoverDone s = _
  rw [execReeveTakeoverDone, onCtl, if_neg (by simp [ht])]
  rfl

theorem exec_reevePairReturn_of_selftest (p : Fin 2) (b : Bool) (hp : pairState s.toCtl.reeve p.val = .selftest) :
    exec (.reevePairReturn p b) s =
      .next (setCtl s (modReeve s.toCtl fun r => setPair r p.val (if b then .standby else .out))) := by
  change execReevePairReturn p b s = _
  rw [execReevePairReturn, onCtl, if_pos hp]
  rfl

end Pairs

/-! ### The statement -/

/-- Settles O32: each detector's event on an awake package, the two forms of the package fault, and a Reeve pair's fault by its own
state, the other pair's and whether a takeover is under way. The unit 0xFFFF of a fabric record (log 41), and that a further fault
of a failed package adds no history record (log 31), are the model's choices. -/
theorem fabricAndReeve : Obligations.Fabric_and_Reeve := by
  unfold Obligations.Fabric_and_Reeve
  constructor
  · rintro s f n d e rfl ha rfl
    refine ⟨fun hn => ?retried, fun hn => ?failed, exec_fieldNet_of_awake ha f, exec_hearthSram_of_awake ha true,
      exec_hearthSram_of_awake ha false, exec_cryptoKat s, fun hl => ?clockLost, fun hl => ?clockStops, exec_rail s,
      exec_thermalSample_of_awake ha, exec_thermtrip_of_awake ha, failPackage_of_not_failed ha, failPackage_of_failed⟩
    case retried => rw [exec_bridge_of_awake ha, if_pos hn]
    case failed => rw [exec_bridge_of_awake ha, if_neg (Nat.not_lt.2 hn)]
    case clockLost => rw [exec_clock, if_neg hl]
    case clockStops => rw [exec_clock, if_pos hl]
  · rintro s p d q rfl ha rfl
    rw [exec_reeveLock_of_awake ha, exec_reeveWdog_of_awake ha]
    refine ⟨fun hp hq ht => ?lockTakeover, fun hp hq => ?lockLast, fun hp hq ht => ?wdogTakeover, fun hp ht => ?wdogStandby,
      fun hp ht => ?wdogTaking, exec_reeveTakeoverDone_of_takeover, exec_reevePairReturn_of_selftest p⟩
    case lockTakeover => rw [reeveFault_of_active_of_standby hp hq ht]
    case lockLast => rw [reeveFault_of_active_of_not_standby hp hq]
    case wdogTakeover => rw [reeveFault_of_active_of_standby hp hq ht]
    case wdogStandby => rw [reeveFault_of_standby hp ht]
    case wdogTaking => rw [reeveFault_of_standby_of_takeover hp ht]

end Sys2Proof.Machine
end

section
/-! SUPPORT. The end of a command (R46, R68, R72, R76, R99 to R103, R165 to R168): token, delivery, completion entry and lane
interrupt, each with its conditions, and the statement about them. -/

namespace Sys2Proof.Machine
open Sys2Proof

section CommandEnd
variable {s : State} {c : Nat} {k : Cmd}

/-! ### The token (R103, R165, R166) -/

theorem commit_of_mayCommit {d : Dev} (hc : Tbl.find? d.cmds c = some k) (hj : jobsLost d.toCtl = false)
    (hm : mayCommit d.toCtl c k = true) :
    commit d c = withCtl (applyStaged (withCtl d fun d => issueToken d c k) c k (ownSets d.toCtl k)) fun d =>
      settled (finishCommit (sendCommits (commitContext d k) c k) c) := by
  simp [commit, hc, hj, hm]

theorem commit_of_refused {d : Dev} (hc : Tbl.find? d.cmds c = some k)
    (h : jobsLost d.toCtl = true ∨ mayCommit d.toCtl c k = false) : commit d c = d := by
  simp only [commit, hc]
  exact if_pos (by simpa using h)

/-- Commit or not, the procedure of the command's slice goes on. -/
theorem exec_commitToken (hc : Tbl.find? s.toCtl.cmds c = some k) :
    exec (.commitToken c) s =
      .next (setDev s (withCtl (commit s.toDev c) fun e => advanceSlice (shareUp s.toCtl e) k.slice)) := by
  change execCommitToken c s = _
  simp [execCommitToken, onDev, setDev, hc]

theorem exec_commitToken_of_mayCommit (hc : Tbl.find? s.toCtl.cmds c = some k) (hj : jobsLost s.toCtl = false)
    (hm : mayCommit s.toCtl c k = true) :
    exec (.commitToken c) s = .next (setDev s (withCtl (applyStaged (withCtl s.toDev fun d => issueToken d c k) c k
      (ownSets s.toCtl k)) fun d => advanceSlice (shareUp s.toCtl (settled (finishCommit
        (sendCommits (commitContext d k) c k) c))) k.slice)) := by
  rw [exec_commitToken hc, commit_of_mayCommit hc hj hm]
  rfl

theorem exec_commitToken_of_refused (hc : Tbl.find? s.toCtl.cmds c = some k)
    (h : jobsLost s.toCtl = true ∨ mayCommit s.toCtl c k = false) :
    exec (.commitToken c) s = .next (setCtl s (advanceSlice (shareUp s.toCtl s.toCtl) k.slice)) := by
  rw [exec_commitToken hc, commit_of_refused hc h]
  rfl

/-! ### Delivery (R99 to R101) -/

theorem exec_resultDelivery_of_resolved (x : ResultTranslation) (hc : Tbl.find? s.toCtl.cmds c = some k)
    (hp : k.phase = .resolved) (hs : silent s.toCtl k.slice = false) (hj : jobsLost s.toCtl = false) :
    exec (.resultDelivery c x) s = .next (setCtl s (deliver s.toCtl c k x)) := by
  change execResultDelivery c x s = _
  simp [execResultDelivery, onCtl, setCtl, hc, hp, hs, hj]

theorem exec_resultDelivery_of_jobsLost (x : ResultTranslation) (hc : Tbl.find? s.toCtl.cmds c = some k)
    (hj : jobsLost s.toCtl = true) : exec (.resultDelivery c x) s = .next s := by
  change execResultDelivery c x s = _
  simp [execResultDelivery, onCtl, hc, hj]

/-! ### The completion entry (R68, R72, R102) -/

/-- The state in which the entry of a delivered submission is due: it has counted in its slice and lane, and its number and its
postcard slot are free (R68, R271). -/
def entryDue (d : Ctl) (c : Nat) (k : Cmd) (st : Status) : Ctl :=
  let d := dropCmd (detailRecord (bump d k.slice k.lane fun x =>
    if k.lane = 0 then countStatus st x else countPath k st (countStatus st x)) k st) c
  match k.slot with
  | some n => modSlot d k.slice k.lane n fun _ => {}
  | none => d

theorem exec_completionEntryWrite_of_jobsLost (b : Bool) (hc : Tbl.find? s.toCtl.cmds c = some k)
    (hj : jobsLost s.toCtl = true) : exec (.completionEntryWrite c b) s = .next s := by
  change execCompletionEntryWrite c b s = _
  simp [execCompletionEntryWrite, onCtl, hc, hj]

/-- The oldest delivered submission of a lane: its entry goes out, or its ring's translation fails (R72, R86). -/
theorem exec_completionEntryWrite_of_oldest {st : Status} (b : Bool) (hc : Tbl.find? s.toCtl.cmds c = some k)
    (hj : jobsLost s.toCtl = false) (hst : k.status = some st) (hp : k.phase = .delivered)
    (hs : silent s.toCtl k.slice = false) (ho : (oldest s.toCtl k.slice k.lane).map Prod.fst = some c) :
    exec (.completionEntryWrite c b) s = .next (setCtl s
      (let e := ringTranslated (entryDue s.toCtl c k st) k.slice k.lane b
       if (getPort e (getSlice e k.slice).cur).ats && !b then advanceSlice (ringFailed e k.slice k.lane) k.slice
       else fetchNext (advanceSlice (laneReopen (ringWrite e k.slice k.lane (onFastPath k) k.hostWrites
         (completionEntry k st)) k.slice k.lane) k.slice) k.slice k.lane)) := by
  change execCompletionEntryWrite c b s = _
  simp only [execCompletionEntryWrite, onCtl, hc, hst, Option.getD_some]
  rw [if_neg (by simp [hp, hs, hj, ho])]
  rfl

end CommandEnd

/-! ### The lane interrupt (R76) -/

theorem exec_irqTimeThreshold_of_windowLive {s : State} {i : Fin 256} {l : Fin 64}
    (hw : windowLive s.toCtl i.val l.val = true) :
    exec (.irqTimeThreshold i l) s = .next (setCtl s (checkIrq s.toCtl i.val l.val)) := by
  change execIrqTimeThreshold i l s = _
  rw [execIrqTimeThreshold, onCtl, if_pos hw]
  rfl

/-! ### The statement -/

/-- Settles O25: the commands of a package that keeps its jobs, each step under its conditions; then a package whose jobs are lost;
then the lane's thresholds. -/
theorem commitAndDelivery : Obligations.Commit_and_delivery := by
  unfold Obligations.Commit_and_delivery
  refine ⟨?_, fun s c k x b hc hj => ⟨exec_commitToken_of_refused hc (.inl hj), exec_resultDelivery_of_jobsLost x hc hj,
    exec_completionEntryWrite_of_jobsLost b hc hj⟩, fun s i l hw => ?_⟩
  · rintro s c k i l hc rfl rfl hj
    refine ⟨exec_commitToken_of_mayCommit hc hj, fun hm => exec_commitToken_of_refused hc (.inr hm),
      fun x hp hs => exec_resultDelivery_of_resolved x hc hp hs hj, ?_⟩
    rintro st d e hp hs ho hst rfl he
    obtain rfl : e = entryDue s.toCtl c k st := he
    constructor
    · rw [exec_completionEntryWrite_of_oldest true hc hj hst hp hs ho, if_neg (by simp)]
    · intro hats
      rw [exec_completionEntryWrite_of_oldest false hc hj hst hp hs ho, if_pos (by simpa using hats)]
  · rw [exec_irqTimeThreshold_of_windowLive hw, checkIrq]
    exact ⟨fun hd => by rw [if_pos hd], fun hd => by rw [if_neg (by simp [hd]), setCtl_toCtl]⟩

end Sys2Proof.Machine
end

section
/-! SUPPORT. Power, reset pins and self-test (R47, R404, R408, R473, R476, R479 to R481, R494, R539): what each pin's event and the
end of each phase makes of the package, and the statement about them. -/

namespace Sys2Proof.Machine
open Sys2Proof

/-! ### The start of self-test (R473, R539) -/

theorem startSelftest_of_no_thermtrip {d : Ctl} (ht : d.pkg.thermtrip = false) :
    startSelftest d = modPkg d fun k => { k with life := .selftest, phase := 0, code := 0, fullStart := now d } := by
  rw [startSelftest, if_neg (by simp [ht])]

theorem leaveAux_of_pin_low {d : Ctl} (h : d.pkg.pwrOk = false ∨ d.pkg.resetN = false) : leaveAux d = d := by
  refine if_neg ?_
  rintro ⟨-, hp, hr⟩
  simp [hp, hr] at h

theorem leaveAux_of_pins_high {d : Ctl} (hl : d.pkg.life = .aux) (hp : d.pkg.pwrOk = true) (hr : d.pkg.resetN = true) :
    leaveAux d = startSelftest d := if_pos ⟨hl, hp, hr⟩

/-! ### Supplies and PWR_OK (R473, R476) -/

section Pins
variable {s : State}

theorem exec_vddAuxChange_true_of_off (hl : s.toCtl.pkg.life = .off)
    (h : s.toCtl.pkg.pwrOk = false ∨ s.toCtl.pkg.resetN = false) :
    exec (.vddAuxChange true) s = .next (setCtl s (modPkg s.toCtl fun k => { k with vddAux := true, life := .aux })) := by
  change execVddAuxChange true s = _
  rw [execVddAuxChange, onDev, if_pos rfl, if_pos hl, withCtl, leaveAux_of_pin_low]
  · rfl
  · exact h

theorem exec_vddAuxChange_false (s : State) :
    exec (.vddAuxChange false) s = .next (setDev s (withCtl (clearedDev s.toDev .off) fun d => modPkg d fun k => { k with
      vddAux := false, latch := false, latchCode := 0, thermtrip := false, jtag := .idcode, boundary := 0 })) := rfl

theorem exec_pwrOkAssert (s : State) :
    exec .pwrOkAssert s = .next (setCtl s (leaveAux (modPkg s.toCtl fun k => { k with pwrOk := true }))) := rfl

theorem exec_pwrOkAssert_of_aux (hl : s.toCtl.pkg.life = .aux) (hr : s.toCtl.pkg.resetN = true)
    (ht : s.toCtl.pkg.thermtrip = false) :
    exec .pwrOkAssert s = .next (setCtl s (modPkg s.toCtl fun k => { k with
      pwrOk := true, life := .selftest, phase := 0, code := 0, fullStart := now s.toCtl })) := by
  rw [exec_pwrOkAssert, leaveAux_of_pins_high, startSelftest_of_no_thermtrip]
  exacts [rfl, ht, hl, rfl, hr]

theorem exec_pwrOkAssert_of_resetN_low (hr : s.toCtl.pkg.resetN = false) :
    exec .pwrOkAssert s = .next (setCtl s (modPkg s.toCtl fun k => { k with pwrOk := true })) := by
  rw [exec_pwrOkAssert, leaveAux_of_pin_low]
  exact .inr hr

theorem ne_off_of_awake {d : Ctl} (ha : awake d = true) : d.pkg.life ≠ .off := by
  intro h
  simp [awake, h] at ha

theorem exec_pwrOkDeassert_of_awake (ha : awake s.toCtl = true) :
    exec .pwrOkDeassert s = .next (setDev s (withCtl (clearedDev (withCtl s.toDev fenceRoads) .aux) fun d =>
      modPkg d fun k => { k with pwrOk := false, life := .aux, thermtrip := false })) := by
  change execPwrOkDeassert s = _
  rw [execPwrOkDeassert, onDev, if_neg (ne_off_of_awake ha), if_pos ha]
  rfl

/-! ### PKG_RESET_N (R404, R408, R479) -/

theorem exec_pkgResetNAssert_of_operating (hl : s.toCtl.pkg.life = .operating) :
    exec .pkgResetNAssert s = .next (setDev s (clearedDev (withCtl s.toDev fun d =>
      pushHistory (fenceRoads (modPkg d fun k => { k with resetN := false })) 1 0x80 false) .inReset)) := by
  change execPkgResetNAssert s = _
  simp [execPkgResetNAssert, onDev, setDev, withCtl, awake, hl]

variable {tray : Fin 8} {slot : Fin 4}

theorem exec_pkgResetNDeassert_of_high (hr : s.toCtl.pkg.resetN = true) : exec (.pkgResetNDeassert tray slot) s = .next s := by
  change execPkgResetNDeassert tray slot s = _
  rw [execPkgResetNDeassert, onCtl, if_pos hr]

theorem exec_pkgResetNDeassert_of_low (hr : s.toCtl.pkg.resetN = false) (hp : s.toCtl.pkg.pwrOk = true)
    (hl : s.toCtl.pkg.life = .aux ∨ s.toCtl.pkg.life = .inReset) (ht : s.toCtl.pkg.thermtrip = false) :
    exec (.pkgResetNDeassert tray slot) s = .next (setCtl s (modPkg s.toCtl fun k => { k with
      resetN := true, tray := tray.val, slot := slot.val, life := .selftest, phase := 0, code := 0
      fullStart := now s.toCtl })) := by
  change execPkgResetNDeassert tray slot s = _
  rw [execPkgResetNDeassert, onCtl, if_neg (by simp [hr]), if_pos ⟨hp, hl⟩, startSelftest_of_no_thermtrip]
  exacts [rfl, ht]

/-! ### REFCLK (R47, R539) -/

theorem exec_refclkRestored_of_selftest (hc : s.toCtl.pkg.refclk = false) (hl : s.toCtl.pkg.life = .selftest) :
    exec .refclkRestored s = .next (setDev s (clearedDev (withCtl s.toDev fun d =>
      modPkg d fun k => { k with refclk := true }) .selftest)) := by
  change execRefclkRestored s = _
  simp [execRefclkRestored, onDev, setDev, withCtl, hc, hl]

theorem exec_refclkRestored_of_thermtrip (hc : s.toCtl.pkg.refclk = false) (hl : s.toCtl.pkg.life = .failed)
    (ht : s.toCtl.pkg.thermtrip = true) :
    exec .refclkRestored s = .next (setDev s (withCtl (clearedDev (withCtl s.toDev fun d =>
      modPkg d fun k => { k with refclk := true }) .inReset) fun d => modPkg d fun k' => { k' with
        phase := s.toCtl.pkg.phase })) := by
  change execRefclkRestored s = _
  simp [execRefclkRestored, leaveFailed, onDev, setDev, withCtl, hc, hl, ht]

end Pins

/-! ### The phases of self-test (R480, R481, R494) -/

theorem exec_selftestPhaseDone_of_selftest {s : State} (r : PhaseResult) (hl : s.toCtl.pkg.life = .selftest)
    (hc : s.toCtl.pkg.refclk = true) :
    exec (.selftestPhaseDone r) s = .next (setDev s (endPhase s.toDev (s.toCtl.pkg.phase + 1) r)) := by
  change execSelftestPhaseDone r s = _
  simp [execSelftestPhaseDone, onDev, setDev, hl, hc]

/-- What phase `n` and its failed units make of the package, before its result is judged. -/
def phaseTested (d : Ctl) (n : Nat) (r : PhaseResult) : Ctl := testHamlets (r.failed.foldl (unitFailed n) (phaseWork d n)) n

/-- The package with the result of phase `n` recorded. -/
def phaseRecorded (d : Ctl) (n : Nat) (r : PhaseResult) : Ctl :=
  recordPhase (phaseTested d n r) n r (lanternCondition (phaseTested d n r) n r)

section EndPhase
variable {d : Dev} {n : Nat} {r : PhaseResult}

theorem endPhase_of_lantern (hb : lanternCondition (phaseTested d.toCtl n r) n r = true) (hn : n ≤ 5) :
    endPhase d n r = { d with toCtl := enterLantern (phaseRecorded d.toCtl n r) (failCode n r) } := if_pos ⟨hb, hn⟩

theorem endPhase_of_late_lantern (hb : lanternCondition (phaseTested d.toCtl n r) n r = true) (hn : 5 < n) :
    endPhase d n r = fullReset { d with toCtl := modPkg (phaseRecorded d.toCtl n r) fun k => { k with
      latch := true, latchCode := failCode n r } } 0x81 false :=
  (if_neg fun h => Nat.not_le.2 hn h.2).trans (if_pos hb)

/-- Without a lantern condition: phase 5 looks at the latch, phase 8 ends self-test, any other is followed by the next. -/
theorem endPhase_of_no_lantern (hb : lanternCondition (phaseTested d.toCtl n r) n r = false) :
    endPhase d n r = { d with toCtl :=
      (let e := phaseRecorded d.toCtl n r
       if n = 5 ∧ e.pkg.latch then enterLantern e e.pkg.latchCode
       else if n = 5 then modPkg e fun k => { k with deviceId := some 0x0040 }
       else if n = 8 then enterOperating e
       else e) } := by
  have hb' : ¬ lanternCondition (phaseTested d.toCtl n r) n r = true := by simp [hb]
  refine ((if_neg fun h => hb' h.1).trans (if_neg hb')).trans ?_
  simp only [apply_ite (fun e : Ctl => ({ d with toCtl := e } : Dev))]
  rfl

end EndPhase

/-! ### The statement -/

/-- Settles O38: each pin's event in the states it acts in, then the end of a phase by its lantern condition and its number. That
PWR_OK with PKG_RESET_N high starts self-test without sampling the straps, that an eighth phase ends in OPERATING (log 40) and the
state in which self-test starts (log 4) are the model's choices. -/
theorem powerAndSelftest : Obligations.Power_and_selftest := by
  unfold Obligations.Power_and_selftest
  constructor
  · rintro s tray slot k rfl
    exact ⟨exec_vddAuxChange_true_of_off, exec_vddAuxChange_false s, exec_pwrOkAssert_of_aux, exec_pwrOkAssert_of_resetN_low,
      exec_pwrOkDeassert_of_awake, exec_pkgResetNAssert_of_operating, exec_pkgResetNDeassert_of_high,
      exec_pkgResetNDeassert_of_low, exec_refclkRestored_of_selftest, exec_refclkRestored_of_thermtrip⟩
  · rintro s r n d hl hc hn hd e he
    rw [exec_selftestPhaseDone_of_selftest r hl hc, ← hn]
    obtain rfl : d = phaseTested s.toCtl n r := hd
    obtain rfl : e = phaseRecorded s.toCtl n r := he
    refine ⟨fun hb h5 h8 => ?next, fun hb h5 hk => ?phase5, fun hb h5 hk => ?latched, fun hb h8 => ?ready,
      fun hb h5 => ?lantern, fun hb h5 => ?fullReset⟩
    case next => rw [endPhase_of_no_lantern hb, if_neg (fun h => h5 h.1), if_neg h5, if_neg h8]; rfl
    case phase5 => rw [endPhase_of_no_lantern hb, if_neg (by simp [hk]), if_pos h5]; rfl
    case latched => rw [endPhase_of_no_lantern hb, if_pos ⟨h5, hk⟩]; rfl
    case ready => rw [endPhase_of_no_lantern hb, if_neg (by omega), if_neg (by omega), if_pos h8]; rfl
    case lantern => rw [endPhase_of_lantern hb h5]; rfl
    case fullReset => rw [endPhase_of_late_lantern hb h5]

end Sys2Proof.Machine
end

section
/-! SUPPORT. The frame of submission (R28, R60, R66, R67, R74, R134): what a doorbell, a ring head and a postcard to a lane of one
slice leave of the other slices and of the rest, operation by operation, and the statement about them. -/

namespace Sys2Proof.Machine
open Sys2Proof

/-! ### The two frames -/

/-- `d` with all of `e` that a submission may change. -/
def takeSubmission (d e : Ctl) : Ctl :=
  { d with
    out := e.out, slices := e.slices, portA := e.portA, portB := e.portB
    cmds := e.cmds, nextCmd := e.nextCmd, fresh := e.fresh }

/-- From `d` to `e` a submission to slice `i` changed no other slice but the cache ways of its lanes. -/
structure SubmissionFrame (i : Nat) (d e : Ctl) : Prop where
  rest : e = takeSubmission d e
  slices : ∀ j, j ≠ i → { getSlice e j with lanes := [] } = { getSlice d j with lanes := [] }
  lanes : ∀ j, j ≠ i → ∀ n, { getLane e j n with way := none } = { getLane d j n with way := none }

/-- From `d` to `e` a ring pointer of slice `i` changed no other slice, and no command was accepted. -/
structure RingFrame (i : Nat) (d e : Ctl) : Prop where
  rest : e = takeSubmission d e
  slices : ∀ j, j ≠ i → getSlice e j = getSlice d j
  cmds : e.cmds = d.cmds

theorem takeSubmission_trans {d e f : Ctl} (h : e = takeSubmission d e) (h' : f = takeSubmission e f) :
    f = takeSubmission d f :=
  calc f = takeSubmission e f := h'
    _ = takeSubmission (takeSubmission d e) f := by rw [← h]

theorem RingFrame.refl (i : Nat) (d : Ctl) : RingFrame i d d := ⟨rfl, fun _ _ => rfl, rfl⟩

theorem RingFrame.trans {i : Nat} {d e f : Ctl} (h : RingFrame i d e) (h' : RingFrame i e f) : RingFrame i d f :=
  ⟨takeSubmission_trans h.rest h'.rest, fun j hj => (h'.slices j hj).trans (h.slices j hj), h'.cmds.trans h.cmds⟩

theorem RingFrame.submission {i : Nat} {d e : Ctl} (h : RingFrame i d e) : SubmissionFrame i d e where
  rest := h.rest
  slices j hj := by rw [h.slices j hj]
  lanes j hj n := by rw [getLane, h.slices j hj, getLane]

theorem SubmissionFrame.refl (i : Nat) (d : Ctl) : SubmissionFrame i d d := (RingFrame.refl i d).submission

theorem SubmissionFrame.trans {i : Nat} {d e f : Ctl} (h : SubmissionFrame i d e) (h' : SubmissionFrame i e f) :
    SubmissionFrame i d f :=
  ⟨takeSubmission_trans h.rest h'.rest, fun j hj => (h'.slices j hj).trans (h.slices j hj),
    fun j hj n => (h'.lanes j hj n).trans (h.lanes j hj n)⟩

/-! ### Operations on one slice, the outputs and the ports -/

section Ring
variable (d : Ctl) (i l : Nat)

theorem RingFrame.modSlice (f : Slice → Slice) : RingFrame i d (modSlice d i f) :=
  ⟨rfl, fun _ hj => getSlice_modSlice_ne d f hj, rfl⟩

theorem RingFrame.modLane (f : Lane → Lane) : RingFrame i d (modLane d i l f) := .modSlice d i _

theorem RingFrame.bump (f : Stats → Stats) : RingFrame i d (bump d i l f) := (RingFrame.modSlice d i _).trans (.modLane _ i l _)

theorem RingFrame.setLnErr (b : Nat) : RingFrame i d (setLnErr d i l b) := .modLane d i l _

theorem RingFrame.dropCount : RingFrame i d (dropCount d i l) := .modLane d i l _

theorem RingFrame.modSlot (k : Nat) (f : Slot → Slot) : RingFrame i d (modSlot d i l k f) := .modLane d i l _

theorem RingFrame.countFast : RingFrame i d (countFast d i) := .modSlice d i _

theorem RingFrame.emit (a : Action) : RingFrame i d (emit d a) := ⟨rfl, fun _ _ => rfl, rfl⟩

theorem RingFrame.drawn : RingFrame i d (drawn d) := ⟨rfl, fun _ _ => rfl, rfl⟩

theorem RingFrame.sendTx (p : Port) (t : Transmission) : RingFrame i d (sendTx d p t) := by
  unfold Sys2Proof.Machine.sendTx
  split
  · cases p <;> exact ⟨rfl, fun _ _ => rfl, rfl⟩
  · exact .refl i d

theorem RingFrame.askPage (p : Port) (k page : Nat) : RingFrame i d (askPage d p k page) := by
  unfold Sys2Proof.Machine.askPage
  dsimp only
  split
  · exact .refl i d
  · exact .emit d i _

theorem RingFrame.askPages (p : Port) (k : Nat) (pages : List Nat) : RingFrame i d (askPages d p k pages) := by
  induction pages generalizing d with
  | nil => exact .refl i d
  | cons page pages ih => exact (RingFrame.askPage d i p k page).trans (ih _)

theorem RingFrame.fetchNext (k : Nat) : RingFrame i d (fetchNext d k l) := by
  unfold Sys2Proof.Machine.fetchNext
  split
  · exact (RingFrame.askPages d i _ _ _).trans (.sendTx _ i _ _)
  · exact .refl i d

/-! ### Doorbells and ring heads (R66, R74) -/

theorem RingFrame.sqTailWrite (p : Port) (v : W32) : RingFrame i d (sqTailWrite d p i l v) := by
  unfold Sys2Proof.Machine.sqTailWrite
  dsimp only
  split
  · exact .refl i d
  · split
    next => exact .refl i d
    next => exact .refl i d
    next => exact .setLnErr d i l 0
    next =>
      split_ifs
      · exact .refl i d
      · exact .setLnErr d i l 0
      · exact .refl i d
      · exact (RingFrame.modLane d i l _).trans (.fetchNext _ i l i)

theorem RingFrame.cqHeadWrite (p : Port) (v : W32) : RingFrame i d (cqHeadWrite d p i l v) := by
  unfold Sys2Proof.Machine.cqHeadWrite
  dsimp only
  split_ifs
  · exact .refl i d
  · exact .setLnErr d i l 1
  · exact (RingFrame.modLane d i l _).trans (.fetchNext _ i l i)

end Ring

/-! ### Accepted commands -/

section Submission
variable (d : Ctl) (i l : Nat)

/-- A command table written anew. -/
theorem SubmissionFrame.setCmds (t : Tbl Cmd) (n : Nat) : SubmissionFrame i d { d with cmds := t, nextCmd := n } :=
  ⟨rfl, fun _ _ => rfl, fun _ _ _ => rfl⟩

theorem SubmissionFrame.modCmd (id : Nat) (f : Cmd → Cmd) : SubmissionFrame i d (modCmd d id f) := .setCmds d i _ _

theorem SubmissionFrame.offPath (id k : Nat) (failed : Bool) : SubmissionFrame i d (offPath d id k failed) := by
  unfold Sys2Proof.Machine.offPath
  split
  · exact .modCmd d i id _
  · exact .refl i d

theorem SubmissionFrame.acceptCmd (p : Port) (slot : Option Nat) (read : Cmd → Cmd) :
    SubmissionFrame i d (acceptCmd d i l p slot read).2 := by
  unfold Sys2Proof.Machine.acceptCmd
  dsimp only
  exact (SubmissionFrame.setCmds d i _ _).trans ((RingFrame.modLane _ i l _).trans (.bump _ i l _)).submission

theorem SubmissionFrame.acceptChain (p : Port) (k : Nat) : SubmissionFrame i d (acceptChain d p i l k).2.2.2 :=
  (SubmissionFrame.acceptCmd d i l p _ _).trans ((RingFrame.modSlot _ i l k _).trans (.countFast _ i)).submission

/-! ### The lane state cache (R28, R134) -/

/-- The lane evicted from its way may be any slice's. -/
theorem SubmissionFrame.evict (k n : Nat) : SubmissionFrame i d (modLane d k n fun ln => { ln with way := none }) where
  rest := rfl
  slices j _ := by
    by_cases h : j = k
    · subst h; rw [getSlice_modLane]
    · rw [Sys2Proof.Machine.modLane, getSlice_modSlice_ne d _ h]
  lanes j _ m := by
    by_cases h : j = k
    · subst h
      by_cases hm : m = n
      · subst hm; rw [getLane_modLane]
      · rw [getLane, getSlice_modLane, Tbl.getD_set_ne _ _ _ hm, getLane]
    · rw [getLane, Sys2Proof.Machine.modLane, getSlice_modSlice_ne d _ h, getLane]

theorem SubmissionFrame.fillLane (created : Bool) : SubmissionFrame i d (fillLane d i l created) := by
  unfold Sys2Proof.Machine.fillLane
  dsimp only
  split
  · exact (RingFrame.modLane d i l _).submission
  · split
    · exact .refl i d
    · exact (RingFrame.drawn d i).submission.trans ((SubmissionFrame.evict _ i _ _).trans (RingFrame.modLane _ i l _).submission)

theorem SubmissionFrame.refillLane : SubmissionFrame i d (refillLane d i l) := by
  unfold Sys2Proof.Machine.refillLane
  split
  · exact .fillLane d i l false
  · exact .refl i d

/-! ### Postcards (R67) -/

theorem SubmissionFrame.markPath (p : Port) (id : Nat) (crowded beyond : Bool) :
    SubmissionFrame i d (markPath d p i l id crowded beyond) := by
  have hpath (a b c : Bool) : SubmissionFrame i d (Machine.offPath (Machine.refillLane (Machine.offPath
      (Machine.offPath (Machine.offPath d id 2 a) id 3 b) id 7 c) i l) id 10 crowded) :=
    (SubmissionFrame.offPath d i id 2 a).trans ((SubmissionFrame.offPath _ i id 3 b).trans
      ((SubmissionFrame.offPath _ i id 7 c).trans ((SubmissionFrame.refillLane _ i l).trans (.offPath _ i id 10 crowded))))
  unfold Sys2Proof.Machine.markPath
  dsimp only
  split
  · exact (hpath _ _ _).trans ((SubmissionFrame.offPath _ i id 11 true).trans (.modCmd _ i id _))
  · exact hpath _ _ _

theorem SubmissionFrame.takeChain (p : Port) (k : Nat) : SubmissionFrame i d (takeChain d p i l k) := by
  unfold Sys2Proof.Machine.takeChain
  dsimp only
  split
  · have hdrop := (RingFrame.modSlot d i l k fun _ => {}).trans (.dropCount _ i l)
    split_ifs
    · exact (hdrop.trans ((RingFrame.setLnErr _ i l 2).trans (.setLnErr _ i l 3))).submission
    · exact (hdrop.trans (.setLnErr _ i l 3)).submission
    · exact (hdrop.trans (.setLnErr _ i l 2)).submission
    · exact hdrop.submission
  · refine SubmissionFrame.trans ?_ (.markPath _ i l p _ _ _)
    split
    · exact (SubmissionFrame.acceptChain d i l p k).trans (.modCmd _ i _ _)
    · exact (SubmissionFrame.acceptChain d i l p k).trans (.modCmd _ i _ _)

theorem SubmissionFrame.slotWrite (p : Port) (k off : Nat) (bs : Bytes) : SubmissionFrame i d (slotWrite d p i l k off bs) := by
  have hbusy : SubmissionFrame i d (Machine.setLnErr (Machine.dropCount d i l) i l 2) :=
    ((RingFrame.dropCount d i l).trans (.setLnErr _ i l 2)).submission
  unfold Sys2Proof.Machine.slotWrite
  dsimp only
  split
  · exact .refl i d
  · split
    · exact (RingFrame.dropCount d i 0).submission
    · split
      next => exact .refl i d
      next => exact .refl i d
      next => exact hbusy
      next =>
        split_ifs
        · exact .refl i d
        · exact hbusy
        · exact (RingFrame.modSlot d i l k _).submission.trans (.takeChain _ i l p k)
        · exact (RingFrame.modSlot d i l k _).submission

end Submission

/-! ### The commands -/

section Commands
variable (s : State) (p : Port) (i : Fin 256) (l : Fin 64)

theorem exec_lnSqTailWrite (v : W32) : exec (.lnSqTailWrite p i l v) s =
    .next (setCtl s (if lanesUp s.toCtl then sqTailWrite s.toCtl p i.val l.val v else s.toCtl)) := rfl

theorem exec_lnCqHeadWrite (v : W32) : exec (.lnCqHeadWrite p i l v) s =
    .next (setCtl s (if lanesUp s.toCtl then cqHeadWrite s.toCtl p i.val l.val v else s.toCtl)) := rfl

theorem exec_postcardSlotWrite (k : Fin 3) (off : Fin 256) (bs : Bytes) : exec (.postcardSlotWrite p i l k off bs) s =
    .next (setCtl s (slotWrite s.toCtl p i.val l.val k.val off.val bs)) := rfl

variable {s p i l}

/-- A doorbell or a ring head of an operating package, and of any other. -/
theorem ringFrame_of_ringPointer {s' : State} {c : Instr} {v : W32} (hc : c = .lnSqTailWrite p i l v ∨ c = .lnCqHeadWrite p i l v)
    (h : exec c s = .next s') : ∃ e, s' = setCtl s e ∧ RingFrame i.val s.toCtl e := by
  rcases hc with rfl | rfl
  · rw [exec_lnSqTailWrite] at h
    refine ⟨_, (Host.Outcome.next.inj h).symm, ?_⟩
    split
    · exact .sqTailWrite _ _ _ p v
    · exact .refl _ _
  · rw [exec_lnCqHeadWrite] at h
    refine ⟨_, (Host.Outcome.next.inj h).symm, ?_⟩
    split
    · exact .cqHeadWrite _ _ _ p v
    · exact .refl _ _

theorem submissionFrame_of_postcard {s' : State} {k : Fin 3} {off : Fin 256} {bs : Bytes}
    (h : exec (.postcardSlotWrite p i l k off bs) s = .next s') :
    ∃ e, s' = setCtl s e ∧ SubmissionFrame i.val s.toCtl e := by
  rw [exec_postcardSlotWrite] at h
  exact ⟨_, (Host.Outcome.next.inj h).symm, .slotWrite _ _ _ p _ _ bs⟩

end Commands

/-! ### The statement -/

/-- Settles O59: a doorbell and a ring head keep the narrower frame, a postcard the wider one. -/
theorem submissionFrame : Obligations.Submission_frame := by
  unfold Obligations.Submission_frame
  intro s s' c p i j l v k off bs hc hexec
  have hne (h : j ≠ i) : j.val ≠ i.val := fun hv => h (Fin.ext hv)
  rcases or_assoc.2 hc with hring | rfl
  · obtain ⟨e, rfl, hf⟩ := ringFrame_of_ringPointer hring hexec
    exact ⟨fun h => ⟨hf.submission.slices _ (hne h), hf.submission.lanes _ (hne h), fun _ => hf.slices _ (hne h)⟩,
      congrArg (setCtl s) hf.rest, fun _ => hf.cmds⟩
  · obtain ⟨e, rfl, hf⟩ := submissionFrame_of_postcard hexec
    exact ⟨fun h => ⟨hf.slices _ (hne h), hf.lanes _ (hne h), by rintro (h | h) <;> cases h⟩,
      congrArg (setCtl s) hf.rest, by rintro (h | h) <;> cases h⟩

end Sys2Proof.Machine
end

section
/-! SUPPORT. Orders on slices (R51, R53, R79, R251, R272, R274, R345, R346, R348): what the body of each order makes of the state in
which it runs, and the statement about them. -/

namespace Sys2Proof.Machine
open Sys2Proof

/-! ### A ready order, as a command -/

section ReadyOrder
variable {s : State} {src : OrderSource} {op : Nat} {a : Bytes} {b d' : Ctl} {bad : Ctl → Bytes → Bool} {body : Body}
  {rsp : Bytes}

theorem onCtl_order_done {code : Nat} (h : Ready s src op a b) (hb : bad (takenFrom s.toCtl op src) a = false)
    (hbody : body b { jseq := s.reeve.nextJseq, master := srcMaster src, args := a } = (.done code rsp, d')) :
    onCtl s (fun d => order d src op (.ok []) bad body) = .next (orderDone s src op a code rsp d') :=
  next_ctl (ready_done h hb hbody)

theorem onCtl_order_pending (h : Ready s src op a b) (hb : bad (takenFrom s.toCtl op src) a = false)
    (hbody : body b { jseq := s.reeve.nextJseq, master := srcMaster src, args := a } = (.pending rsp, d')) :
    onCtl s (fun d => order d src op (.ok []) bad body) = .next (orderPending s src op a rsp d') :=
  next_ctl (ready_pending h hb hbody)

end ReadyOrder

/-! ### The bodies -/

section Bodies
variable (b : Ctl) (o : Order)

theorem sliceIn_of_ne_free {i : Nat} (h : (getSlice b i).state ≠ .free) : sliceIn b i = true := by
  simp [sliceIn, h]

/-- The refusals of R522 in their order do not apply. -/
theorem mbSliceCreateBody_of_free {t : Nat} {x : Tenant} (hsum : laneSum b + fld o.args 1 1 ≤ 4096)
    (hfree : (getSlice b (fld o.args 0 1)).state = .free)
    (ha : bitOf (fld o.args 4 1) 0 = true → portTaken b .ha (portArgs o.args false) = false)
    (hb : bitOf (fld o.args 4 1) 1 = true → portTaken b .hb (portArgs o.args true) = false)
    (ht : tenantById b (fld o.args 2 2) = some (t, x)) (hx : x.state ≠ .removing) :
    mbSliceCreateBody b o =
      (.done 0 (leBytes 4 (b.incarnations + 1).toNat ++ leBytes 1 0), createSlice b (fld o.args 0 1) o.args t) := by
  have hA : (bitOf (fld o.args 4 1) 0 && portTaken b .ha (portArgs o.args false)) = false := by
    simpa [← Bool.not_eq_true] using ha
  have hB : (bitOf (fld o.args 4 1) 1 && portTaken b .hb (portArgs o.args true)) = false := by
    simpa [← Bool.not_eq_true] using hb
  simp only [mbSliceCreateBody, if_neg (Nat.not_lt.2 hsum), hfree, hA, hB, ht, if_neg hx, ok]
  rfl

theorem mbSliceDestroyBody_of_ne_free (h : (getSlice b (fld o.args 0 1)).state ≠ .free) :
    mbSliceDestroyBody b o =
      (.pending [], fenceSlice b (fld o.args 0 1) (some { kind := .destroy, jseq := o.jseq, start := now b })) := by
  simp [mbSliceDestroyBody, sliceIn_of_ne_free b h]

theorem mbSliceResetBody_of_running (h : (getSlice b (fld o.args 0 1)).state = .active ∨
      (getSlice b (fld o.args 0 1)).state = .fenced ∨ (getSlice b (fld o.args 0 1)).state = .frozen) :
    mbSliceResetBody b o = (.pending [], startSliceReset b (fld o.args 0 1) o.jseq) := by
  rcases h with h | h | h <;> simp [mbSliceResetBody, h]

/-- A PORT_LOST slice is reset once a port it is bound on has its link again (R53). -/
theorem mbSliceResetBody_of_portLost {p : Port} (h : (getSlice b (fld o.args 0 1)).state = .portLost)
    (hb : boundOn (getSlice b (fld o.args 0 1)) p = true) (hp : (getPort b p).linkUp = true) :
    mbSliceResetBody b o = (.pending [], startSliceReset b (fld o.args 0 1) o.jseq) := by
  have hup : ((getSlice b (fld o.args 0 1)).boundA && b.portA.linkUp ||
      (getSlice b (fld o.args 0 1)).boundB && b.portB.linkUp) = true := by
    cases p
    · simp [show (getSlice b (fld o.args 0 1)).boundA = true from hb, show b.portA.linkUp = true from hp]
    · simp [show (getSlice b (fld o.args 0 1)).boundB = true from hb, show b.portB.linkUp = true from hp]
  simp [mbSliceResetBody, h, hup]

theorem mbSliceSetPortBody_of_dualHomed (hd : dualHomed (getSlice b (fld o.args 0 1)) = true)
    (hp : (getPort b (portOf (fld o.args 1 1))).linkUp = true) :
    mbSliceSetPortBody b o = (.done 0 [],
      if (getSlice b (fld o.args 0 1)).cur = portOf (fld o.args 1 1) then b
      else redeliver (leaveFast (modSlice b (fld o.args 0 1) fun y => { y with cur := portOf (fld o.args 1 1) })
        (fld o.args 0 1)) (fld o.args 0 1)) := by
  by_cases hc : (getSlice b (fld o.args 0 1)).cur = portOf (fld o.args 1 1) <;>
    simp [mbSliceSetPortBody, ok, hd, hp, hc]

theorem mbSliceSchedBody_of_ne_free (h : (getSlice b (fld o.args 0 1)).state ≠ .free) :
    mbSliceSchedBody b o = (.done 0 [], shareUp b (modSlice b (fld o.args 0 1) (schedSlice o.args))) := by
  simp [mbSliceSchedBody, ok, sliceIn_of_ne_free b h]

/-- The new FAST limits decide (R275). -/
theorem mbSliceRateBody_of_ne_free (h : (getSlice b (fld o.args 0 1)).state ≠ .free) :
    mbSliceRateBody b o =
      if fastUnfit (modSlice b (fld o.args 0 1) (rateSlice b o.args)) (fld o.args 0 1) then (.done 0x23 [], b)
      else (.done 0 [], modSlice b (fld o.args 0 1) (rateSlice b o.args)) := by
  simp [mbSliceRateBody, ok, refuse, sliceIn_of_ne_free b h]

end Bodies

/-! ### The statement -/

/-- Settles O4, order by order: the arguments are in form, and the body's equation says what it makes of `b`. -/
theorem orderSlicesChange : Obligations.Order_slices_change := by
  unfold Obligations.Order_slices_change
  intro s src a b t x
  refine ⟨?create, ?destroy, ?reset, ?resetLost, ?setPort, ?sched, ?rate, ?rateRefused⟩
  case create =>
    intro h hform hsum hfree ha hb ht hx
    exact onCtl_order_done h hform (mbSliceCreateBody_of_free b _ hsum hfree ha hb ht hx)
  case destroy =>
    intro h hlen hst
    exact onCtl_order_pending h (by simp [hlen]) (mbSliceDestroyBody_of_ne_free b _ hst)
  case reset =>
    intro h hlen hst
    exact onCtl_order_pending h (by simp [hlen]) (mbSliceResetBody_of_running b _ hst)
  case resetLost =>
    intro p h hlen hst hbound hup
    exact onCtl_order_pending h (by simp [hlen]) (mbSliceResetBody_of_portLost b _ hst hbound hup)
  case setPort =>
    intro h hlen hport hdual hup
    exact onCtl_order_done h (by simp [hlen, Nat.not_lt.2 hport]) (mbSliceSetPortBody_of_dualHomed b _ hdual hup)
  case sched =>
    intro h hform hst
    exact onCtl_order_done h hform (mbSliceSchedBody_of_ne_free b _ hst)
  case rate =>
    intro h hform hst hfit
    exact onCtl_order_done h hform (by rw [mbSliceRateBody_of_ne_free b _ hst, hfit]; rfl)
  case rateRefused =>
    intro h hform hst hfit
    exact onCtl_order_done h hform (by rw [mbSliceRateBody_of_ne_free b _ hst, hfit]; rfl)

end Sys2Proof.Machine
end

section
/-! SUPPORT. Lane ring pointers (R58, R60, R66, R70, R73, R74): what a doorbell and a ring head make of a live window by the state of
its lane, and the statement about them. -/

namespace Sys2Proof.Machine
open Sys2Proof

/-! ### Doorbells and ring heads of a live window -/

section Pointers
variable {d : Ctl} {p : Port} {i l : Nat} {v : W32} (hlive : windowLive d i l = true) (hon : windowOn d (.port p) i = true)
include hlive hon

theorem sqTailWrite_of_enabled (ha : (getSlice d i).state = .active) (he : (getLane d i l).state = .enabled)
    (hv : v.toNat < sqSize (getLane d i l)) (hne : v.toNat ≠ (getLane d i l).sqTail) :
    sqTailWrite d p i l v = fetchNext (modLane d i l fun ln => reserveSeqs { ln with sqTail := v.toNat }) i l := by
  simp [sqTailWrite, hlive, hon, ha, he, hne, Nat.not_le.2 hv]

theorem sqTailWrite_of_outside (ha : (getSlice d i).state = .active) (he : (getLane d i l).state = .enabled)
    (hv : sqSize (getLane d i l) ≤ v.toNat) : sqTailWrite d p i l v = setLnErr d i l 0 := by
  simp [sqTailWrite, hlive, hon, ha, he, hv]

theorem sqTailWrite_of_error (he : (getLane d i l).state = .error) : sqTailWrite d p i l v = setLnErr d i l 0 := by
  simp [sqTailWrite, hlive, hon, he]

theorem sqTailWrite_of_fenced (he : (getLane d i l).state = .fenced) : sqTailWrite d p i l v = d := by
  simp [sqTailWrite, hlive, hon, he]

/-- A head within the ring that consumes at most the unconsumed entries (R73). -/
theorem cqHeadWrite_of_consumed {n : Nat} (he : (getLane d i l).state ≠ .disabled)
    (hv : v.toNat % 65536 < cqSize (getLane d i l))
    (hn : n = (v.toNat % 65536 + cqSize (getLane d i l) - (getLane d i l).cqHead) % cqSize (getLane d i l))
    (hle : n ≤ (getLane d i l).unconsumed) :
    cqHeadWrite d p i l v = fetchNext (modLane d i l fun ln => { ln with
      cqHead := v.toNat % 65536, unconsumed := ln.unconsumed - n, delivered := ln.delivered.drop n }) i l := by
  have hin : ¬ (cqSize (getLane d i l) ≤ v.toNat % 65536 ∨ (getLane d i l).unconsumed < n) := by omega
  simp only [cqHeadWrite, hlive, hon, ← hn, if_neg hin, beq_false_of_ne he]
  rfl

theorem cqHeadWrite_of_beyond {n : Nat} (he : (getLane d i l).state ≠ .disabled)
    (hn : n = (v.toNat % 65536 + cqSize (getLane d i l) - (getLane d i l).cqHead) % cqSize (getLane d i l))
    (hbeyond : cqSize (getLane d i l) ≤ v.toNat % 65536 ∨ (getLane d i l).unconsumed < n) :
    cqHeadWrite d p i l v = setLnErr d i l 1 := by
  simp only [cqHeadWrite, hlive, hon, ← hn, if_pos hbeyond, beq_false_of_ne he]
  rfl

end Pointers

/-! ### The statement -/

/-- Settles O17, by the state of the lane. That a doorbell's entries take their sequences when it arrives (`reserveSeqs`) is the
model's reading (log 51), and so is the use of bits 15:0 of a head (log 23). -/
theorem laneRingPointers : Obligations.Lane_ring_pointers := by
  unfold Obligations.Lane_ring_pointers
  rintro s p i l v n ln hup hlive hon rfl
  simp only [exec_lnSqTailWrite, exec_lnCqHeadWrite, if_pos hup]
  refine ⟨?tail, ?tailErr, ?fenced, ?head, ?headErr⟩
  case tail =>
    intro ha he hv hne
    rw [sqTailWrite_of_enabled hlive hon ha he hv hne]
  case tailErr =>
    rintro (he | ⟨ha, he, hv⟩)
    · rw [sqTailWrite_of_error hlive hon he]
    · rw [sqTailWrite_of_outside hlive hon ha he hv]
  case fenced =>
    intro he
    rw [sqTailWrite_of_fenced hlive hon he, setCtl_toCtl]
  case head =>
    intro he hv hn hle
    rw [cqHeadWrite_of_consumed hlive hon he hv hn hle]
  case headErr =>
    intro he hn hbeyond
    rw [cqHeadWrite_of_beyond hlive hon he hn hbeyond]

end Sys2Proof.Machine
end

section
/-! SUPPORT. Admin reports and lanes (R57, R59, R82, R112, R113, R115, R270, R318, R332, R391): how an admin command ends that a check
refuses, what check 5 of each command says, and the statement about them. -/

namespace Sys2Proof.Machine
open Sys2Proof

/-! ### Admin commands that a check refuses (R107) -/

section Refused
variable {s : State} {id : Nat} {op : Byte} {check : Ctl → Cmd → Option Status} {k : Cmd} {b : Ctl} {f : Ctl → Cmd → Ctl}

theorem next_admin_of_refused {st : Status} (h : AdminStarts s id op k b) (hst : check b k = some st) :
    (Host.Outcome.next { s with toCtl := adminRun s.toCtl id op check f } : Host.Outcome State Fault Refusal) =
      .next (adminDone s k (adminFail b id st)) := by
  obtain ⟨hready, rfl⟩ := h
  refine next_setCtl ?_
  simp only [adminRun, hready, hst]

theorem next_admin_of_rateLimited (h : AdminStarts s id op k b) (hnone : check b k = none) (h6 : check6 b k = none) :
    (Host.Outcome.next { s with toCtl := adminRun s.toCtl id op check f } : Host.Outcome State Fault Refusal) =
      .next (adminDone s k (adminFail b id St.rateLimit)) := by
  obtain ⟨hready, rfl⟩ := h
  refine next_setCtl ?_
  simp only [adminRun, hready, hnone, h6]

end Refused

/-! ### Check 5 -/

section Checks
variable {d : Ctl} {k : Cmd}

theorem featureCheck_of_not_permitted
    (h : featuresPermitted d (getSlice d k.slice).tenant (BitVec.ofNat 64 (fld k.raw 16 8)) = false) :
    featureCheck d k = some St.notPermitted := by
  simp [featureCheck, h]

/-- The features are set once, before a compute lane exists (R82). -/
theorem featureCheck_of_late (hp : featuresPermitted d (getSlice d k.slice).tenant (BitVec.ofNat 64 (fld k.raw 16 8)) = true)
    (h : (getSlice d k.slice).featuresSet = true ∨ hasComputeLane (getSlice d k.slice) = true) :
    featureCheck d k = some St.featureState := by
  simp [featureCheck, hp, h]

theorem createCheck_of_present (hlim : fld k.raw 24 1 < (getSlice d k.slice).laneLimit)
    (h : fld k.raw 24 1 = 0 ∨ (getLane d k.slice (fld k.raw 24 1)).state ≠ .disabled) :
    createCheck d k = some St.laneState := by
  simp only [createCheck, if_neg (Nat.not_le.2 hlim), if_pos h]

/-- A lane beyond the limit, or one that was created 4,096 times (R112, R318). -/
theorem createCheck_of_exhausted (h : (getSlice d k.slice).laneLimit ≤ fld k.raw 24 1 ∨
      (0 < fld k.raw 24 1 ∧ (getLane d k.slice (fld k.raw 24 1)).state = .disabled ∧
        4096 ≤ Tbl.getD (getSlice d k.slice).laneCreations (fld k.raw 24 1) 0)) :
    createCheck d k = some St.resource := by
  by_cases hlim : (getSlice d k.slice).laneLimit ≤ fld k.raw 24 1
  · simp only [createCheck, if_pos hlim]
  · obtain ⟨hpos, hst, hcount⟩ := h.resolve_left hlim
    have hnew : ¬ (fld k.raw 24 1 = 0 ∨ (getLane d k.slice (fld k.raw 24 1)).state ≠ .disabled) := by
      rintro (h0 | h0)
      · omega
      · exact h0 hst
    simp only [createCheck, if_neg hlim, if_neg hnew, if_pos (show 4095 < _ from hcount)]

/-- Lane 0, a lane beyond the limit, and one in another state (log 25: the first two are answered alike). -/
theorem laneCheck_of_unfit {p : LaneState → Bool} (h : fld k.raw 24 1 = 0 ∨
      (getSlice d k.slice).laneLimit ≤ fld k.raw 24 1 ∨ p (getLane d k.slice (fld k.raw 24 1)).state = false) :
    laneCheck p d k = some St.laneState := by
  have hnot : laneIs d k.slice (fld k.raw 24 1) p = false := by
    rcases h with h | h | h
    · simp [laneIs, h]
    · simp [laneIs, Nat.not_lt.2 h]
    · simp [laneIs, h]
  simp [laneCheck, hnot]

end Checks

/-! ### The statement -/

/-- Settles O18, command by command: one that runs has its own effect in `b`, one that does not fails in its check 5 or 6. That lane 0
and a lane at or above the limit answer LANE_STATE, and what a command without a buffer answers, are the model's choices (log 25). -/
theorem adminReportsAndLanes : Obligations.Admin_reports_and_lanes := by
  unfold Obligations.Admin_reports_and_lanes
  constructor
  · rintro s c k b l mask mine rfl rfl rfl
    refine ⟨?identify, ?identifyRate, ?features, ?featuresRefused, ?stats, ?gleaning, ?gleanings⟩
    case identify =>
      intro h
      constructor
      · intro hcap
        exact next_admin h (if_neg (Nat.not_lt.2 hcap))
      · intro hcap
        exact next_admin h (if_pos hcap)
    case identifyRate =>
      intro h h6
      exact next_admin_of_rateLimited h rfl h6
    case features =>
      intro h
      exact next_admin h rfl
    case featuresRefused =>
      intro h
      constructor
      · intro hp
        exact next_admin_of_refused h (featureCheck_of_not_permitted hp)
      · intro hp hlate
        exact next_admin_of_refused h (featureCheck_of_late hp hlate)
    case stats =>
      intro h hcap
      constructor
      · intro hl
        exact next_admin h (by rw [if_neg (Nat.not_lt.2 hcap), if_pos hl])
      · intro hl
        exact next_admin h (by rw [if_neg (Nat.not_lt.2 hcap), if_neg hl])
    case gleaning =>
      intro r h hn hr hcap
      exact next_admin h (by simp only [if_neg hn, hr, if_neg (Nat.not_lt.2 hcap)])
    case gleanings =>
      intro h hn hcap
      exact next_admin h (by simp only [if_pos hn, if_neg (Nat.not_lt.2 hcap)])
  · rintro s c k b l x rfl rfl
    refine ⟨?create, ?createPresent, ?createExhausted, ?delete, ?deleteRefused, ?reset, ?resetRefused, ?policy⟩
    case create =>
      intro h
      exact next_admin h rfl
    case createPresent =>
      intro h hlim hx
      exact next_admin_of_refused h (createCheck_of_present hlim hx)
    case createExhausted =>
      intro h hx
      exact next_admin_of_refused h (createCheck_of_exhausted hx)
    case delete =>
      intro h
      exact next_admin h rfl
    case deleteRefused =>
      intro h hx
      exact next_admin_of_refused h (laneCheck_of_unfit (hx.imp_right (.imp_right fun hd => by simp [hd])))
    case reset =>
      intro h
      exact next_admin h rfl
    case resetRefused =>
      intro h hx
      exact next_admin_of_refused h (laneCheck_of_unfit (hx.imp_right (.imp_right fun he => by simp [he])))
    case policy =>
      intro h
      exact next_admin h rfl

end Sys2Proof.Machine
end

section
/-! SUPPORT. Postcard writes (R58, R61, R67, R69, R276): what a write to a slot of a live window makes of it by the state of its lane
and slot, what becomes of a complete chain, and the statement about them. -/

namespace Sys2Proof.Machine
open Sys2Proof

/-! ### A write to a slot -/

section Slots
variable {d : Ctl} {p : Port} {i l : Nat} (k off : Nat) (bs : Bytes) (hlife : d.pkg.life = .operating)
  (hlive : windowLive d i l = true) (hon : windowOn d (.port p) i = true)
include hlife hlive hon

/-- Lane 0 takes no postcards (R58). -/
theorem slotWrite_of_lane_zero (hl : l = 0) : slotWrite d p i l k off bs = dropCount d i 0 := by
  simp only [slotWrite, barUp_of_operating _ hlife, hlive, hon, if_pos hl]
  rfl

theorem slotWrite_of_error (hl : l ≠ 0) (he : (getLane d i l).state = .error) :
    slotWrite d p i l k off bs = setLnErr (dropCount d i l) i l 2 := by
  simp only [slotWrite, barUp_of_operating _ hlife, hlive, hon, if_neg hl, he]
  rfl

variable (ha : (getSlice d i).state = .active) (hl : l ≠ 0) (he : (getLane d i l).state = .enabled)
include ha hl he

theorem slotWrite_of_taken (ht : (Tbl.getD (getLane d i l).slots k {}).taken = true) :
    slotWrite d p i l k off bs = setLnErr (dropCount d i l) i l 2 := by
  simp only [slotWrite, barUp_of_operating _ hlife, hlive, hon, if_neg hl, he, ha, ht]
  rfl

/-- The bytes are stored in a slot that is free, and the chain is taken once it is complete (R67). -/
theorem slotWrite_of_free {e : Ctl} (ht : (Tbl.getD (getLane d i l).slots k {}).taken = false)
    (hd : e = modSlot d i l k fun x => { x with
      bytes := (bs.zipIdx off).foldl (fun t b => Tbl.set t b.2 b.1) x.bytes }) :
    slotWrite d p i l k off bs =
      if chainComplete (Tbl.getD (getLane e i l).slots k {}) then takeChain e p i l k else e := by
  simp only [slotWrite, barUp_of_operating _ hlife, hlive, hon, if_neg hl, he, ha, ht, hd]
  rfl

end Slots

/-! ### A complete chain (R69, R276) -/

section Chains
variable (d : Ctl) (p : Port) (i l k : Nat)

/-- Beyond the FAST limit with a completion entry free. -/
theorem takeChain_of_overFast (hf : (getSlice d i).fastLimit ≤ fastCount d i) (hc : freeEntries d i l ≠ 0) :
    takeChain d p i l k = setLnErr (dropCount (modSlot d i l k fun _ => {}) i l) i l 2 := by
  simp [takeChain, hf, hc]

/-- Without a completion entry, within the FAST limit. -/
theorem takeChain_of_cqFull (hf : fastCount d i < (getSlice d i).fastLimit) (hc : freeEntries d i l = 0) :
    takeChain d p i l k = setLnErr (dropCount (modSlot d i l k fun _ => {}) i l) i l 3 := by
  simp [takeChain, Nat.not_le.2 hf, hc]

/-- The outcome of a chain's length and tag (R68, R107). -/
def chainCheck (s : Slice) (ln : Lane) (raw : Bytes) (c : Cmd) : Except Status (EpochKeys × Bytes) :=
  if chainBits raw < 1 ∨ 4 < chainBits raw then .error St.chainLength else tagCheck s ln c

/-- The marks of the path that a chain accepted in `d` bears (R133, R334), made in `e`. -/
def markChain (e : Ctl) : Ctl :=
  markPath e p i l (acceptChain d p i l k).1 (decide (16 ≤ fastTotal d))
    (strictInEffect d (getSlice d i).tenant &&
      decide (postRate d (getSlice d i).tenant ≤ tenantFast d (getSlice d i).tenant))

/-- An accepted chain is in the command table as it was read. -/
theorem find?_cmds_acceptChain :
    Tbl.find? (acceptChain d p i l k).2.2.2.cmds (acceptChain d p i l k).1 = some (acceptChain d p i l k).2.1 := by
  simp [acceptChain, acceptCmd, modSlot, countFast, bump, Tbl.getD]

/-- Two changes of a command that agree on it make the same state. -/
theorem modCmd_congr {e : Ctl} {n : Nat} {c : Cmd} {f g : Cmd → Cmd} (hc : Tbl.find? e.cmds n = some c) (h : f c = g c) :
    modCmd e n f = modCmd e n g := by
  rw [modCmd, Tbl.update_of_find? f hc, h, modCmd, Tbl.update_of_find? g hc]

variable {d p i l k} {a : Nat × Cmd × Bytes × Ctl} (hf : fastCount d i < (getSlice d i).fastLimit)
  (hc : freeEntries d i l ≠ 0) (hacc : a = acceptChain d p i l k)
include hf hc hacc

/-- A chain that fails its checks is accepted all the same, and keeps the failure for its decision. -/
theorem takeChain_of_error {st : Status} (hv : chainCheck (getSlice d i) (getLane d i l) a.2.2.1 a.2.1 = .error st) :
    takeChain d p i l k = markChain d p i l k (modCmd a.2.2.2 a.1 fun c => { c with early := some st }) := by
  subst hacc
  simp only [chainCheck] at hv
  simp only [takeChain, decide_eq_false (Nat.not_le.2 hf), decide_eq_false hc, hv]
  rfl

/-- A chain that opens keeps its epoch and plaintext, and the outcome of its form. -/
theorem takeChain_of_ok {r : EpochKeys × Bytes}
    (hv : chainCheck (getSlice d i) (getLane d i l) a.2.2.1 a.2.1 = .ok r) :
    takeChain d p i l k = markChain d p i l k (modCmd a.2.2.2 a.1 fun c => { c with
      epoch := some r.1, input := r.2, early := formCheck (getSlice d i) (getLane d i l) a.2.1 }) := by
  subst hacc
  simp only [chainCheck] at hv
  rw [modCmd_congr (g := fun c => { c with
    epoch := some r.1, input := r.2, early := formCheck (getSlice d i) (getLane d i l) c }) (find?_cmds_acceptChain ..) rfl]
  simp only [takeChain, decide_eq_false (Nat.not_le.2 hf), decide_eq_false hc, hv]
  rfl

end Chains

/-! ### The statement -/

/-- Settles O20: the write by the state of lane and slot, then a complete chain by the FAST limit, the completion entries and its
check. -/
theorem postcardWrites : Obligations.Postcard_writes := by
  unfold Obligations.Postcard_writes
  rintro s p i l k off bs d ln rfl hlife hlive hon hact hd
  simp only [exec_postcardSlotWrite]
  have hstored (hl : l.val ≠ 0) (he : (getLane s.toCtl i.val l.val).state = .enabled)
      (ht : (Tbl.getD (getLane s.toCtl i.val l.val).slots k.val {}).taken = false) :=
    slotWrite_of_free k.val off.val bs hlife hlive hon hact hl he ht hd
  refine ⟨?laneZero, ?busy, ?stored, ?overFast, ?cqFull, ?accepted⟩
  case laneZero =>
    intro hl
    rw [slotWrite_of_lane_zero _ _ _ hlife hlive hon hl]
  case busy =>
    rintro hl (he | ⟨he, ht⟩)
    · rw [slotWrite_of_error _ _ _ hlife hlive hon hl he]
    · rw [slotWrite_of_taken _ _ _ hlife hlive hon hact hl he ht]
  case stored =>
    intro hl he ht hn
    rw [hstored hl he ht, hn]
    rfl
  case overFast =>
    intro hl he ht hcomplete hf hc
    rw [hstored hl he ht, if_pos hcomplete, takeChain_of_overFast _ _ _ _ _ hf hc]
  case cqFull =>
    intro hl he ht hcomplete hf hc
    rw [hstored hl he ht, if_pos hcomplete, takeChain_of_cqFull _ _ _ _ _ hf hc]
  case accepted =>
    rintro a e v hl he ht hcomplete hf hc ha hv rfl
    rw [hstored hl he ht, if_pos hcomplete]
    constructor
    · intro st hst
      rw [takeChain_of_error hf hc ha (hv.symm.trans hst), markChain, ha]
    · intro r hr
      rw [takeChain_of_ok hf hc ha (hv.symm.trans hr), markChain, ha]

end Sys2Proof.Machine
end

section
/-! SUPPORT. Checks and decisions (R66, R86, R107, R108, R137): what becomes of a fetched descriptor check by check, of an input read
and of a postcard's decision, and the statement about them. -/

namespace Sys2Proof.Machine
open Sys2Proof

/-! ### A fetched descriptor, check by check (R107, R108) -/

section Descriptor
variable {h e : Ctl} {i l : Nat} {bs : Bytes} {a : Nat × Cmd × Ctl} (ha : a = acceptDescriptor h i l bs)
  (he : e = fillDescriptor (refillLane a.2.2 i l) i a.1)
include ha he

/-- A tag check that fails ends a descriptor without an input to read. -/
theorem takeDescriptor_of_untagged {st : Status} (htag : tagCheck (getSlice h i) (getLane h i l) a.2.1 = .error st)
    (hlen : a.2.1.inputLen = 0 ∨ 0x40000000 < a.2.1.inputLen) : takeDescriptor h i l bs = resolve e a.1 st := by
  subst ha he
  simp only [takeDescriptor, htag, if_pos hlen]

/-- Where there is an input, it is read before the failure is reported (log 24). -/
theorem takeDescriptor_of_untagged_input {st : Status}
    (htag : tagCheck (getSlice h i) (getLane h i l) a.2.1 = .error st) (h0 : a.2.1.inputLen ≠ 0)
    (hmax : a.2.1.inputLen ≤ 0x40000000) :
    takeDescriptor h i l bs = readInput (modCmd e a.1 fun c => { c with early := some st }) a.1 a.2.1 := by
  have hlen : ¬ (a.2.1.inputLen = 0 ∨ 0x40000000 < a.2.1.inputLen) := by omega
  subst ha he
  simp only [takeDescriptor, htag, if_neg hlen]

variable {d d' : Ctl} {r : EpochKeys × Bytes} {st : Status}
  (htag : tagCheck (getSlice h i) (getLane h i l) a.2.1 = .ok r)
  (hd : d = modCmd e a.1 fun c => { c with epoch := some r.1 })
include htag hd

theorem takeDescriptor_of_malformed (hform : formCheck (getSlice h i) (getLane h i l) a.2.1 = some st) :
    takeDescriptor h i l bs = resolve d a.1 st := by
  subst ha he hd
  simp only [takeDescriptor, htag, hform]

variable (hform : formCheck (getSlice h i) (getLane h i l) a.2.1 = none)
include hform

theorem takeDescriptor_of_refused (hchk : checks456 d a.2.1 = .error (st, d')) :
    takeDescriptor h i l bs = resolve d' a.1 st := by
  subst ha he hd
  simp only [takeDescriptor, htag, hform, hchk]

variable (hchk : checks456 d a.2.1 = .ok d')
include hchk

theorem takeDescriptor_of_admin (hl : l = 0) :
    takeDescriptor h i l bs = askImage (enterAdmin d' a.1 a.2.1) i a.2.1 := by
  subst ha he hd
  simp only [takeDescriptor, htag, hform, hchk, if_pos hl]

theorem takeDescriptor_of_input (hl : l ≠ 0) (hlen : a.2.1.inputLen ≠ 0) :
    takeDescriptor h i l bs = readInput d' a.1 a.2.1 := by
  subst ha he hd
  simp only [takeDescriptor, htag, hform, hchk, if_neg hl, if_neg hlen]

theorem takeDescriptor_of_no_input (hl : l ≠ 0) (hlen : a.2.1.inputLen = 0) :
    takeDescriptor h i l bs = decide89 d' a.1 (Tbl.getD d'.cmds a.1 a.2.1) (devNow d') := by
  subst ha he hd
  simp only [takeDescriptor, htag, hform, hchk, if_neg hl, if_pos hlen]

end Descriptor

section Fetch
variable {s : State} {i : Fin 256} {l : Fin 64} (hup : lanesUp s.toCtl = true) (hf : fetchable s.toCtl i.val l.val = true)
include hup hf

theorem exec_descriptorFetchDone_failed : exec (.descriptorFetchDone i l .failed) s =
    .next (setCtl s (laneError (setLnErr (dmaFault s.toCtl i.val) i.val l.val 4) i.val l.val)) := by
  refine next_setCtl (if_neg ?_)
  simp [hup, hf]

theorem exec_descriptorFetchDone_ok {h : Ctl} (bs : Bytes)
    (hh : h = holdPages s.toCtl (getSlice s.toCtl i.val).cur i.val (pagesAt (fetchPlace s.toCtl i.val l.val) 64)) :
    exec (.descriptorFetchDone i l (.ok bs)) s =
      .next (setCtl s (fetchNext (takeDescriptor h i.val l.val (padTo 64 bs)) i.val l.val)) := by
  subst hh
  refine next_setCtl (if_neg ?_)
  simp [hup, hf]

end Fetch

/-! ### Input reads (R86, R92) -/

section Input
variable {s : State} {c : Nat} {k : Cmd} {e : Ctl} (hc : Tbl.find? s.toCtl.cmds c = some k)
  (hread : ¬ (k.phase ≠ .input ∨ k.status.isSome = true)) (he : e = endInput s.toCtl c)
include hc hread he

/-- A descriptor whose tag check failed completes with that status whatever its read gives (log 24). -/
theorem exec_inputReadDone_of_early {st : Status} (hearly : k.early = some st) (bs : Bytes) :
    exec (.inputReadDone c .failed) s = .next (setCtl s (resolve e c st)) ∧
      exec (.inputReadDone c (.ok bs)) s = .next (setCtl s (resolve (inputRead e k) c st)) := by
  subst he
  constructor
  · refine next_setCtl ?_
    simp only [hc, if_neg hread, hearly]
  · refine next_setCtl ?_
    simp only [hc, if_neg hread, hearly]

variable (hearly : k.early = none)
include hearly

theorem exec_inputReadDone_failed :
    exec (.inputReadDone c .failed) s = .next (setCtl s (resolve (dmaFault e k.slice) c St.dmaInput)) := by
  subst he
  refine next_setCtl ?_
  simp only [hc, if_neg hread, hearly]

variable {d : Ctl} {bs : Bytes} (hd : d = inputRead e k)
include hd

/-- Check 7 fails (R107). -/
theorem exec_inputReadDone_of_mismatch
    (hopen : (k.epoch.bind fun e => openInput k e (padTo (k.inputLen + 16) bs)) = none) :
    exec (.inputReadDone c (.ok bs)) s = .next (setCtl s (resolve d c St.tagMismatch)) := by
  subst he hd
  refine next_setCtl ?_
  simp only [hc, if_neg hread, hearly, hopen]

theorem exec_inputReadDone_of_opened {p : Bytes}
    (hopen : (k.epoch.bind fun e => openInput k e (padTo (k.inputLen + 16) bs)) = some p) :
    exec (.inputReadDone c (.ok bs)) s = .next (setCtl s
      (decide89 (modCmd d c fun k => { k with input := p, phase := .accepted }) c { k with input := p } (devNow d))) := by
  subst he hd
  refine next_setCtl ?_
  simp only [hc, if_neg hread, hearly, hopen]

end Input

/-! ### Decisions (R137, R286, R334) -/

theorem decide89_of_refused {d d' : Ctl} {id : Nat} {c : Cmd} {st : Status} (h : check89 d id c = .refused st d') (t : W64) :
    decide89 d id c t = resolveAt d' id st t := by
  rw [decide89, h]

theorem decide89_of_admitted {d d' : Ctl} {id : Nat} {c : Cmd} (h : check89 d id c = .admitted d') (t : W64) :
    decide89 d id c t = d' := by
  rw [decide89, h]

section Decision
variable {s : State} {c : Nat} {k : Cmd} (hc : Tbl.find? s.toCtl.cmds c = some k)
include hc

/-- A strict postcard waits for its reserved offset (log 52). -/
theorem exec_predispatchDecision_of_waiting (hw : now s.toCtl < k.waitUntil) : exec (.predispatchDecision c) s = .next s := by
  have hheld : k.phase ≠ .accepted ∨ k.slot.isNone = true ∨ k.status.isSome = true ∨ now s.toCtl < k.waitUntil :=
    .inr (.inr (.inr hw))
  refine next_setCtl (b := s.toCtl) ?_
  simp only [hc, if_pos hheld]

variable (hdue : ¬ (k.phase ≠ .accepted ∨ k.slot.isNone = true ∨ k.status.isSome = true ∨ now s.toCtl < k.waitUntil))
include hdue

theorem exec_predispatchDecision_of_early {st : Status} (hearly : k.early = some st) :
    exec (.predispatchDecision c) s = .next (setCtl s (resolveAt s.toCtl c st (k.tAccept + 105))) := by
  refine next_setCtl ?_
  simp only [hc, if_neg hdue, hearly]

variable {d : Ctl} (hearly : k.early = none)
include hearly

theorem exec_predispatchDecision_of_unchecked {st : Status} (hchk : checks456 s.toCtl k = .error (st, d)) :
    exec (.predispatchDecision c) s = .next (setCtl s (resolveAt d c st (k.tAccept + 105))) := by
  refine next_setCtl ?_
  simp only [hc, if_neg hdue, hearly, hchk]

/-- A postcard that passes checks 4 to 6 is the watchman's. -/
theorem exec_predispatchDecision_of_checked (hchk : checks456 s.toCtl k = .ok d) :
    exec (.predispatchDecision c) s = .next (setCtl s (decide89 d c k (k.tAccept + 105))) := by
  refine next_setCtl ?_
  simp only [hc, if_neg hdue, hearly, hchk]

end Decision

/-! ### The statement -/

/-- Settles O21, event by event. A descriptor with a failed tag check that completes after its input is read, whatever the read gives,
is the model's choice (log 24), and so is the offset that a strict postcard's decision waits for (log 52). -/
theorem checksAndDecisions : Obligations.Checks_and_decisions := by
  unfold Obligations.Checks_and_decisions
  constructor
  · rintro s i l bs h e a sl ln hup hf rfl rfl hh ha he
    refine ⟨?failed, ?untagged, ?malformed, ?refused, ?passed⟩
    case failed => exact exec_descriptorFetchDone_failed hup hf
    all_goals rw [exec_descriptorFetchDone_ok hup hf bs hh]
    case untagged =>
      intro st htag
      constructor
      · intro hlen
        rw [takeDescriptor_of_untagged ha he htag hlen]
      · intro h0 hmax
        rw [takeDescriptor_of_untagged_input ha he htag h0 hmax]
    case malformed =>
      intro r d st htag hd hform
      rw [takeDescriptor_of_malformed ha he htag hd hform]
    case refused =>
      intro r d st d' htag hd hform hchk
      rw [takeDescriptor_of_refused ha he htag hd hform hchk]
    case passed =>
      intro r d d' htag hd hform hchk
      refine ⟨fun hl => ?_, fun hl hlen => ?_, fun hl hlen => ?_⟩
      · rw [takeDescriptor_of_admin ha he htag hd hform hchk hl]
      · rw [takeDescriptor_of_input ha he htag hd hform hchk hl hlen]
      · rw [takeDescriptor_of_no_input ha he htag hd hform hchk hl hlen]
  · intro s c k e hc hst he
    have hread (hp : k.phase = .input) : ¬ (k.phase ≠ .input ∨ k.status.isSome = true) := by simp [hp, hst]
    refine ⟨?early, ?inputFailed, ?inputRead, ?decision, ?waiting⟩
    case early =>
      intro st bs hp hearly
      exact exec_inputReadDone_of_early hc (hread hp) he hearly bs
    case inputFailed =>
      intro hp hearly
      exact exec_inputReadDone_failed hc (hread hp) he hearly
    case inputRead =>
      intro bs d hp hearly hd
      constructor
      · intro hopen
        exact exec_inputReadDone_of_mismatch hc (hread hp) he hearly hd hopen
      · intro p hopen
        exact exec_inputReadDone_of_opened hc (hread hp) he hearly hd hopen
    case decision =>
      intro hp hslot hw
      have hdue : ¬ (k.phase ≠ .accepted ∨ k.slot.isNone = true ∨ k.status.isSome = true ∨ now s.toCtl < k.waitUntil) := by
        simp [hp, hst, Option.isSome_iff_ne_none.1 hslot, hw]
      refine ⟨?_, ?_, ?_, ?_⟩
      · intro st hearly
        exact exec_predispatchDecision_of_early hc hdue hearly
      · intro st d hearly hchk
        exact exec_predispatchDecision_of_unchecked hc hdue hearly hchk
      · intro d st d' hearly hchk hverdict
        rw [exec_predispatchDecision_of_checked hc hdue hearly hchk, decide89_of_refused hverdict]
      · intro d d' hearly hchk hverdict
        rw [exec_predispatchDecision_of_checked hc hdue hearly hchk, decide89_of_admitted hverdict]
    case waiting =>
      intro hw
      exact exec_predispatchDecision_of_waiting hc hw

end Sys2Proof.Machine
end

section
/-! SUPPORT. The host ports (R24, R42, R53, R78, R79, R85, R87, R134, R367, R479, R481, R490): what each event of a port makes of the
package, and the statement about them. -/

namespace Sys2Proof.Machine
open Sys2Proof

/-! ### What a change of a port leaves -/

section PortChange
variable (d : Ctl) (p : Port) (f : PortState → PortState)

theorem awake_modPort : awake (modPort d p f) = awake d := by rw [awake, modPort_pkg, awake]

theorem slicesWhere_congr {d e : Ctl} (h : e.slices = d.slices) (q : Slice → Bool) : slicesWhere e q = slicesWhere d q := by
  rw [slicesWhere, h, slicesWhere]

theorem inResultArea_congr {d e : Ctl} (h : e.slices = d.slices) (pasid : BitVec 20) (page : Nat) :
    inResultArea e p pasid page = inResultArea d p pasid page := by
  rw [inResultArea, h, inResultArea]

theorem sliceOfPasid_congr {d e : Ctl} (h : e.slices = d.slices) (pasid : BitVec 20) :
    sliceOfPasid e p pasid = sliceOfPasid d p pasid := by
  rw [sliceOfPasid, h, sliceOfPasid]

end PortChange

/-! ### Links, FLR and PERST (R79, R87, R479, R490) -/

section Links
variable (s : State) (p : Port)

theorem exec_linkDown :
    exec (.linkDown p) s = .next (setCtl s (if awake s.toCtl then linkLost s.toCtl p else s.toCtl)) := rfl

/-- A record of detector 0x15, and the slices' loss of the port (R79, R367). -/
theorem linkLost_of_up {d : Ctl} (h : (getPort d p).linkUp = true) :
    linkLost d p = portGone (faultRecord (modPort d p fun x => { x with linkUp := false }) 0x15 6 2 (portNum p) 0xFF 0 0xFFFF 0)
      p false := by
  rw [linkLost, if_pos h]

theorem linkLost_of_down {d : Ctl} (h : (getPort d p).linkUp = false) : linkLost d p = d := by
  simp [linkLost, h]

theorem exec_perstDeassert : exec (.perstDeassert p) s = .next (setCtl s
    (if s.toCtl.pkg.resetN then modPort s.toCtl p fun x => { x with perst := false } else s.toCtl)) := rfl

variable {s}

theorem exec_flr_of_up (ha : awake s.toCtl = true) (hup : (getPort s.toCtl p).linkUp = true) :
    exec (.flr p) s = .next (setCtl s (portGone (modPort s.toCtl p resetFunction) p true)) := by
  refine next_setCtl (if_pos ?_)
  rw [ha, hup]
  rfl

theorem exec_perstAssert_of_awake (hr : s.toCtl.pkg.resetN = true) (ha : awake s.toCtl = true) :
    exec (.perstAssert p) s = .next (setCtl s
      (modPort (linkLost (modPort s.toCtl p fun x => { x with perst := true }) p) p resetFunction)) := by
  refine next_setCtl (if_pos ?_)
  rw [modPort_pkg, awake_modPort, hr, ha]
  rfl

variable {rate : LinkRate} {width : LinkWidth}

theorem exec_linkUp_of_mayTrain {e : Ctl} (ht : mayTrain s.toCtl p = true) (hrate : rate ≤ (optionsOf s.toCtl p).rate)
    (hwidth : width ≤ (optionsOf s.toCtl p).width)
    (he : e = modPort s.toCtl p fun x => { x with linkUp := true, rate := rate, width := width }) :
    exec (.linkUp p rate width) s = .next (setCtl s (mirrorStep e .package 0
      (forEach (slicesWhere s.toCtl fun x => x.state == .portLost && boundOn x p) e fun d i =>
        modSlice d i fun x => { x with cur := p }))) := by
  subst he
  rw [← slicesWhere_congr (modPort_slices s.toCtl p fun x => { x with linkUp := true, rate := rate, width := width })]
  refine next_setCtl (if_pos ?_)
  rw [ht, decide_eq_true hrate, decide_eq_true hwidth]
  rfl

theorem exec_linkUp_of_unfit (h : mayTrain s.toCtl p = false ∨ (optionsOf s.toCtl p).rate < rate ∨
      (optionsOf s.toCtl p).width < width) :
    exec (.linkUp p rate width) s = .next s := by
  refine next_setCtl (b := s.toCtl) (if_neg ?_)
  rcases h with h | h | h
  · simp [h]
  · simp [Nat.not_le.2 h]
  · simp [Nat.not_le.2 h]

end Links

/-! ### Configuration requests (R24, R42, R85, R481) -/

section Requests
variable {s : State} {p : Port} (ha : awake s.toCtl = true) (hup : (getPort s.toCtl p).linkUp = true)
include ha hup

theorem exec_configRequest_of_retry (off : BitVec 12) (w : Option W32) (hid : s.toCtl.pkg.deviceId = none) :
    exec (.configRequest p off w) s = .next (setCtl s (emit s.toCtl (.config p none))) := by
  refine next_setCtl ?_
  simp [ha, hup, retryStatus, hid]

theorem exec_configRequest_of_word {off : BitVec 12} {w : W32} (hid : s.toCtl.pkg.deviceId.isSome = true)
    (hw : configWord s.toCtl off = some w) :
    exec (.configRequest p off none) s = .next (setCtl s (emit s.toCtl (.config p (some w)))) := by
  refine next_setCtl ?_
  simp only [ha, hup, retryStatus, Option.isNone_eq_false_iff.2 hid, hw]
  rfl

/-- A word the spec does not give reads a free value (log 38). -/
theorem exec_configRequest_of_free {off : BitVec 12} (hid : s.toCtl.pkg.deviceId.isSome = true)
    (hw : configWord s.toCtl off = none) :
    exec (.configRequest p off none) s = .next (setCtl s
      (drawn (emit s.toCtl (.config p (some ((Config.freeWord s.toCtl.fresh).truncate 32)))))) := by
  refine next_setCtl ?_
  simp only [ha, hup, retryStatus, Option.isNone_eq_false_iff.2 hid, hw]
  rfl

theorem exec_configRequest_write (off : BitVec 12) (v : W32) (hid : s.toCtl.pkg.deviceId.isSome = true) :
    exec (.configRequest p off (some v)) s = .next (setCtl s
      (if off = Config.atsControl then modPort s.toCtl p fun x => { x with ats := v.getLsbD 31 } else s.toCtl)) := by
  refine next_setCtl ?_
  simp only [ha, hup, retryStatus, Option.isNone_eq_false_iff.2 hid]
  rfl

/-! ### Invalidations (R85, R134) -/

variable {pasid : BitVec 20} {page : Nat} {e : Ctl}
  (he : e = emit (modPort s.toCtl p fun x => { x with
    atc := x.atc.filter fun k => !(k.pasid == pasid.toNat && k.page == page) }) (.atsDone p))
include he

/-- A held translation of a postcard result area is asked for again (R134). -/
theorem exec_atsInvalidation_of_resultArea {i : Nat} (hheld : atcHolds (getPort s.toCtl p) pasid page = true)
    (harea : inResultArea s.toCtl p pasid page = true) (hi : sliceOfPasid s.toCtl p pasid = some i) :
    exec (.atsInvalidation p pasid page) s = .next (setCtl s (holdPage (askPage e p i page) p i page)) := by
  have hs : e.slices = s.toCtl.slices := by rw [he, emit_slices, modPort_slices]
  rw [← inResultArea_congr p hs] at harea
  rw [← sliceOfPasid_congr p hs] at hi
  subst he
  refine next_setCtl ?_
  simp only [ha, hup, hheld, harea, hi]
  rfl

theorem exec_atsInvalidation_of_other (h : atcHolds (getPort s.toCtl p) pasid page = false ∨
      inResultArea s.toCtl p pasid page = false) :
    exec (.atsInvalidation p pasid page) s = .next (setCtl s e) := by
  have hs : e.slices = s.toCtl.slices := by rw [he, emit_slices, modPort_slices]
  have hnot : (atcHolds (getPort s.toCtl p) pasid page && inResultArea e p pasid page) = false := by
    rw [inResultArea_congr p hs, Bool.and_eq_false_iff]
    exact h
  subst he
  refine next_setCtl ?_
  simp only [ha, hup, hnot]
  rfl

end Requests

/-! ### The statement -/

/-- Settles O40, event by event. What LINK_UP outside a port's options and a configuration word the spec does not give do, and the
slices after a lost link or FLR, are the model's choices (log 38), as is the mirror step at LINK_UP (log 49). -/
theorem hostPorts : Obligations.Host_ports := by
  unfold Obligations.Host_ports
  constructor
  · rintro s p rate width d rfl
    refine ⟨?down, ?downAlready, ?flr, ?up, ?unfit, ?perst, ?perstEnd, ?perstHeld⟩
    case down =>
      intro ha hup
      rw [exec_linkDown, if_pos ha, linkLost_of_up p hup]
    case downAlready =>
      intro ha hup
      rw [exec_linkDown, if_pos ha, linkLost_of_down p hup, setCtl_toCtl]
    case flr =>
      intro ha hup
      exact exec_flr_of_up p ha hup
    case up =>
      intro e ht hrate hwidth he
      exact exec_linkUp_of_mayTrain p ht hrate hwidth he
    case unfit =>
      intro h
      exact exec_linkUp_of_unfit p h
    case perst =>
      intro hr ha
      exact exec_perstAssert_of_awake p hr ha
    case perstEnd =>
      intro hr
      rw [exec_perstDeassert, if_pos hr]
    case perstHeld =>
      intro hr
      rw [exec_perstDeassert, hr]
      rfl
  · rintro s p off v pasid page d e rfl ha hup
    refine ⟨?retry, ?identity, ?words, ?invalidation⟩
    case retry =>
      intro hid
      exact exec_configRequest_of_retry ha hup off none hid
    case identity =>
      intro i hi
      exact exec_configRequest_of_word ha hup (Option.isSome_of_eq_some hi) (by simp [configWord, hi])
    case words =>
      intro hid
      refine ⟨?_, ?_, fun h0 h8 h2C => ?_, ?_⟩
      · exact exec_configRequest_of_word ha hup hid (by simp [configWord])
      · exact exec_configRequest_of_word ha hup hid (by simp [configWord])
      · exact exec_configRequest_of_free ha hup hid (by rw [configWord, if_neg h0, if_neg h8, if_neg h2C])
      · exact exec_configRequest_write ha hup off v hid
    case invalidation =>
      intro he
      constructor
      · intro i hheld harea hi
        exact exec_atsInvalidation_of_resultArea ha hup he hheld harea hi
      · intro h
        exact exec_atsInvalidation_of_other ha hup he h

end Sys2Proof.Machine
end

section
/-! SUPPORT. Lane windows (R61, R62, R64, R69, R272): every register of a window is a function of its slice, of the slice's accepted
commands, of the package's state and of device time, and the statement about them. -/

namespace Sys2Proof.Machine
open Sys2Proof

/-! ### SLICE_BUSY (R64, R272) -/

theorem creditsHeld_eq_sliceCmds (d : Ctl) (i : Nat) :
    creditsHeld d i = ((sliceCmds d i).filter fun e => e.2.credit).length := by
  simp only [creditsHeld, sliceCmds, List.filter_filter, Bool.and_comm]

theorem sliceBusy_iff (d : Ctl) (i : Nat) :
    sliceBusy d i = true ↔ (getSlice d i).credits ≤ ((sliceCmds d i).filter fun e => e.2.credit).length := by
  rw [← creditsHeld_eq_sliceCmds, sliceBusy, decide_eq_true_iff]

/-- Bit 3 of a word whose lower fields take bits 2:0 and whose higher ones start at bit 4. -/
theorem testBit_three_of_fields {low high : Nat} (h : low < 8) (b : Bool) :
    (low + 8 * b2n b + 16 * high).testBit 3 = b := by
  cases b <;> simp only [b2n, Nat.testBit_eq_decide_div_mod_eq] <;> simp <;> omega

/-- The fields of LN_STATUS above SLICE_BUSY start at bit 4 (R62). -/
theorem lnStatus_fields {d : Ctl} {i l : Nat} (h : (getLane d i l).state ≠ .disabled) :
    ∃ high, lnStatus d i l =
      laneCode (getLane d i l).state + 4 * b2n (cqFull d i l) + 8 * b2n (sliceBusy d i) + 16 * high := by
  refine ⟨(List.range 3).foldl (fun a k => a + b2n (Tbl.getD (getLane d i l).slots k {}).taken * 2 ^ k) 0 +
    16 * (getSlice d i).gen.toNat + 4096 * (getLane d i l).fetchIdx, ?_⟩
  rw [lnStatus, if_neg h]
  ring

/-- LN_STATUS[3] is SLICE_BUSY (R62). -/
theorem lnStatus_testBit_three {d : Ctl} {i l : Nat} (h : (getLane d i l).state ≠ .disabled) :
    (lnStatus d i l).testBit 3 = sliceBusy d i := by
  have hlow : laneCode (getLane d i l).state + 4 * b2n (cqFull d i l) < 8 := by
    cases (getLane d i l).state <;> cases cqFull d i l <;> decide
  obtain ⟨high, hfields⟩ := lnStatus_fields h
  rw [hfields, testBit_three_of_fields hlow]

/-! ### States that agree on a slice -/

section Agree
variable {d e : Ctl} {i : Nat}

theorem getLane_of_slice (hs : getSlice d i = getSlice e i) (l : Nat) : getLane d i l = getLane e i l := by
  rw [getLane, hs, getLane]

theorem windowLive_of_slice (hs : getSlice d i = getSlice e i) (l : Nat) : windowLive d i l = windowLive e i l := by
  rw [windowLive, hs, windowLive]

theorem windowOn_of_slice (hs : getSlice d i = getSlice e i) (src : RegSource) : windowOn d src i = windowOn e src i := by
  cases src
  · rw [windowOn, hs, windowOn]
  · rfl

theorem lanePair_of_slice (hs : getSlice d i = getSlice e i) (ht : devNow d = devNow e) (off : Nat) :
    lanePair d i off = lanePair e i off := by
  rw [lanePair, hs, ht, lanePair]

/-- The outstanding commands of a lane are commands of its slice (R69). -/
theorem outstanding_eq_sliceCmds (d : Ctl) (i l : Nat) :
    outstanding d i l = (sliceCmds d i).filter fun e => onLane d i l e.2 := by
  rw [outstanding, sliceCmds, List.filter_filter]
  refine List.filter_congr fun e _ => ?_
  cases h : e.2.slice == i <;> simp [onLane, h]

theorem onLane_of_slice (hs : getSlice d i = getSlice e i) (l : Nat) : onLane d i l = onLane e i l := by
  funext c
  rw [onLane, getLane_of_slice hs, hs, onLane]

theorem cqFull_of_slice (hs : getSlice d i = getSlice e i) (hc : sliceCmds d i = sliceCmds e i) (l : Nat) :
    cqFull d i l = cqFull e i l := by
  simp only [cqFull, freeEntries, outstanding_eq_sliceCmds, getLane_of_slice hs, onLane_of_slice hs, hc]

theorem sliceBusy_of_slice (hs : getSlice d i = getSlice e i) (hc : sliceCmds d i = sliceCmds e i) :
    sliceBusy d i = sliceBusy e i := by
  rw [sliceBusy, creditsHeld_eq_sliceCmds, hs, hc, sliceBusy, creditsHeld_eq_sliceCmds]

theorem lnStatus_of_slice (hs : getSlice d i = getSlice e i) (hc : sliceCmds d i = sliceCmds e i) (l : Nat) :
    lnStatus d i l = lnStatus e i l := by
  simp only [lnStatus, hs, getLane_of_slice hs, cqFull_of_slice hs hc, sliceBusy_of_slice hs hc]

theorem laneWord_of_slice (hs : getSlice d i = getSlice e i) (hc : sliceCmds d i = sliceCmds e i)
    (hl : d.pkg.life = e.pkg.life) (ht : devNow d = devNow e) (l off : Nat) : laneWord d i l off = laneWord e i l off := by
  simp only [laneWord, hl, windowLive_of_slice hs, getLane_of_slice hs, lanePair_of_slice hs ht, lnStatus_of_slice hs hc]

end Agree

/-! ### The statement -/

/-- Settles O56: LN_STATUS has SLICE_BUSY in its bit 3, and every word and pair of a window is read from what the states share. -/
theorem laneWindowsShowTheirSlice : Obligations.Lane_windows_show_their_slice := by
  unfold Obligations.Lane_windows_show_their_slice
  intro d e src i l o off
  constructor
  · intro hst
    rw [lnStatus_testBit_three hst, sliceBusy_iff]
  · intro hs hc hl ht
    constructor
    · rw [liveWord, windowOn_of_slice hs, laneWord_of_slice hs hc hl ht, liveWord]
    · rw [livePair, windowOn_of_slice hs, windowLive_of_slice hs, lanePair_of_slice hs ht, livePair]

end Sys2Proof.Machine
end

section
/-! SUPPORT. Admin models (R88, R112, R323 to R328): what check 5 of a load and of an unload says, what each check of an image makes of
a load, and the statement about them. -/

namespace Sys2Proof.Machine
open Sys2Proof

/-! ### Checks 5 and 6 -/

section Checks
variable {d b : Ctl} {k : Cmd} {c : Nat}

theorem loadCheck_of_barred {x : Tenant} (hx : Tbl.find? d.tenants (getSlice d k.slice).tenant = some x)
    (h : x.state ≠ .claimed ∨ tenantFrozen d (getSlice d k.slice).tenant = true) : loadCheck d k = some St.notPermitted := by
  simp only [loadCheck, hx, if_pos h]

theorem exists_tenant_of_loadCheck (h : loadCheck d k = none) :
    ∃ x, Tbl.find? d.tenants (getSlice d k.slice).tenant = some x := by
  cases hx : Tbl.find? d.tenants (getSlice d k.slice).tenant with
  | none => simp [loadCheck, hx] at h
  | some x => exact ⟨x, rfl⟩

/-- The draws of check 6 change the buckets of the slice and nothing else (R277): its tenant is still found. -/
theorem find?_tenant_of_check6 (h : check6 d k = some b) :
    Tbl.find? b.tenants (getSlice b k.slice).tenant = Tbl.find? d.tenants (getSlice d k.slice).tenant := by
  simp only [check6, Option.ite_none_left_eq_some, Option.some.injEq] at h
  obtain ⟨-, rfl⟩ := h
  rw [modSlice_tenants, getSlice_modSlice]

theorem unloadCheck_of_used {m : Model} (hres : resident d k.slice k.model = some m) (hused : handleUsed d k.model c = true) :
    unloadCheck c d k = some St.inUse := by
  simp [unloadCheck, hres, hused]

theorem unloadCheck_of_absent (hres : resident d k.slice k.model = none) : unloadCheck c d k = some St.notResident := by
  simp [unloadCheck, hres]

end Checks

/-! ### The checks of an image (R327, R328)

`d` holds the translations of the image's `n` pages, `v` is the image as it was read. -/

section Image
variable {b d : Ctl} {c : Nat} {k : Cmd} {t : Nat} {x : Tenant} {img v : Bytes} {n : Nat}
  (hn : n = fld k.raw 24 4) (hv : v = padTo (4096 * n) img)
  (hd : d = holdPages b (getSlice b k.slice).cur k.slice (pagesAt (BitVec.ofNat 64 (fld k.raw 16 8)) (4096 * n)))
include hn hv hd

theorem startLoad_of_malformed (h : n = 0 ∨ headerOk v x.ident.toNat n = false) :
    startLoad b c k t x (.ok img) = adminFail d c St.badLength := by
  subst hn hv hd
  simp only [startLoad, Bool.not_eq_true', if_pos h]

section WellFormed
variable (hn0 : n ≠ 0) (hok : headerOk v x.ident.toNat n = true)
include hn0 hok

theorem startLoad_of_wrongTag (h : gcmOpen (wrapKey x) (sub v 24 12) (v.take 40) (sub v 40 32) (sub v 72 16) = none) :
    startLoad b c k t x (.ok img) = adminFail d c St.tagMismatch := by
  subst hn hv hd
  simp only [startLoad, Bool.not_eq_true', hn0, hok, Bool.true_eq_false, or_self, if_false, h]

/-- A body that can be read is loaded where its resources are there: its sheaves are queued, and its tag is judged after the last. -/
theorem startLoad_of_read {key : Bytes} {m : Model} {pages : Bytes}
    (hkey : gcmOpen (wrapKey x) (sub v 24 12) (v.take 40) (sub v 40 32) (sub v 72 16) = some key)
    (hbody : readBody t (fld v 10 1) (fld v 11 1) (fld k.raw 28 4) (sub v 112 16)
      (gcmCrypt key (zeros 12) (sub v 128 (fld v 16 8))) = some (m, pages)) :
    startLoad b c k t x (.ok img) =
      if resourcesOk d t m = false then adminFail d c St.resource
      else serveSheaves (queueTransfer { d with
        loads := Tbl.set d.loads c {
          cmd := c, model := m, pages := pages, sheaves := ceilDiv (128 + fld v 16 8) 4096, key := key
          tagOk := gcmTag key (zeros 12) (v.take 112) (sub v 128 (fld v 16 8)) == sub v 112 16 } }
        k.slice (128 + fld v 16 8) false fun _ => .load c) := by
  subst hn hv hd
  simp only [startLoad, Bool.not_eq_true', hn0, hok, Bool.true_eq_false, or_self, if_false, hkey, hbody]

end WellFormed
end Image

/-! ### The commands -/

theorem exec_gqiAdmModelLoad_of_tenant {s : State} {c : Nat} {k : Cmd} {b : Ctl} {x : Tenant} (image : DmaResult)
    (h : AdminRuns s c 0x86 loadCheck k b) (hx : Tbl.find? b.tenants (getSlice b k.slice).tenant = some x) :
    exec (.gqiAdmModelLoad c image) s =
      .next (adminDone s k (startLoad b c k (getSlice b k.slice).tenant x image)) :=
  next_admin h (by simp only [hx])

theorem exec_gqiAdmModelLoad_failed {s : State} {c : Nat} {k : Cmd} {b : Ctl} (h : AdminRuns s c 0x86 loadCheck k b) :
    exec (.gqiAdmModelLoad c .failed) s = .next (adminDone s k (adminFail (dmaFault b k.slice) c St.dmaInput)) := by
  have ⟨_, hcheck, h6⟩ := h
  obtain ⟨x, hx⟩ := exists_tenant_of_loadCheck hcheck
  exact exec_gqiAdmModelLoad_of_tenant .failed h ((find?_tenant_of_check6 h6).trans hx)

/-! ### The statement -/

/-- Settles O19, check by check: a load that runs has a tenant to load for, and what becomes of its image follows the checks of R328. -/
theorem adminModels : Obligations.Admin_models := by
  unfold Obligations.Admin_models
  rintro s c k b d t x img v n rfl hn hv
  refine ⟨?barred, ?unread, ?load, ?unload, ?unloadRefused⟩
  case barred =>
    intro h hx hbar
    exact next_admin_of_refused h (loadCheck_of_barred hx hbar)
  case unread => exact exec_gqiAdmModelLoad_failed
  case load =>
    intro h hx hd
    rw [exec_gqiAdmModelLoad_of_tenant (.ok img) h hx]
    refine ⟨?malformed, ?wrongTag, ?read⟩
    case malformed =>
      intro hbad
      rw [startLoad_of_malformed hn hv hd hbad]
    case wrongTag =>
      intro hn0 hok hkey
      rw [startLoad_of_wrongTag hn hv hd hn0 hok hkey]
    case read =>
      intro key m pages hn0 hok hkey hbody
      rw [startLoad_of_read hn hv hd hn0 hok hkey hbody]
      constructor
      · intro hres
        rw [if_pos hres]
      · intro hres
        rw [if_neg (by simp [hres])]
  case unload =>
    intro h
    exact next_admin h rfl
  case unloadRefused =>
    intro h
    constructor
    · intro m hres hused
      exact next_admin_of_refused h (unloadCheck_of_used hres hused)
    · intro hres
      exact next_admin_of_refused h (unloadCheck_of_absent hres)

end Sys2Proof.Machine
end

section
/-! SUPPORT. Admitted commands (R109, R133, R141, R163): what entering the hamlets and staging at once do with an admitted command of
their opcode, and the statement about them. -/

namespace Sys2Proof.Machine
open Sys2Proof

/-- An admitted command that runs model `m` at entry point `e` enters its hamlets, off the fast path where a hamlet lacks idle cores. -/
def entered (d : Ctl) (c : Nat) (m : Model) (e : Entry) : Ctl :=
  modCmd (offPath d c 6 ((entryHamlets m e).any fun h => decide ((idleCores d h).length < e.coreDemand))) c fun k => { k with
    phase := .running, parts := (entryHamlets m e).foldl (fun t h => Tbl.set t h {}) []
    grants := (sortBy (fun a b => decide (a.1 < b.1)) e.dests).map fun x => { dest := x.1, bytes := x.2 } }

/-- An admitted command that runs no model is staged, off the fast path where its lane is not clear. -/
def staged (d : Ctl) (c : Nat) (k : Cmd) : Ctl :=
  modCmd (offPath d c 9 (!laneClear d c k)) c fun k => { k with phase := .running, parts := [] }

section Admitted
variable {d : Ctl} {c : Nat} {k : Cmd} {op : Byte} (hk : Tbl.find? d.cmds c = some k)
include hk

/-- An instruction of another opcode than the command's changes nothing: the model's choice (log 10). -/
theorem enterHamlets_of_opcode_ne (hop : k.opcode ≠ op) : enterHamlets d c op = d := by
  simp only [enterHamlets, hk, if_pos (Or.inr (Or.inl hop) : k.phase ≠ .admitted ∨ k.opcode ≠ op ∨ k.status.isSome)]

variable (hphase : k.phase = .admitted) (hst : k.status = none) (hop : k.opcode = op)
include hphase hst hop

theorem enterHamlets_of_admitted {m : Model} {e : Entry} (hm : cmdModel d k = some m) (he : cmdEntry d k = some e) :
    enterHamlets d c op = entered d c m e := by
  have hgo : ¬ (k.phase ≠ .admitted ∨ k.opcode ≠ op ∨ k.status.isSome) := by simp [hphase, hop, hst]
  simp only [enterHamlets, hk, if_neg hgo, hm, he, entered]

theorem stageAtOnce_of_admitted : stageAtOnce d c op = staged d c k := by
  have hgo : ¬ (k.phase ≠ .admitted ∨ k.opcode ≠ op ∨ k.status.isSome) := by simp [hphase, hop, hst]
  simp only [stageAtOnce, hk, if_neg hgo, staged]

end Admitted

/-! ### The statement -/

/-- Settles O23, instruction by instruction. That GQI_OP_RUN leaves the state as it was where the command's opcode is another is the
model's choice (log 10). -/
theorem admittedCommands : Obligations.Admitted_commands := by
  unfold Obligations.Admitted_commands
  constructor
  · rintro s c k m e d hk hphase hst hm he rfl
    refine ⟨?run, ?runCtx, ?prefill, ?otherOpcode⟩
    case run =>
      intro hop
      exact next_setCtl (enterHamlets_of_admitted hk hphase hst hop hm he)
    case runCtx =>
      intro hop
      exact next_setCtl (enterHamlets_of_admitted hk hphase hst hop hm he)
    case prefill =>
      intro hop
      exact next_setCtl (enterHamlets_of_admitted hk hphase hst hop hm he)
    case otherOpcode =>
      intro hop
      exact next_ctl (enterHamlets_of_opcode_ne hk hop)
  · intro s c k hk hphase hst
    constructor
    · intro hop
      exact next_setCtl (stageAtOnce_of_admitted hk hphase hst hop)
    · intro hop
      exact next_setCtl (stageAtOnce_of_admitted hk hphase hst hop)

end Sys2Proof.Machine
end

section
/-! SUPPORT. The arithmetic of the cores (R145 to R150): an encoding and the number it stands for, sums and their order, NaN through the
tree, INT8 accumulation, the formats a K step takes, and the statement about them. -/

namespace Sys2Proof.Machine
open Sys2Proof

/-! ### Encodings and their numbers (R145, R146, R151) -/

section Encoding
variable (f : FloatFormat) (x : Nat)

/-- The exponent field of an encoding. -/
theorem bits_exponent (hE : 0 < f.expBits) :
    bits x (f.expBits + f.manBits - 1) f.manBits = x % 2 ^ (f.expBits + f.manBits) / 2 ^ f.manBits := by
  rw [bits, show f.expBits + f.manBits - 1 + 1 - f.manBits = f.expBits by omega, Nat.add_comm, pow_add,
    Nat.mod_mul_right_div_self]

theorem mantissa_mod : x % 2 ^ (f.expBits + f.manBits) % 2 ^ f.manBits = x % 2 ^ f.manBits :=
  Nat.mod_mod_of_dvd _ (pow_dvd_pow 2 (Nat.le_add_left ..))

/-- The sign bit and the magnitude bits make up the encoding. -/
theorem signBit_add_magnitude (hx : x < 2 ^ (1 + f.expBits + f.manBits)) :
    signBit f (bitOf x (f.expBits + f.manBits)) + x % 2 ^ (f.expBits + f.manBits) = x := by
  have hq : x / 2 ^ (f.expBits + f.manBits) < 2 := by
    rw [Nat.div_lt_iff_lt_mul (Nat.two_pow_pos _)]
    rwa [Nat.add_assoc, pow_add, pow_one] at hx
  have hb : b2n (bitOf x (f.expBits + f.manBits)) = x / 2 ^ (f.expBits + f.manBits) := by
    rw [bitOf, b2n]
    interval_cases x / 2 ^ (f.expBits + f.manBits) <;> rfl
  rw [signBit, hb]
  exact Nat.div_add_mod' ..

theorem toUnit_self (m : Nat) (q : Int) : toUnit m q q = m := by simp [toUnit]

/-- A number below the least normal one keeps its mantissa. -/
theorem roundMag_subnormal {m : Nat} (hm : m < 2 ^ f.manBits) : roundMag f m (minExp f) = m := by
  unfold roundMag
  split
  · next h => exact h.symm
  · next h =>
    have hlog : Nat.log2 m < f.manBits := (Nat.log2_lt h).2 hm
    have hq : max (minExp f) ((Nat.log2 m : Int) + minExp f - f.manBits) = minExp f := by omega
    simp only [hq, toUnit_self]
    simp

/-- A normal number is exact: its exponent field counts from 1. -/
theorem roundMag_normal {m e : Nat} (hm : m < 2 ^ f.manBits) :
    roundMag f (2 ^ f.manBits + m) (minExp f + (e + 1 : Nat) - 1) = (e + 1) * 2 ^ f.manBits + m := by
  have hne : 2 ^ f.manBits + m ≠ 0 := by have := Nat.two_pow_pos f.manBits; omega
  have hlog : Nat.log2 (2 ^ f.manBits + m) = f.manBits :=
    (Nat.log2_eq_iff hne).2 ⟨by omega, by rw [pow_succ]; omega⟩
  have hq : max (minExp f) ((f.manBits : Int) + (minExp f + (e + 1 : Nat) - 1) - f.manBits) = minExp f + (e + 1 : Nat) - 1 := by
    omega
  have he : (minExp f + (e + 1 : Nat) - 1 - minExp f).toNat = e := by omega
  rw [roundMag, if_neg hne]
  simp only [hlog, hq, he, toUnit_self]
  ring

/-- A finite encoding stands for a number that rounds to its magnitude bits. -/
theorem decodeNum_finite (hE : 0 < f.expBits) (hfin : x % 2 ^ (f.expBits + f.manBits) ≤ maxFinite f) :
    ∃ m e, decodeNum f x = .fin (bitOf x (f.expBits + f.manBits)) m e ∧
      roundMag f m e = x % 2 ^ (f.expBits + f.manBits) := by
  have hm : x % 2 ^ f.manBits < 2 ^ f.manBits := Nat.mod_lt _ (Nat.two_pow_pos _)
  have hsplit := Nat.div_add_mod' (x % 2 ^ (f.expBits + f.manBits)) (2 ^ f.manBits)
  rw [mantissa_mod] at hsplit
  simp only [decodeNum, if_neg (Nat.not_lt.2 hfin), bits_exponent f x hE]
  cases he : x % 2 ^ (f.expBits + f.manBits) / 2 ^ f.manBits with
  | zero =>
    refine ⟨_, _, rfl, ?_⟩
    rw [roundMag_subnormal f hm, ← hsplit, he]
    simp
  | succ e =>
    refine ⟨_, _, rfl, ?_⟩
    rw [roundMag_normal f hm, ← hsplit, he]

/-- The number of a finite encoding converts back to it. -/
theorem convertNum_decodeNum (mode : OverflowMode) (n : Bool) (hE : 0 < f.expBits)
    (hx : x < 2 ^ (1 + f.expBits + f.manBits)) (hfin : x % 2 ^ (f.expBits + f.manBits) ≤ maxFinite f) :
    convertNum f mode (decodeNum f x) n = x := by
  obtain ⟨m, e, hdec, hround⟩ := decodeNum_finite f x hE hfin
  simp only [convertNum, hdec, hround, if_neg (Nat.not_lt.2 hfin)]
  exact signBit_add_magnitude f x hx

end Encoding

/-- Every format of R145 has an exponent field. -/
theorem expBits_pos {f : FloatFormat} (h : f ∈ [e4m3, e5m2, e2m1, bf16, fp16, fp32]) : 0 < f.expBits := by
  revert f
  decide

/-! ### Sums (R147, R150) -/

theorem addNum_comm (a b : ExactNum) : addNum a b = addNum b a := by
  cases a with
  | nan => cases b <;> rfl
  | inf x => cases b with
    | nan => rfl
    | inf y => cases x <;> cases y <;> rfl
    | fin => rfl
  | fin x m e => cases b with
    | nan => rfl
    | inf => rfl
    | fin y n g =>
      simp only [addNum, min_comm g e, Bool.and_comm y x]
      rw [add_comm]

theorem addRound_comm (a b : ExactNum) : addRound a b = addRound b a := by rw [addRound, addNum_comm, addRound]

theorem addNum_nan (a : ExactNum) : addNum .nan a = .nan := by cases a <;> rfl

theorem decodeFp32_canonicalNan : decodeFp32 canonicalNan = .nan := by decide

theorem addRound_nan_left (a : ExactNum) : addRound .nan a = .nan := by
  rw [addRound, addNum_nan]
  exact decodeFp32_canonicalNan

theorem addRound_nan_right (a : ExactNum) : addRound a .nan = .nan := by rw [addRound_comm, addRound_nan_left]

/-- A level of the tree keeps a NaN. -/
theorem nan_mem_addPairs (l : List ExactNum) (h : ExactNum.nan ∈ l) : ExactNum.nan ∈ addPairs l := by
  induction l using addPairs.induct with
  | case1 a b l ih =>
    rw [addPairs, List.mem_cons]
    rcases List.mem_cons.1 h with rfl | h
    · exact .inl (addRound_nan_left b).symm
    · rcases List.mem_cons.1 h with rfl | h
      · exact .inl (addRound_nan_right a).symm
      · exact .inr (ih h)
  | case2 l hl => rwa [addPairs.eq_2 l hl]

theorem length_addPairs : ∀ l : List ExactNum, (addPairs l).length = (l.length + 1) / 2
  | [] => rfl
  | [_] => by simp [addPairs]
  | a :: b :: l => by
    rw [addPairs, List.length_cons, List.length_cons, List.length_cons, length_addPairs l]
    omega

/-- A NaN among the leaves of the tree is its sum. -/
theorem sumTree_of_nan_mem : ∀ (n : Nat) (l : List ExactNum), ExactNum.nan ∈ l → l.length = 2 ^ n → sumTree n l = .nan
  | 0, l, h, hl => by
    obtain ⟨a, rfl⟩ := List.length_eq_one_iff.1 hl
    rw [List.mem_singleton] at h
    subst h
    rfl
  | n + 1, l, h, hl => by
    refine sumTree_of_nan_mem n (addPairs l) (nan_mem_addPairs l h) ?_
    rw [length_addPairs, hl, pow_succ]
    omega

theorem kStep_of_nan_mem {n : Nat} (acc : W32) {ps : List ExactNum} (h : ExactNum.nan ∈ ps) (hl : ps.length = 2 ^ n) :
    (kStep n acc ps).1 = canonicalNan := by
  simp only [kStep, sumTree_of_nan_mem n ps h hl, addNum_nan]
  rfl

/-! ### INT8 (R147, R149) -/

theorem saturate_of_lt {n : Int} (h : n < -(2 ^ 31)) : saturate n = (0x80000000, 4) := by
  rw [saturate, if_pos h]
  rfl

theorem saturate_of_gt {n : Int} (h : 2 ^ 31 - 1 < n) : saturate n = (0x7FFFFFFF, 4) := by
  rw [saturate, if_neg (by omega), if_pos h]
  rfl

/-- Within INT32 the accumulator is exact. -/
theorem saturate_of_mem {n : Int} (hlo : -(2 ^ 31) ≤ n) (hhi : n ≤ 2 ^ 31 - 1) :
    ∃ r, saturate n = (r, 0) ∧ r.toInt = n := by
  refine ⟨BitVec.ofInt 32 n, ?_, BitVec.toInt_ofInt_eq_self (by decide) hlo (by omega)⟩
  rw [saturate, if_neg (Int.not_lt.2 hlo), if_neg (Int.not_lt.2 hhi)]

section Int8
variable {acc : W32} {xs ys : List Byte}

theorem intStep_of_length (hx : xs.length = 16) (hy : ys.length = 16) :
    intStep acc xs ys = some (saturate (acc.toInt + intSum xs ys)) := if_pos ⟨hx, hy⟩

theorem intStep_of_length_ne (h : xs.length ≠ 16 ∨ ys.length ≠ 16) : intStep acc xs ys = none :=
  if_neg fun ⟨hx, hy⟩ => h.elim (· hx) (· hy)

end Int8

/-! ### The formats and counts of a K step (R146 to R148) -/

/-- The formats that pair with themselves are not FP8. -/
theorem ne_fp8_of_wide {f : FloatFormat} (h : f = bf16 ∨ f = fp16) : ¬ (f = e4m3 ∨ f = e5m2) := by
  rcases h with rfl | rfl <;> decide

section Formats
variable {a b : FloatFormat} {acc : W32} {xs ys : List Nat}

theorem millStep_isSome_iff_stepLog : (millStep a b acc xs ys).isSome = true ↔
    ∃ n, stepLog a b = some n ∧ xs.length = 2 ^ n ∧ ys.length = 2 ^ n := by
  unfold millStep
  cases stepLog a b <;> simp

/-- Sixteen products of FP8. -/
theorem stepLog_eq_four_iff : stepLog a b = some 4 ↔ (a = e4m3 ∨ a = e5m2) ∧ (b = e4m3 ∨ b = e5m2) := by
  unfold stepLog
  split_ifs with h8 hw <;> simp [h8]

/-- Eight products of BF16 or of FP16. -/
theorem stepLog_eq_three_iff : stepLog a b = some 3 ↔ a = b ∧ (a = bf16 ∨ a = fp16) := by
  unfold stepLog
  split_ifs with h8 hw
  · exact iff_of_false (by decide) fun h => ne_fp8_of_wide h.2 h8.1
  · exact iff_of_true rfl hw
  · exact iff_of_false (by decide) hw

theorem stepLog_values {n : Nat} (h : stepLog a b = some n) : n = 4 ∨ n = 3 := by
  unfold stepLog at h
  split_ifs at h <;> cases h
  · exact .inl rfl
  · exact .inr rfl

theorem millStep_isSome_iff : (millStep a b acc xs ys).isSome = true ↔
    (((a = e4m3 ∨ a = e5m2) ∧ (b = e4m3 ∨ b = e5m2)) ∧ xs.length = 16 ∧ ys.length = 16) ∨
      ((a = b ∧ (a = bf16 ∨ a = fp16)) ∧ xs.length = 8 ∧ ys.length = 8) := by
  rw [millStep_isSome_iff_stepLog, ← stepLog_eq_four_iff, ← stepLog_eq_three_iff]
  constructor
  · rintro ⟨n, hn, hl⟩
    rcases stepLog_values hn with rfl | rfl
    · exact .inl ⟨hn, hl⟩
    · exact .inr ⟨hn, hl⟩
  · rintro (⟨hn, hl⟩ | ⟨hn, hl⟩)
    · exact ⟨4, hn, hl⟩
    · exact ⟨3, hn, hl⟩

theorem mxPair_iff : mxPair a b = true ↔
    ((a = e4m3 ∨ a = e5m2) ∧ (b = e4m3 ∨ b = e5m2)) ∨ (a = e2m1 ∧ b = e2m1) := by
  simp [mxPair]

theorem mxStep_isSome_iff {sA sB : Byte} : (mxStep a b acc sA sB xs ys).isSome = true ↔
    (((a = e4m3 ∨ a = e5m2) ∧ (b = e4m3 ∨ b = e5m2)) ∨ (a = e2m1 ∧ b = e2m1)) ∧ xs.length = 32 ∧ ys.length = 32 := by
  unfold mxStep
  rw [← mxPair_iff]
  split_ifs with h
  · exact iff_of_true rfl h
  · exact iff_of_false Bool.false_ne_true h

end Formats

/-! ### The statement -/

/-- Settles O28: the round trip by the exponent field, NaN by induction on the levels of the tree, INT8 by the range of the sum, the
formats by what `stepLog` and `mxPair` admit. -/
theorem coreArithmetic : Obligations.Core_arithmetic := by
  unfold Obligations.Core_arithmetic
  refine ⟨fun f x mode n hf => convertNum_decodeNum f x mode n (expBits_pos hf), addRound_comm,
    fun n acc ps => kStep_of_nan_mem acc, ?int8, ?formats⟩
  case int8 =>
    rintro acc xs ys v rfl
    refine ⟨fun hx hy => ?_, intStep_of_length_ne⟩
    rw [intStep_of_length hx hy]
    refine ⟨fun hlo hhi => ?_, fun h => by rw [saturate_of_lt h], fun h => by rw [saturate_of_gt h]⟩
    obtain ⟨r, hr, hval⟩ := saturate_of_mem hlo hhi
    exact ⟨r, by rw [hr], hval⟩
  case formats =>
    intro a b acc sA sB xs ys _ _
    simp only [List.mem_pair]
    exact ⟨by simp only [millStep_isSome_iff, and_assoc], mxStep_isSome_iff⟩

end Sys2Proof.Machine
end

section
/-! SUPPORT. Where bytes go in memory (R166, R194, R200, R201): what a store and a list of applied writes leave of the byte memory and
of control state, and the statement about them. -/

namespace Sys2Proof.Machine
open Sys2Proof

/-! ### A store -/

/-- The mirror copies of the bytes of a store leave every other address as it was. -/
theorem read_mirrorWrites (c : Ctl) (h a : Nat) : ∀ (bs : Bytes) (off : Nat) (m : List Host.Cell),
    (∀ k, k < bs.length → a ≠ memKey h (mirrorOf (off + k))) →
    Mem.read ((bs.zipIdx off).foldl (fun m e =>
      if isMirrored c h (e.2 / 4096) then Mem.write m (memKey h (mirrorOf e.2)) e.1 else m) m) a = Mem.read m a
  | [], _, _, _ => rfl
  | b :: bs, off, m, ha => by
    have hrest : ∀ k, k < bs.length → a ≠ memKey h (mirrorOf (off + 1 + k)) := fun k hk =>
      Nat.add_right_comm off 1 k ▸ ha (k + 1) (Nat.succ_lt_succ hk)
    rw [List.zipIdx_cons, List.foldl_cons, read_mirrorWrites c h a bs (off + 1) _ hrest]
    split
    · exact Mem.read_write_ne b m (ha 0 (Nat.succ_pos _))
    · rfl

section Store
variable (d : Dev) (h off : Nat) (bs : Bytes) {a : Nat}

theorem storeBytes_toCtl : (storeBytes d h off bs).toCtl = d.toCtl := by
  unfold storeBytes
  dsimp only
  split <;> rfl

/-- Away from the mirror copies a store leaves memory as its bytes alone leave it. -/
theorem read_storeBytes_of_unmirrored (ha : ∀ k, k < bs.length → off < aliasBase → a ≠ memKey h (mirrorOf (off + k))) :
    Mem.read (storeBytes d h off bs).mem a = Mem.read (Mem.writeBytes d.mem (memKey h off) bs) a := by
  unfold storeBytes
  dsimp only
  split
  · rfl
  · exact read_mirrorWrites _ h a bs off _ fun k hk => ha k hk (by omega)

theorem read_storeBytes_outside (ho : a < memKey h off ∨ memKey h off + bs.length ≤ a)
    (ha : ∀ k, k < bs.length → off < aliasBase → a ≠ memKey h (mirrorOf (off + k))) :
    Mem.read (storeBytes d h off bs).mem a = Mem.read d.mem a :=
  (read_storeBytes_of_unmirrored d h off bs ha).trans (Mem.read_writeBytes_outside bs d.mem _ a ho)

theorem read_storeBytes (hm : Mem.wf d.mem = true) {k : Nat} (hk : k < bs.length)
    (hne : ∀ j, j < bs.length → off < aliasBase → mirrorOf (off + j) ≠ off + k) :
    Mem.read (storeBytes d h off bs).mem (memKey h off + k) = bs[k] := by
  refine (read_storeBytes_of_unmirrored d h off bs fun j hj hlow heq => hne j hj hlow ?_).trans
    (Mem.read_writeBytes bs _ k hm hk)
  simp only [memKey] at heq
  omega

end Store

/-! ### Staged writes -/

theorem memKey_div_mod (x : Nat) : memKey (x / 2 ^ 43) (x % 2 ^ 43) = x := Nat.div_add_mod' x (2 ^ 43)

theorem openSpad_frame (d : Ctl) (h : Nat) (l : List Range) : ∃ f, openSpad d h l = { d with hamlets := f } := by
  unfold openSpad
  split
  · exact ⟨d.hamlets, rfl⟩
  · exact ⟨_, rfl⟩

/-- One staged write is applied: its bytes are stored, and working scratchpad opens (R156, R166). -/
def applyWrite (d : Dev) (w : Nat × Bytes) : Dev := applyWrites d [w]

theorem applyWrites_cons (d : Dev) (w : Nat × Bytes) (ws : List (Nat × Bytes)) :
    applyWrites d (w :: ws) = applyWrites (applyWrite d w) ws := rfl

theorem applyWrite_mem (d : Dev) (w : Nat × Bytes) :
    (applyWrite d w).mem = (storeBytes d (w.1 / 2 ^ 43) (w.1 % 2 ^ 43) w.2).mem := rfl

theorem applyWrite_toCtl (d : Dev) (w : Nat × Bytes) :
    (applyWrite d w).toCtl = if w.1 % 2 ^ 43 < aliasBase then d.toCtl
      else openSpad d.toCtl (w.1 / 2 ^ 43) [⟨w.1 % 2 ^ 43 - aliasBase, w.2.length⟩] := by
  rw [← storeBytes_toCtl d (w.1 / 2 ^ 43) (w.1 % 2 ^ 43) w.2]
  rfl

theorem read_applyWrites_outside {a : Nat} : ∀ (ws : List (Nat × Bytes)) (d : Dev),
    (∀ w ∈ ws, (a < w.1 ∨ w.1 + w.2.length ≤ a) ∧ ∀ k, k < w.2.length → w.1 % 2 ^ 43 < aliasBase →
      a ≠ memKey (w.1 / 2 ^ 43) (mirrorOf (w.1 % 2 ^ 43 + k))) →
    Mem.read (applyWrites d ws).mem a = Mem.read d.mem a
  | [], _, _ => rfl
  | w :: ws, d, hw => by
    obtain ⟨hout, hmirror⟩ := hw w (List.mem_cons_self ..)
    rw [applyWrites_cons, read_applyWrites_outside ws _ fun x hx => hw x (List.mem_cons_of_mem _ hx), applyWrite_mem]
    exact read_storeBytes_outside d _ _ w.2 (by rwa [memKey_div_mod]) hmirror

/-- Writes to HBM open no working scratchpad. -/
theorem applyWrites_toCtl_of_below : ∀ (ws : List (Nat × Bytes)) (d : Dev), (∀ w ∈ ws, w.1 % 2 ^ 43 < aliasBase) →
    (applyWrites d ws).toCtl = d.toCtl
  | [], _, _ => rfl
  | w :: ws, d, hw => by
    rw [applyWrites_cons, applyWrites_toCtl_of_below ws _ fun x hx => hw x (List.mem_cons_of_mem _ hx), applyWrite_toCtl,
      if_pos (hw w (List.mem_cons_self ..))]

theorem applyWrites_toCtl_frame : ∀ (ws : List (Nat × Bytes)) (d : Dev),
    ∃ f, (applyWrites d ws).toCtl = { d.toCtl with hamlets := f }
  | [], d => ⟨d.hamlets, rfl⟩
  | w :: ws, d => by
    have hone : ∃ f, (applyWrite d w).toCtl = { d.toCtl with hamlets := f } := by
      rw [applyWrite_toCtl]
      split
      · exact ⟨d.hamlets, rfl⟩
      · exact openSpad_frame ..
    obtain ⟨f, hf⟩ := hone
    obtain ⟨g, hg⟩ := applyWrites_toCtl_frame ws (applyWrite d w)
    exact ⟨g, by rw [applyWrites_cons, hg, hf]⟩

/-! ### The statement -/

/-- Settles O60: a store by the two places its bytes go to, applied writes by induction on their list. -/
theorem storesStayInTheirBytes : Obligations.Stores_stay_in_their_bytes := by
  unfold Obligations.Stores_stay_in_their_bytes
  intro d h off bs ws a
  refine ⟨read_storeBytes_outside d h off bs, fun k hk hm => read_storeBytes d h off bs hm hk,
    read_applyWrites_outside ws d, storeBytes_toCtl d h off bs, applyWrites_toCtl_of_below ws d, ?_⟩
  rintro f rfl
  obtain ⟨g, hg⟩ := applyWrites_toCtl_frame ws d
  rw [hg]

end Sys2Proof.Machine
end

section
/-! SUPPORT. Road messages that end or answer what another package staged here or asked for (R166 to R170, R175 to R181, R235, R398):
what each message that passes the checks makes of the state, and the statements about them. -/

namespace Sys2Proof.Machine
open Sys2Proof

/-! ### A message that passes every check -/

section Arrival
variable {s : State} {r op : Nat} {m : RoadMsg} {p : Bytes} {e : Ctl}

/-- A message that touches control state alone does what its handler does of the state once it has left the receive buffer. -/
theorem onCtl_receiveCtl (f : Ctl → Bytes → Ctl) (h : Arrives s r op m p e) :
    onCtl s (fun d => receiveCtl d r op m f) = .next (setCtl s (f e p)) :=
  next_setCtl (receiveCtl_delivered f h)

theorem onDev_receive (f : Dev → Bytes → Dev) (h : Arrives s r op m p e) :
    onDev s (fun d => receive d r op m f) = .next (setDev s (f { s.toDev with toCtl := e } p)) :=
  next_setDev (receive_delivered f h)

end Arrival

/-! ### Ends of sets (R166 to R170, R180, R398) -/

section SetEnds
variable {s : State} {r : Fin 64} {m : RoadMsg} {p : Bytes} {e : Ctl}

theorem exec_commit_of_hearth (ha : Arrives s r.val 0x23 m p e) (hh : endIsHearth m.dst.toNat = true) :
    exec (.commit r m) s = .next (setCtl s
      (settled (reply (applyHearthSet e m.src.toNat m.ttag.toNat) m 0x13 0 0 []))) := by
  refine (onDev_receive _ ha).trans ?_
  dsimp only
  rw [if_pos hh]
  rfl

/-- A set still held is applied before the answer. -/
theorem exec_commit_of_set {y : StagedSet} (ha : Arrives s r.val 0x23 m p e) (hh : endIsHearth m.dst.toNat = false)
    (hy : findSet e (endHamlet m.dst.toNat) m.src.toNat m.ttag.toNat = some y) :
    exec (.commit r m) s = .next (setDev s
      (withCtl (applySet { s.toDev with toCtl := e } (endHamlet m.dst.toNat) y) fun d => settled (reply d m 0x13 0 0 []))) := by
  refine (onDev_receive _ ha).trans ?_
  dsimp only
  rw [hh, hy]
  rfl

theorem exec_commit_of_applied (ha : Arrives s r.val 0x23 m p e) (hh : endIsHearth m.dst.toNat = false)
    (hy : findSet e (endHamlet m.dst.toNat) m.src.toNat m.ttag.toNat = none) :
    exec (.commit r m) s = .next (setCtl s (settled (reply e m 0x13 0 0 []))) := by
  refine (onDev_receive _ ha).trans ?_
  dsimp only
  rw [hh, hy]
  rfl

theorem exec_discardMessage (ha : Arrives s r.val 0x24 m p e) :
    exec (.discardMessage r m) s = .next (setCtl s (settled (
      if m.operand.getLsbD 0 then discardedByReceiver e m
      else if endIsHearth m.dst.toNat then
        reply { e with
          hearthSets := e.hearthSets.filter fun y => !(y.src == m.src.toNat && y.ttag == m.ttag.toNat) } m 0x17 0 0 []
      else reply (dropSet e (endHamlet m.dst.toNat) m.src.toNat m.ttag.toNat) m 0x17 0 0 []))) :=
  onCtl_receiveCtl _ ha

end SetEnds

/-- Settles O9: a COMMIT by where its set lies and whether it is still there; a DISCARD by its sender, which operand bit 0 tells:
that a set bit is a receiver's is the model's own choice (log 14). -/
theorem roadSetsEnd : Obligations.Road_sets_end := by
  unfold Obligations.Road_sets_end
  rintro s r m p e h rfl
  refine ⟨fun y => exec_commit_of_set, exec_commit_of_applied, exec_commit_of_hearth, ?discard, ?discardHearth, ?taken⟩
  case discard =>
    intro ha h0 hh
    rw [exec_discardMessage ha, h0, hh]
    rfl
  case discardHearth =>
    intro ha h0 hh
    rw [exec_discardMessage ha, h0, hh]
    rfl
  case taken =>
    intro ha h0
    rw [exec_discardMessage ha, if_pos h0]

/-! ### Tally operations, waits and marks of other packages (R175 to R177, R180, R235) -/

section PeerTallies
variable {s : State} {r : Fin 64} {m : RoadMsg} {p : Bytes} {e d : Ctl} {t : Nat} {op : TallyOp}
  {a : Option TallyResult × Ctl}

theorem exec_tallyOp_of_open (ha : Arrives s r.val 0x25 m p e)
    (hr : endIsHearth m.dst.toNat = true ∨ resetting e (endHamlet m.dst.toNat) = false) :
    exec (.tallyOp r m) s =
      .next (setCtl s (tallyForPeer e m (((tenantById e m.tenant.toNat).map Prod.fst).getD 32))) := by
  refine (onCtl_receiveCtl _ ha).trans ?_
  dsimp only
  rw [if_neg]
  rcases hr with hr | hr <;> simp [hr]

section Named
variable (hn : tallyNamed (syncTally m) = true) (hd : tallyEndpoint (syncTally m) = m.dst.toNat)
  (hop : operandOp m.operand = some op)
include hn hd hop

section Open
variable (ho : tallyOpen e t (syncTally m) = true)
  (ha : tallyAt e (syncTally m) op (BitVec.ofNat 32 m.operand.toNat) (msgOwner m) (remoteWaiter m) = a)
include ho ha

theorem tallyForPeer_of_result {x : TallyResult} (hx : a.1 = some x) (hne : ¬ (op = .release ∧ x = .owner)) :
    tallyForPeer e m t = reply a.2 m 0x16 (resultOperand x) 0 [] := by
  simp only [tallyForPeer, hop, hn, hd, ho, ha, hx]
  simp [hne]

theorem tallyForPeer_of_staged {f : TallyEffect} (hx : a.1 = none)
    (hf : effectOf op (BitVec.ofNat 32 m.operand.toNat) = some f) (hs : stageRemote a.2 m (syncTally m) t f = some d) :
    tallyForPeer e m t = reply d m 0x12 0 0 [] := by
  simp only [tallyForPeer, hop, hn, hd, ho, ha, hx, hf, hs]
  simp

/-- No set of the source takes the operation. -/
theorem tallyForPeer_of_unstaged {f : TallyEffect} (hx : a.1 = none)
    (hf : effectOf op (BitVec.ofNat 32 m.operand.toNat) = some f) (hs : stageRemote a.2 m (syncTally m) t f = none) :
    tallyForPeer e m t = reply e m 0x18 2 0 [] := by
  simp only [tallyForPeer, hop, hn, hd, ho, ha, hx, hf, hs]
  simp [nackWith]

/-- A release is checked at once and staged. -/
theorem tallyForPeer_of_release (hrel : op = .release) (hx : a.1 = some .owner)
    (hs : stageRemote a.2 m (syncTally m) t .release = some d) :
    tallyForPeer e m t = reply d m 0x16 (resultOperand .owner) 0 [] := by
  subst hrel
  simp only [tallyForPeer, hop, hn, hd, ho, ha, hx, hs]
  simp

end Open

/-- A WAIT_REGISTER is acknowledged before its wait is looked at. -/
theorem exec_waitRegister_of_open (ha : Arrives s r.val 0x26 m p e)
    (ho : tallyOpen (reply e m 0x17 0 0 []) (((tenantById e m.tenant.toNat).map Prod.fst).getD 32) (syncTally m) = true)
    (hw : tallyAt (reply e m 0x17 0 0 []) (syncTally m) op (BitVec.ofNat 32 m.operand.toNat) (msgOwner m) (remoteWaiter m) = a) :
    exec (.waitRegister r m) s = .next (setCtl s (a.1.elim a.2 (notify a.2 m))) := by
  refine (onCtl_receiveCtl _ ha).trans ?_
  simp only [hop, hn, hd, ho, hw]
  cases hx : a.1 <;> simp

end Named
end PeerTallies

/-- Settles O10: an operation by whether it has its result at once, is staged or is both, as a release is; a wait after its
acknowledgement. The packing of operands and of the MARK is the model's own (log 14), and so is that a staged operation needs a
window of the hamlet (`stageRemote`, log 17). -/
theorem roadTalliesAndMarks : Obligations.Road_tallies_and_marks := by
  unfold Obligations.Road_tallies_and_marks
  rintro s r m p e t n op a rfl rfl hn hd hop
  refine ⟨fun ha ho hr hat => ?operation, fun ha ho hw => ?wait, fun ha => onCtl_receiveCtl _ ha⟩
  case operation =>
    rw [exec_tallyOp_of_open ha hr]
    refine ⟨fun x hx hne => ?result, fun f d hx hf hs => ?staged, fun f hx hf hs => ?unstaged, fun d hx hrel hs => ?release⟩
    case result => rw [tallyForPeer_of_result hn hd hop ho hat.symm hx hne]
    case staged => rw [tallyForPeer_of_staged hn hd hop ho hat.symm hx hf hs]
    case unstaged => rw [tallyForPeer_of_unstaged hn hd hop ho hat.symm hx hf hs]
    case release => rw [tallyForPeer_of_release hn hd hop ho hat.symm hrel hx hs]
  case wait =>
    rw [exec_waitRegister_of_open hn hd hop ha ho hw.symm]
    exact ⟨fun x hx => by rw [hx]; rfl, fun hx => by rw [hx]; rfl⟩

end Sys2Proof.Machine
end

section
/-! SUPPORT. Answers of other packages and messages between Reeves (R164, R165, R168, R169, R175, R176, R179, R219, R222, R230 to R232,
R235, R237, R239, R384, R398, R413, R470): what each that passes the checks makes of the state, and the statements about them. -/

namespace Sys2Proof.Machine
open Sys2Proof

/-! ### Answers (R384) -/

section Answered
variable {e : Ctl} {m : RoadMsg} (f : Ctl → Request → Ctl)

theorem answered_of_request {q : Request} (h : requestFor e m = some q) : answered e m f = f e q := by
  rw [requestFor] at h
  simp only [answered, h]

/-- An answer for a retired tag is counted. -/
theorem answered_of_retired (h : requestFor e m = none)
    (ht : (Tbl.find? (getHam e (endHamlet m.dst.toNat)).retiredTtags m.ttag.toNat).isSome = true) :
    answered e m f = modHam e (endHamlet m.dst.toNat) fun x => { x with staleRsp := addCount x.staleRsp 1 } := by
  rw [requestFor] at h
  simp only [answered, h, if_pos ht]

theorem answered_of_unknown (h : requestFor e m = none)
    (ht : Tbl.find? (getHam e (endHamlet m.dst.toNat)).retiredTtags m.ttag.toNat = none) : answered e m f = e := by
  rw [requestFor] at h
  simp [answered, h, ht]

/-- An answer that passes the checks and belongs to a request does to it what its handler does. -/
theorem onCtl_answer {s : State} {r op : Nat} {p : Bytes} {q : Request} {f : Ctl → Bytes → Ctl → Request → Ctl}
    (hq : requestFor e m = some q) (ha : Arrives s r op m p e) :
    onCtl s (fun d => receiveCtl d r op m fun d p => answered d m (f d p)) = .next (setCtl s (f e p e q)) := by
  rw [onCtl_receiveCtl _ ha, answered_of_request _ hq]

end Answered

section SyncAnswers
variable {s : State} {r : Fin 64} {m : RoadMsg} {p : Bytes} {e : Ctl}

/-- The source's answer to a receiver's DISCARD ends the set it asked about. -/
theorem exec_syncAck_of_discardSent {y : StagedSet} (ha : Arrives s r.val 0x17 m p e)
    (hy : ((getHam e (endHamlet m.dst.toNat)).sets.find? fun y =>
      y.src == m.src.toNat && y.ttag == m.ttag.toNat && y.discardSent) = some y) :
    exec (.syncAck r m) s =
      .next (setDev s (syncAnswer { s.toDev with toCtl := e } (endHamlet m.dst.toNat) m y)) := by
  refine (onDev_receive _ ha).trans ?_
  simp only [hy]

/-- Any other SYNC_ACK belongs to a request; the wait of a WAIT_REGISTER stands on. -/
theorem exec_syncAck_of_wait {q : Request} (ha : Arrives s r.val 0x17 m p e)
    (hy : ((getHam e (endHamlet m.dst.toNat)).sets.find? fun y =>
      y.src == m.src.toNat && y.ttag == m.ttag.toNat && y.discardSent) = none)
    (hq : requestFor e m = some q) (hop : q.opcode = 0x26) :
    exec (.syncAck r m) s = .next (setCtl s { e with
      requests := e.requests.map fun k => if k = q then { k with deferred := true } else k }) := by
  refine (onDev_receive _ ha).trans ?_
  simp only [hy, withCtl, answered_of_request _ hq, if_pos hop]
  rfl

/-- A WAIT_NOTIFY is acknowledged, then the wait it names ends, where one stands. -/
theorem exec_waitNotify_of_wait {q : Request} (ha : Arrives s r.val 0x27 m p e)
    (hq : ((reply e m 0x17 0 0 []).requests.find? fun q =>
      q.hamlet == endHamlet m.dst.toNat && q.ttag == m.ttag.toNat && q.opcode == 0x26) = some q) :
    exec (.waitNotify r m) s = .next (setCtl s
      (let x := resultOf (bits m.operand.toNat 39 32) (m.operand.toNat % 2 ^ 32)
       tellTile (endWait (dropRequest (reply e m 0x17 0 0 []) q) q) q.cmd (requestTally q) (q.tile.getD ⟨0, 0⟩)
        (if x = .granted ∨ x = .priorLost then .claimWait else .waitGe) x)) := by
  refine (onCtl_receiveCtl _ ha).trans ?_
  simp only [hq]

theorem exec_waitNotify_of_no_wait (ha : Arrives s r.val 0x27 m p e)
    (hq : ((reply e m 0x17 0 0 []).requests.find? fun q =>
      q.hamlet == endHamlet m.dst.toNat && q.ttag == m.ttag.toNat && q.opcode == 0x26) = none) :
    exec (.waitNotify r m) s = .next (setCtl s (reply e m 0x17 0 0 [])) := by
  refine (onCtl_receiveCtl _ ha).trans ?_
  simp only [hq]

end SyncAnswers

/-- Settles O11: the answers to a request by the opcode that was asked, then SYNC_ACK and WAIT_NOTIFY by what they find, then an
answer nobody awaits. The layout of a result in an operand is the model's own (log 14). -/
theorem roadResponses : Obligations.Road_responses := by
  unfold Obligations.Road_responses
  constructor
  · intro s r m p e q hq
    refine ⟨fun ha hop => ?readData, fun ha hop => ?staged, fun ha hop => ?applied, fun ha hop => ?grant,
      fun ha hop => ?deferred, ?result, fun ha => onCtl_answer hq ha⟩
    case readData => exact (onCtl_answer hq ha).trans (by rw [if_pos hop])
    case staged => exact (onCtl_answer hq ha).trans (by rw [if_pos hop])
    case applied => exact (onCtl_answer hq ha).trans (by rw [if_pos hop])
    case grant => exact (onCtl_answer hq ha).trans (by rw [if_pos hop])
    case deferred => exact (onCtl_answer hq ha).trans (by rw [if_pos hop])
    case result =>
      rintro op x ha hcode hop rfl
      exact (onCtl_answer hq ha).trans (by simp only [hcode, hop])
  · rintro s r m p e h rfl
    refine ⟨fun y => exec_syncAck_of_discardSent, fun q => exec_syncAck_of_wait, ?notified, ?acknowledged,
      fun ha hq ht => ?retired, fun ha hq ht => ?unknown⟩
    case notified =>
      rintro q x d ha rfl hq rfl
      exact exec_waitNotify_of_wait ha hq
    case acknowledged =>
      rintro d ha rfl hq
      exact exec_waitNotify_of_no_wait ha hq
    case retired => exact (onCtl_receiveCtl _ ha).trans (by rw [answered_of_retired _ hq ht])
    case unknown => exact (onCtl_receiveCtl _ ha).trans (by rw [answered_of_unknown _ hq ht])

/-! ### Control and time messages (R230 to R232, R237, R239, R470) -/

section Control
variable {s : State} {r : Fin 64} {m : RoadMsg} {p : Bytes} {e : Ctl}

/-- A REPLAY_REPLY of the road's far end, awaited there. -/
theorem exec_replayReply_of_pending (ha : Arrives s r.val 0x39 m p e)
    (hp : (getRoad e (bits m.operand.toNat 45 40)).replayPending = true)
    (hq : roadPeer (pkgNum e) (bits m.operand.toNat 45 40) = endPkg m.src.toNat) :
    exec (.replayReply r m) s = .next (setCtl s (replayRoad e (bits m.operand.toNat 45 40)
      (if bitOf m.operand.toNat 32 then some (BitVec.ofNat 32 m.operand.toNat) else none))) := by
  refine (onCtl_receiveCtl _ ha).trans ?_
  dsimp only
  rw [if_pos (by simp [hp, hq])]

theorem exec_timeProbe (ha : Arrives s r.val 0x3A m p e) :
    exec (.timeProbe r m) s = .next (setCtl s (if e.time.role = .leader then
      sendOn e r.val false 3 0x3B (timeMsg e (endPkg m.src.toNat) m.addr (devNow e)) else e)) :=
  onCtl_receiveCtl _ ha

/-- A TIME_REPLY while a probe is open. -/
theorem exec_timeReply_of_probe {t1 : W64} {n : Byte} (ha : Arrives s r.val 0x3B m p e) (hp : e.time.probe = some (t1, n)) :
    exec (.timeReply r m) s = .next (setCtl s
      (if !follows e.time || endPkg m.src.toNat != timeLeader e || m.addr != t1 || n != e.time.steps then e
       else measure (modTime e fun t => { t with probe := none, lastReply := some t.interval }) .leader (endPkg m.src.toNat)
        (((m.operand - t1).toInt - (devNow e - (m.operand + BitVec.ofNat 64 m.len.toNat)).toInt) * 500))) := by
  refine (onCtl_receiveCtl _ ha).trans ?_
  simp only [hp]

end Control

/-- Settles O13: each control message does its one thing; a time message by the package's role and its open probe. The layouts of
ROUTE_NOTICE, ORPHAN_NOTICE, MARK_SEEN and TIME_REPLY are the model's own (log 14), that a LEADER alone answers a probe is log 35,
and the mirror step of JOB_DEAD is log 49. -/
theorem roadControlAndTime : Obligations.Road_control_and_time := by
  unfold Obligations.Road_control_and_time
  constructor
  · rintro s r m p e q v rfl rfl
    refine ⟨onCtl_receiveCtl _, onCtl_receiveCtl _, onCtl_receiveCtl _, onCtl_receiveCtl _, ?query, ?reply, onCtl_receiveCtl _⟩
    case query =>
      rintro h ha rfl
      exact onCtl_receiveCtl _ ha
    case reply =>
      rintro f ha rfl hp hq
      exact exec_replayReply_of_pending ha hp hq
  · rintro s r m p e q rfl
    refine ⟨fun ha hl => ?leader, fun ha hl => ?other, fun ha hf hq hp => ?measured, fun t1 n ha hp hno => ?dropped⟩
    case leader => rw [exec_timeProbe ha, if_pos hl]
    case other => rw [exec_timeProbe ha, if_neg hl]
    case measured => rw [exec_timeReply_of_probe ha hp, if_neg (by simp [hf, hq])]
    case dropped =>
      rw [exec_timeReply_of_probe ha hp, if_pos]
      rcases hno with h | h | h | h <;> simp [h]

end Sys2Proof.Machine
end

section
/-! SUPPORT. Commands in hamlets (R141, R154, R156 to R163, R185, R246, R260, R546): what a reservation, a bind and a completed tile
make of the state, and the statement about them. -/

namespace Sys2Proof.Machine
open Sys2Proof

/-! ### Reservation and binding (R141, R158, R163, R246) -/

section Binding
variable {s : State} {h : Fin 32}

theorem exec_granaryReserve (s : State) (c : Nat) :
    exec (.granaryReserve c) s = .next (setCtl s (shareUp s.toCtl (settled (reserveParts s.toCtl c)))) := rfl

theorem exec_bindCommand (s : State) (h : Fin 32) : exec (.bindCommand h) s = execBindCommand h s := rfl

theorem exec_bindCommand_of_ready {r : Nat × Cmd × Part} (hm : mayBind s.toCtl h.val = true)
    (hr : readyCmd (markCores s.toCtl h.val) h.val = some r) :
    exec (.bindCommand h) s = .next (setCtl s (shareUp (markCores s.toCtl h.val)
      (settled (bindReady (markCores s.toCtl h.val) h.val r)))) := by
  simp [exec_bindCommand, execBindCommand, onCtl, setCtl, hm, hr]

/-- Where no command is ready, condition 6 of R133 is all that is marked. -/
theorem exec_bindCommand_of_none (hm : mayBind s.toCtl h.val = true)
    (hr : readyCmd (markCores s.toCtl h.val) h.val = none) :
    exec (.bindCommand h) s = .next (setCtl s (markCores s.toCtl h.val)) := by
  simp [exec_bindCommand, execBindCommand, onCtl, setCtl, hm, hr]

theorem exec_bindCommand_of_not_mayBind (hm : mayBind s.toCtl h.val = false) : exec (.bindCommand h) s = .next s := by
  simp [exec_bindCommand, execBindCommand, onCtl, hm]

end Binding

/-! ### Completed tiles (R154, R157, R161, R185, R546) -/

/-- The output of a tile of command `k` that completes with `e` (R154). -/
def outputOfTile (s : State) (k : Cmd) (t : Tile) (e : TileEffects) : List (Nat × Bytes) :=
  tileOutput s.toCtl (tileKey s.toCtl k t
    ((e.reads.map fun r => tileReads s.mem s.toCtl k t.hamlet.val r.1 r.2) ++ [[]])) e.output

/-- What stops the first access of the tile that anything stops (R185, R546). -/
def faultOfTile (s : State) (k : Cmd) (t : Tile) (e : TileEffects) : Option Status :=
  (e.reads ++ e.writes.map fun w => (w.1, w.2.length)).findSome? fun w =>
    accessFault s.toCtl t.hamlet.val w.1 w.2 (isContextOp k.opcode)

/-- Bytes of output that the entry point of the command has. -/
def outputRoom (d : Ctl) (k : Cmd) : Nat := ((cmdEntry d k).map Entry.outputBytes).getD 0

section Tiles
variable {s : State} {c : Nat} {t : Tile} {k : Cmd} {e : TileEffects} (hk : Tbl.find? s.toCtl.cmds c = some k)
include hk

theorem exec_tileComplete_of_not_mayComplete (hm : mayComplete k t e.last = false) :
    exec (.tileComplete c t e) s = .next s := by
  have hrun : execTileComplete c t e s = .next s := by simp [execTileComplete, onCtl, hk, hm]
  exact hrun

variable (hm : mayComplete k t e.last = true) (hj : jobsLost s.toCtl = false)
include hm hj

/-- A tile that completes is illegal, or an access of it faults, or it joins its command. -/
theorem exec_tileComplete_of_mayComplete :
    exec (.tileComplete c t e) s = .next (setCtl s
      (if e.illegal || (outputOfTile s k t e).any fun x => decide (outputRoom s.toCtl k < x.1 + x.2.length) then
        settled (discard s.toCtl c St.program)
       else (faultOfTile s k t e).elim
        (if stagesTooMuch (addTile s.mem s.toCtl c t k e) c t.hamlet.val then
          settled (discard (addTile s.mem s.toCtl c t k e) c St.program)
         else if e.last then
          advanceSlice (shareUp (addTile s.mem s.toCtl c t k e)
            (stagePart (addTile s.mem s.toCtl c t k e) c t.hamlet.val)) k.slice
         else addTile s.mem s.toCtl c t k e)
        fun st => settled (discard s.toCtl c st))) := by
  refine next_setCtl ?_
  unfold outputOfTile outputRoom
  cases hf : faultOfTile s k t e
  all_goals
    rw [faultOfTile] at hf
    simp only [hk, hm, hj, hf, Bool.not_true, Bool.or_self, Bool.false_eq_true, if_false, Option.elim]

theorem exec_tileComplete_of_illegal (hbad : e.illegal = true ∨
      ∃ x ∈ outputOfTile s k t e, outputRoom s.toCtl k < x.1 + x.2.length) :
    exec (.tileComplete c t e) s = .next (setCtl s (settled (discard s.toCtl c St.program))) := by
  rw [exec_tileComplete_of_mayComplete hk hm hj, if_pos (by simpa using hbad)]

section Legal
variable (hi : e.illegal = false) (ho : ∀ x ∈ outputOfTile s k t e, x.1 + x.2.length ≤ outputRoom s.toCtl k)
include hi ho

theorem exec_tileComplete_of_fault {st : Status} (hf : faultOfTile s k t e = some st) :
    exec (.tileComplete c t e) s = .next (setCtl s (settled (discard s.toCtl c st))) := by
  rw [exec_tileComplete_of_mayComplete hk hm hj, if_neg (by simpa [hi] using ho), hf]
  rfl

/-- A tile that nothing stops joins its command; beyond its reservation it ends it, and the last one stages the part. -/
theorem exec_tileComplete_of_added (hf : faultOfTile s k t e = none) :
    exec (.tileComplete c t e) s = .next (setCtl s
      (if stagesTooMuch (addTile s.mem s.toCtl c t k e) c t.hamlet.val then
        settled (discard (addTile s.mem s.toCtl c t k e) c St.program)
       else if e.last then
        advanceSlice (shareUp (addTile s.mem s.toCtl c t k e)
            (stagePart (addTile s.mem s.toCtl c t k e) c t.hamlet.val)) k.slice
       else addTile s.mem s.toCtl c t k e)) := by
  rw [exec_tileComplete_of_mayComplete hk hm hj, if_neg (by simpa [hi] using ho), hf]
  rfl

end Legal
end Tiles

/-! ### The statement -/

/-- Settles O24: a bind by whether the hamlet binds and a command is ready; a tile by whether it is legal, faults, or joins its
command. That staging beyond the reservation is FAULT/PROGRAM is log 53, and that the first output written fixes a tile's is log 54. -/
theorem hamletExecution : Obligations.Hamlet_execution := by
  unfold Obligations.Hamlet_execution
  intro s h c t k e d
  refine ⟨exec_granaryReserve s c, ?bind, exec_bindCommand_of_not_mayBind, ?tile, exec_tileComplete_of_not_mayComplete⟩
  case bind =>
    rintro hm rfl
    exact ⟨fun r => exec_bindCommand_of_ready hm, exec_bindCommand_of_none hm⟩
  case tile =>
    rintro o bad hk hm hj rfl rfl rfl
    refine ⟨exec_tileComplete_of_illegal hk hm hj, fun hi ho => ⟨fun st => exec_tileComplete_of_fault hk hm hj hi ho,
      fun hf hmuch => ?beyond, fun hf hfits hlast => ?joined, fun hf hfits hlast => ?staged⟩⟩
    case beyond => rw [exec_tileComplete_of_added hk hm hj hi ho hf, if_pos hmuch]
    case joined =>
      rw [exec_tileComplete_of_added hk hm hj hi ho hf, hfits, hlast]
      rfl
    case staged =>
      rw [exec_tileComplete_of_added hk hm hj hi ho hf, hfits, hlast]
      rfl

end Sys2Proof.Machine
end

section
/-! SUPPORT. What a running tile asks of tallies and of other hamlets (R156, R161, R162, R164, R173 to R177, R181, R185, R222, R223): what
each operation makes of the state, and the statement about them. -/

namespace Sys2Proof.Machine
open Sys2Proof

/-! ### Operations at a tally of this package (R175 to R177) -/

section TallyAt
variable {d : Ctl} {n : Nat} {v : W32} {o : Owner} {w : WaitKind → Waiter}

theorem tallyAt_of_badMode {op : TallyOp} (h : modeOk (getTally d n) op = false) :
    tallyAt d n op v o w = (some .badMode, d) := by
  simp [tallyAt, h]

section Count
variable (hm : (getTally d n).claimMode = false)
include hm

theorem tallyAt_waitGe : tallyAt d n .waitGe v o w = (none, addWaiter d n (w (.ge v))) := by
  simp [tallyAt, modeOk, hm]

theorem tallyAt_waitEq : tallyAt d n .waitEq v o w = (none, addWaiter d n (w (.eq v))) := by
  simp [tallyAt, modeOk, hm]

theorem tallyAt_add : tallyAt d n .add v o w = (none, d) := by
  simp [tallyAt, modeOk, hm]

theorem tallyAt_set : tallyAt d n .set v o w = (none, d) := by
  simp [tallyAt, modeOk, hm]

end Count

/-- A claim is HELD only where the tally is CLAIMED. -/
theorem claimNow_eq_held_iff : (claimNow d n o).1 = .held ↔ (getTally d n).claim = .claimed := by
  unfold claimNow
  cases hc : (getTally d n).claim <;> simp [hc]

section Claim
variable (hm : (getTally d n).claimMode = true)
include hm

theorem tallyAt_claim : tallyAt d n .claim v o w = (some (claimNow d n o).1, (claimNow d n o).2) := by
  simp [tallyAt, modeOk, hm]

theorem tallyAt_release :
    tallyAt d n .release v o w = (some (if isOwner (getTally d n) o then .owner else .notOwner), d) := by
  simp [tallyAt, modeOk, hm]

theorem tallyAt_claimWait_of_open (hc : (getTally d n).claim ≠ .claimed) (hw : wakes d n (w (.claim o)) = true) :
    tallyAt d n .claimWait v o w = (some (claimNow d n o).1, (claimNow d n o).2) := by
  have hheld : (claimNow d n o).1 ≠ .held := fun h => hc (claimNow_eq_held_iff.1 h)
  simp [tallyAt, modeOk, hm, hheld, hw]

theorem tallyAt_claimWait_of_blocked (hb : (getTally d n).claim = .claimed ∨ wakes d n (w (.claim o)) = false) :
    tallyAt d n .claimWait v o w =
      (none, modTally d n fun y => { y with waiters := y.waiters ++ [w (.claim o)] }) := by
  rcases hb with hc | hw
  · simp [tallyAt, modeOk, hm, claimNow_eq_held_iff.2 hc]
  · simp [tallyAt, modeOk, hm, hw]

end Claim
end TallyAt

/-! ### Operations of a tile at a tally of this package (R161, R175 to R177, R181) -/

section TallyHere
variable {d : Ctl} {c n : Nat} {t : Tile} {k : Cmd} {op : TallyOp} {v : W32}

/-- The waiter that a tile of command `c` makes. -/
def tileWaiter (c : Nat) (t : Tile) (q : WaitKind) : Waiter := { kind := q, cmd := some c, tile := some t }

/-- The operation blocks where it finds nothing, so that a reset does not end it. -/
def blocksTile (op : TallyOp) : Bool := op == .waitGe || op == .waitEq || op == .claimWait

/-- What the tally of an operation of a tile answers. -/
def askTally (d : Ctl) (c n : Nat) (t : Tile) (k : Cmd) (op : TallyOp) (v : W32) : Option TallyResult × Ctl :=
  tallyAt d n op v (ownerOf d c k) (tileWaiter c t)

variable (ho : tallyOpen d (getSlice d k.slice).tenant n = true)
include ho

theorem tallyHere_of_reset (haway : tallyAway n t.hamlet.val = true) (hr : (getHam d (tallyHamlet n)).reset.isSome = true)
    (hop : blocksTile op = false) : tallyHere d c n t k op v = discard d c St.hamletReset := by
  rw [blocksTile] at hop
  simp only [tallyHere, ho, haway, hr, hop]
  rfl

variable (hr : blocksTile op = true ∨ tallyAway n t.hamlet.val = false ∨ (getHam d (tallyHamlet n)).reset = none)
include hr

/-- Nothing stops the operation from asking its tally: it returns what it is told, is staged, or waits. -/
theorem tallyHere_asks :
    tallyHere d c n t k op v =
      (askTally d c n t k op v).1.elim
        ((effectOf op v).elim
          (modCmd (askTally d c n t k op v).2 c fun z => { z with waits := z.waits ++ [.tally t (BitVec.ofNat 32 n)] })
          (stageTally (askTally d c n t k op v).2 c n t k))
        fun x => if op == .release && x == .owner && tallyAway n t.hamlet.val then
            stageTally (seeTile (emit (askTally d c n t k op v).2 (.tallyResult c x)) c t
              [leBytes 4 (resultCode x) ++ leBytes 4 (resultValue x)]) c n t k .release
          else tellTile (askTally d c n t k op v).2 c n t op x := by
  have hnot : (tallyAway n t.hamlet.val && (getHam d (tallyHamlet n)).reset.isSome && !blocksTile op) = false := by
    rcases hr with h | h | h <;> simp [h]
  unfold blocksTile at hnot
  have hask : tallyAt d n op v (ownerOf d c k) (fun q => { kind := q, cmd := some c, tile := some t }) =
      askTally d c n t k op v := rfl
  simp only [tallyHere, ho, hnot, hask]
  cases (askTally d c n t k op v).1 with
  | some x => rfl
  | none => cases effectOf op v <;> rfl

theorem tallyHere_of_result {x : TallyResult} (hx : (askTally d c n t k op v).1 = some x)
    (hrel : (op == .release && x == .owner && tallyAway n t.hamlet.val) = false) :
    tallyHere d c n t k op v = tellTile (askTally d c n t k op v).2 c n t op x := by
  rw [tallyHere_asks ho hr, hx]
  simp only [Option.elim, hrel]
  rfl

end TallyHere

/-! ### Each operation at a tally of this package (R175 to R177) -/

section Operations
variable {d : Ctl} {c n : Nat} {t : Tile} {k : Cmd} {v : W32} (ho : tallyOpen d (getSlice d k.slice).tenant n = true)
include ho

section AtOnce
variable (hr : tallyAway n t.hamlet.val = false ∨ (getHam d (tallyHamlet n)).reset = none)
include hr

theorem tallyHere_read : tallyHere d c n t k .read v = tellTile d c n t .read (.value (readTally (getTally d n))) :=
  tallyHere_of_result ho (.inr hr) rfl rfl

section Count
variable (hm : (getTally d n).claimMode = false)
include hm

theorem tallyHere_add : tallyHere d c n t k .add v = stageTally d c n t k (.add v) := by
  rw [tallyHere_asks ho (.inr hr), askTally, tallyAt_add hm]
  rfl

theorem tallyHere_set : tallyHere d c n t k .set v = stageTally d c n t k (.set v) := by
  rw [tallyHere_asks ho (.inr hr), askTally, tallyAt_set hm]
  rfl

end Count

section Claim
variable (hm : (getTally d n).claimMode = true)
include hm

theorem tallyHere_add_of_badMode : tallyHere d c n t k .add v = tellTile d c n t .add .badMode := by
  rw [tallyHere_asks ho (.inr hr), askTally, tallyAt_of_badMode (by simp [modeOk, hm])]
  rfl

theorem tallyHere_claim : tallyHere d c n t k .claim v =
    tellTile (claimNow d n (ownerOf d c k)).2 c n t .claim (claimNow d n (ownerOf d c k)).1 := by
  rw [tallyHere_asks ho (.inr hr), askTally, tallyAt_claim hm]
  rfl

/-- A release that changes no other hamlet's tally is told at once. -/
theorem tallyHere_release (hnear : isOwner (getTally d n) (ownerOf d c k) = false ∨ tallyAway n t.hamlet.val = false) :
    tallyHere d c n t k .release v =
      tellTile d c n t .release (if isOwner (getTally d n) (ownerOf d c k) then .owner else .notOwner) := by
  rw [tallyHere_asks ho (.inr hr), askTally, tallyAt_release hm, Option.elim_some]
  rcases hnear with h | h <;> simp [h]

/-- The owner's release in another hamlet is told and staged there. -/
theorem tallyHere_release_of_away (hown : isOwner (getTally d n) (ownerOf d c k) = true)
    (haway : tallyAway n t.hamlet.val = true) :
    tallyHere d c n t k .release v = stageTally (seeTile (emit d (.tallyResult c .owner)) c t
      [leBytes 4 (resultCode .owner) ++ leBytes 4 (resultValue .owner)]) c n t k .release := by
  rw [tallyHere_asks ho (.inr hr), askTally, tallyAt_release hm, Option.elim_some]
  simp [hown, haway]

end Claim
end AtOnce

/-! A wait stays blocked while the tally's hamlet resets (R181). -/

theorem tallyHere_waitGe (hm : (getTally d n).claimMode = false) : tallyHere d c n t k .waitGe v =
    modCmd (addWaiter d n (tileWaiter c t (.ge v))) c fun z => { z with waits := z.waits ++ [.tally t (BitVec.ofNat 32 n)] } := by
  rw [tallyHere_asks ho (.inl rfl), askTally, tallyAt_waitGe hm]
  rfl

theorem tallyHere_waitEq (hm : (getTally d n).claimMode = false) : tallyHere d c n t k .waitEq v =
    modCmd (addWaiter d n (tileWaiter c t (.eq v))) c fun z => { z with waits := z.waits ++ [.tally t (BitVec.ofNat 32 n)] } := by
  rw [tallyHere_asks ho (.inl rfl), askTally, tallyAt_waitEq hm]
  rfl

section ClaimWait
variable (hm : (getTally d n).claimMode = true)
include hm

theorem tallyHere_claimWait_of_open (hc : (getTally d n).claim ≠ .claimed)
    (hw : wakes d n (tileWaiter c t (.claim (ownerOf d c k))) = true) : tallyHere d c n t k .claimWait v =
      tellTile (claimNow d n (ownerOf d c k)).2 c n t .claimWait (claimNow d n (ownerOf d c k)).1 := by
  rw [tallyHere_asks ho (.inl rfl), askTally, tallyAt_claimWait_of_open hm hc hw]
  rfl

theorem tallyHere_claimWait_of_blocked
    (hb : (getTally d n).claim = .claimed ∨ wakes d n (tileWaiter c t (.claim (ownerOf d c k))) = false) :
    tallyHere d c n t k .claimWait v =
      modCmd (modTally d n fun y => { y with waiters := y.waiters ++ [tileWaiter c t (.claim (ownerOf d c k))] }) c
        fun z => { z with waits := z.waits ++ [.tally t (BitVec.ofNat 32 n)] } := by
  rw [tallyHere_asks ho (.inl rfl), askTally, tallyAt_claimWait_of_blocked hm hb]
  rfl

end ClaimWait
end Operations

/-! ### Tally operations of a running tile (R161, R175) -/

section Tly
variable {s : State} {x : CmdTile} {k : Cmd} {name : W32} (op : TallyOp) (v : W32)

/-- An operation of a running tile on a named tally of this package. -/
theorem onCtl_tallyOp_of_here (hk : Tbl.find? s.toCtl.cmds x.cmd = some k) (hrun : runsTile k x.tile = true)
    (hn : tallyNamed name.toNat = true) (hp : tallyPkg name.toNat = pkgNum s.toCtl) :
    onCtl s (fun d => tallyOp d x.cmd x.tile name op v) =
      .next (setCtl s (settled (tallyHere s.toCtl x.cmd name.toNat x.tile k op v))) :=
  next_setCtl (by simp [tallyOp, hk, hrun, hn, hp])

end Tly

/-- TALLY_WAIT_RELEASE of a tally that is there. -/
theorem exec_tallyWaitRelease {s : State} {name : W32} {y : Tally} (hy : Tbl.find? s.toCtl.tallies name.toNat = some y) :
    exec (.tallyWaitRelease name) s = .next (setCtl s
      ((y.waiters.filter fun w => w.due.isSome && wakes s.toCtl name.toNat w).foldl (fun d w => tellWaiter d name.toNat y w)
        (modTally s.toCtl name.toNat fun y => { y with
          waiters := y.waiters.filter fun w => !(w.due.isSome && wakes s.toCtl name.toNat w) }))) :=
  next_setCtl (by simp only [hy])

/-! ### Remote access of a running tile (R156, R161, R162, R164, R185, R222, R223) -/

section Remote
variable {s : State} {x : CmdTile} {k : Cmd} {a : W64} {n : Nat} {bs : Bytes}
  (hk : Tbl.find? s.toCtl.cmds x.cmd = some k) (hrun : runsTile k x.tile = true) (hv : addrValid a.toNat = true)
include hk hrun hv

section ReadHere
variable (hp : addrPkg a.toNat = pkgNum s.toCtl)
include hp

theorem exec_remoteRead_of_fault {st : Status}
    (hf : readFault s.toCtl k x.tile.hamlet.val (addrHamlet a.toNat) (addrOffset a.toNat) n = some st) :
    exec (.remoteRead x a n) s = .next (setCtl s (settled (discard s.toCtl x.cmd st))) :=
  next_setCtl (by simp [hk, hrun, hv, hp, hf])

variable (hf : readFault s.toCtl k x.tile.hamlet.val (addrHamlet a.toNat) (addrOffset a.toNat) n = none)
include hf

theorem exec_remoteRead_of_poisoned (hb : isPoisoned s.poison (addrHamlet a.toNat) (addrOffset a.toNat) n = true) :
    exec (.remoteRead x a n) s = .next (setCtl s (settled (discard
      (poisonRead s.poison s.toCtl (addrHamlet a.toNat) (addrOffset a.toNat) n) x.cmd St.memory))) :=
  next_setCtl (by simp [hk, hrun, hv, hp, hf, hb])

/-- A read within the package that nothing stops returns at once. -/
theorem exec_remoteRead_of_clean (hb : isPoisoned s.poison (addrHamlet a.toNat) (addrOffset a.toNat) n = false)
    (hown : addrHamlet a.toNat = x.tile.hamlet.val →
      bs = tileReads s.mem s.toCtl k x.tile.hamlet.val (addrOffset a.toNat) n)
    (hother : addrHamlet a.toNat ≠ x.tile.hamlet.val →
      bs = loadBytes s.mem s.toCtl (addrHamlet a.toNat) (addrOffset a.toNat) n []) :
    exec (.remoteRead x a n) s = .next (setCtl s
      (loadDraw (seeTile (emit s.toCtl (.readData x.cmd bs)) x.cmd x.tile [bs]) (addrOffset a.toNat))) := by
  have hbs : (if addrHamlet a.toNat = x.tile.hamlet.val then
      tileReads s.mem s.toCtl k x.tile.hamlet.val (addrOffset a.toNat) n
      else loadBytes s.mem s.toCtl (addrHamlet a.toNat) (addrOffset a.toNat) n []) = bs := by
    split
    · next h => exact (hown h).symm
    · next h => exact (hother h).symm
  exact next_setCtl (by simp [hk, hrun, hv, hp, hf, hb, hbs])

end ReadHere

section ReadAfar
variable (hp : addrPkg a.toNat ≠ pkgNum s.toCtl)
include hp

theorem exec_remoteRead_of_no_roadOps (hops : hasRoadOps s.toCtl k = false) :
    exec (.remoteRead x a n) s = .next (setCtl s (settled (discard s.toCtl x.cmd St.program))) :=
  next_setCtl (by simp [hk, hrun, hv, hp, hops])

theorem exec_remoteRead_of_roadOps (hops : hasRoadOps s.toCtl k = true)
    (hroom : roomForRequest s.toCtl x.tile.hamlet.val (spans (addrOffset a.toNat) n).length = true) :
    exec (.remoteRead x a n) s = .next (setCtl s (settled (readAfar s.toCtl x.cmd x.tile a.toNat n))) :=
  next_setCtl (by simp [hk, hrun, hv, hp, hops, hroom])

end ReadAfar

section WriteOwn
variable (hown : a.toNat / 2 ^ 43 = rackHamlet s.toCtl x.tile.hamlet.val)
include hown

theorem exec_remoteWrite_of_local
    (hf : accessFault s.toCtl x.tile.hamlet.val (addrOffset a.toNat) bs.length (isContextOp k.opcode) = none) :
    exec (.remoteWrite x a bs) s = .next (setCtl s
      (let e := writeLocal s.toCtl x.cmd x.tile.hamlet.val (addrOffset a.toNat, bs)
       if stagesTooMuch e x.cmd x.tile.hamlet.val = true then settled (discard e x.cmd St.program) else e)) :=
  next_setCtl (by simp only [hk, hrun, hv, if_pos hown, hf]; rfl)

theorem exec_remoteWrite_of_fault {st : Status}
    (hf : accessFault s.toCtl x.tile.hamlet.val (addrOffset a.toNat) bs.length (isContextOp k.opcode) = some st) :
    exec (.remoteWrite x a bs) s = .next (setCtl s (settled (discard s.toCtl x.cmd st))) :=
  next_setCtl (by simp only [hk, hrun, hv, if_pos hown, hf]; rfl)

end WriteOwn

theorem exec_remoteWrite_of_remote (haway : a.toNat / 2 ^ 43 ≠ rackHamlet s.toCtl x.tile.hamlet.val)
    (hroom : addrPkg a.toNat = pkgNum s.toCtl ∨
      roomForRequest s.toCtl (homeHamlet s.toCtl k) (spans (addrOffset a.toNat) bs.length).length = true) :
    exec (.remoteWrite x a bs) s = .next (setCtl s (settled (remoteStage s.toCtl x.cmd a.toNat x.tile k bs))) := by
  have hwaits : ¬ (addrPkg a.toNat ≠ pkgNum s.toCtl ∧
      (!roomForRequest s.toCtl (homeHamlet s.toCtl k) (spans (addrOffset a.toNat) bs.length).length) = true) := by
    rcases hroom with h | h <;> simp [h]
  exact next_setCtl (by simp only [hk, hrun, hv, if_neg haway, if_neg hwaits]; rfl)

end Remote

/-! ### The statement -/

/-- Settles O27: a tally operation by what its tally answers, a release of waiters by the tally, a remote access by where its address
lies and what stops it. A local REMOTE_WRITE beyond its reservation ends FAULT/PROGRAM and a held waiter is passed over by log 53;
the free values of working scratchpad (`loadDraw`) are log 19. -/
theorem talliesAndRemoteAccess : Obligations.Tallies_and_remote_access := by
  unfold Obligations.Tallies_and_remote_access
  refine ⟨?tallies, ?waiters, ?remote⟩
  case tallies =>
    rintro s x k name v c n y o w t d rfl rfl rfl rfl hk hrun hn hp ho rfl rfl rfl
    have hhere := fun op v => onCtl_tallyOp_of_here (s := s) (x := x) op v hk hrun hn hp
    refine ⟨fun hr => ⟨?read, fun hm => ⟨?add, ?set⟩, fun hm => ?badMode, fun hm => ?claim, fun hm hnear => ?release,
      fun hm hown haway => ?releaseAway⟩, fun haway hreset => ?reset, fun hm => ⟨?waitGe, ?waitEq⟩, fun hm hc hw => ?claimWait,
      fun hm hb => ?claimBlocked⟩
    case read => exact (hhere .read 0).trans (by rw [tallyHere_read ho hr])
    case add => exact (hhere .add v).trans (by rw [tallyHere_add ho hr hm])
    case set => exact (hhere .set v).trans (by rw [tallyHere_set ho hr hm])
    case badMode => exact (hhere .add v).trans (by rw [tallyHere_add_of_badMode ho hr hm])
    case claim => exact (hhere .claim 0).trans (by rw [tallyHere_claim ho hr hm])
    case release => exact (hhere .release 0).trans (by rw [tallyHere_release ho hr hm hnear])
    case releaseAway => exact (hhere .release 0).trans (by rw [tallyHere_release_of_away ho hr hm hown haway])
    case reset => exact (hhere .read 0).trans (by rw [tallyHere_of_reset ho haway hreset rfl])
    case waitGe => exact (hhere .waitGe v).trans (by rw [tallyHere_waitGe ho hm]; rfl)
    case waitEq => exact (hhere .waitEq v).trans (by rw [tallyHere_waitEq ho hm]; rfl)
    case claimWait => exact (hhere .claimWait 0).trans (by rw [tallyHere_claimWait_of_open ho hm hc hw])
    case claimBlocked => exact (hhere .claimWait 0).trans (by rw [tallyHere_claimWait_of_blocked ho hm hb]; rfl)
  case waiters =>
    rintro s name y out hy rfl
    exact exec_tallyWaitRelease hy
  case remote =>
    rintro s x k a n c q h off bs d t rfl rfl rfl rfl rfl hk hrun hv rfl
    refine ⟨exec_remoteRead_of_clean hk hrun hv, fun st hp => exec_remoteRead_of_fault hk hrun hv hp,
      exec_remoteRead_of_poisoned hk hrun hv, fun hp => ⟨exec_remoteRead_of_no_roadOps hk hrun hv hp,
        exec_remoteRead_of_roadOps hk hrun hv hp⟩, fun hown => ⟨?own, fun st => exec_remoteWrite_of_fault hk hrun hv hown⟩,
      exec_remoteWrite_of_remote hk hrun hv⟩
    case own =>
      rintro e hf rfl
      exact exec_remoteWrite_of_local hk hrun hv hown hf

end Sys2Proof.Machine
end

section
/-! SUPPORT. Settings orders (R173, R298, R330, R515): an order of MB_TALLY_ALLOC for identity 0 is out of form, whatever the tenants
are, so the statement about settings fails in a state that holds a tenant of identity 0. -/

namespace Sys2Proof.Machine
open Sys2Proof

/-- A tenant of identity 0, which R298 does not allow and the type of `Tenant` does. -/
def identZeroTenant : Tenant := { ident := 0, handle := 1 }

/-- MB_TALLY_ALLOC: block 0 to identity 0. -/
def allocForZero : Bytes := [0, 0, 0, 0, 1, 0, 0, 0]

/-- A package in operation whose one tenant has identity 0, with the order in the mailbox of port HA. -/
def identZeroState : State := { toCtl := {
  pkg := { life := .operating, phase := 8 }
  portA := { linkUp := true, perst := false, mbx := {
    state := .submitted, opcode := 0x0109, argLen := 8, arg := allocForZero.zipIdx.map fun e => (e.2, e.1) } }
  tenants := [(0, identZeroTenant)] } }

/-- The mailbox result of port HA once the next state is reached. -/
def resultAtHa (o : Host.Outcome State Fault Refusal) : Option Byte :=
  match o with
  | .next s => some s.toCtl.portA.mbx.result
  | _ => none

theorem ready_allocForZero : Ready identZeroState (.pf .ha) 0x0109 allocForZero
    (begun identZeroState.toCtl (.pf .ha) 0x0109 allocForZero (.ok [])) := ⟨by decide +kernel, rfl⟩

/-- The order is answered MALFORMED (R515). -/
theorem resultAtHa_mbTallyAlloc_identZero : resultAtHa (exec (.mbTallyAlloc (.pf .ha)) identZeroState) = some 0x10 := by
  decide +kernel

/-- Refutes O3: MB_TALLY_ALLOC for identity 0 meets every condition of its clause where a tenant of identity 0 stands, and is answered
MALFORMED, not OK. The clause of MB_WAY_MASK has the same gap; both lack the condition that the identity is not 0. -/
theorem not_orderSettingsChange : ¬ Obligations.Order_settings_change := by
  unfold Obligations.Order_settings_change
  intro h
  obtain ⟨-, -, -, -, -, halloc, -⟩ := h identZeroState (.pf .ha) allocForZero _ 0 identZeroTenant
  have hok := halloc ready_allocForZero (by decide +kernel) (by decide +kernel) (by decide +kernel) (by decide +kernel)
  have hres := resultAtHa_mbTallyAlloc_identZero
  rw [hok] at hres
  exact absurd hres (by decide +kernel)

end Sys2Proof.Machine
end

section
/-! SUPPORT. The events of the high-bandwidth memory (R196 to R203, R223, R343): what a read of a block, a write-back, a failed channel
and the end of a zero-fill make of the state, and the statement about them. -/

namespace Sys2Proof.Machine
open Sys2Proof

/-! ### A read of a block (R197 to R201) -/

section Read
variable {s : State} {h : Fin 32} {b c : Nat} {cls : EccClass} {k : Cmd}

theorem exec_patrolScrub_of_readable (hr : readable s.toCtl h.val b = true) :
    exec (.patrolScrub h b cls) s = .next (setDev s (eccRead s.toDev h.val b cls id).1) :=
  next_setDev (if_pos hr)

theorem exec_patrolScrub_of_not_readable (hr : readable s.toCtl h.val b = false) :
    exec (.patrolScrub h b cls) s = .next s :=
  next_setDev (b := s.toDev) (if_neg (by simp [hr]))

theorem exec_hbmUncorrectable_of_not_readable (q : Option Nat) (hr : readable s.toCtl h.val b = false) :
    exec (.hbmUncorrectable h b cls q) s = .next s :=
  next_setDev (b := s.toDev) (if_pos (by simp [hr]))

section Readable
variable (hr : readable s.toCtl h.val b = true)
include hr

theorem exec_hbmUncorrectable_none :
    exec (.hbmUncorrectable h b cls none) s = .next (setDev s (eccRead s.toDev h.val b cls id).1) :=
  next_setDev (if_neg (by simp [hr]))

/-- The reader's end comes before what the block held is lost; only a command past its token that reads a spill block keeps it. -/
theorem exec_hbmUncorrectable_some (hk : Tbl.find? s.toCtl.cmds c = some k) :
    exec (.hbmUncorrectable h b cls (some c)) s = .next (setDev s
      (if (k.token && isSpill s.toCtl h.val (64 * b / 4096)) = true then
        if (eccRead s.toDev h.val b cls id).2 = true then
          withCtl (eccRead s.toDev h.val b cls id).1 fun d => loseSpill d h.val c k
        else (eccRead s.toDev h.val b cls id).1
      else (eccRead s.toDev h.val b cls fun d => settled (discard d c St.memory)).1)) :=
  next_setDev ((if_neg (by simp [hr])).trans (by simp only [Option.bind_some, hk, Option.map_some]))

theorem exec_hbmUncorrectable_discards (hk : Tbl.find? s.toCtl.cmds c = some k)
    (ho : k.token = false ∨ isSpill s.toCtl h.val (64 * b / 4096) = false) :
    exec (.hbmUncorrectable h b cls (some c)) s =
      .next (setDev s (eccRead s.toDev h.val b cls fun d => settled (discard d c St.memory)).1) := by
  have hkeeps : ¬ (k.token && isSpill s.toCtl h.val (64 * b / 4096)) = true := by
    rcases ho with ho | ho <;> simp [ho]
  rw [exec_hbmUncorrectable_some hr hk, if_neg hkeeps]

theorem exec_hbmUncorrectable_spill (hk : Tbl.find? s.toCtl.cmds c = some k) (ht : k.token = true)
    (hs : isSpill s.toCtl h.val (64 * b / 4096) = true) :
    exec (.hbmUncorrectable h b cls (some c)) s = .next (setDev s
      (if (eccRead s.toDev h.val b cls id).2 = true then
        withCtl (eccRead s.toDev h.val b cls id).1 fun d => loseSpill d h.val c k
      else (eccRead s.toDev h.val b cls id).1)) := by
  rw [exec_hbmUncorrectable_some hr hk, if_pos (by simp [ht, hs])]

end Readable
end Read

/-! ### Write-backs, channels and zero-fills (R196, R199, R202, R343) -/

section Upkeep
variable {s : State} {h : Fin 32}

theorem exec_correctedWriteback (s : State) (h : Fin 32) (b : Nat) :
    exec (.correctedWriteback h b) s = .next (setCtl s (modHam s.toCtl h.val fun x => { x with
      writeBacks := x.writeBacks.filter (· != b) })) := rfl

theorem exec_channelFailure_of_operating (ch : Fin 4) (ho : s.toCtl.pkg.life = .operating) :
    exec (.channelFailure h ch) s = .next (setCtl s (channelFails s.toCtl h.val ch.val)) :=
  next_setCtl (if_pos ho)

theorem exec_zeroFillDone_of_filling (hf : (getHam s.toCtl h.val).assign = .filling) (hw : s.toCtl.pkg.warm = none)
    (hr : (getHam s.toCtl h.val).reset = none) :
    exec (.zeroFillDone h) s = .next (setDev s
      (withCtl (zeroHamlet s.toDev h.val) fun d => mirrorStep d (.hamlet h.val) 0 (grantHamlet d h.val))) :=
  next_setDev (if_neg (by simp [hf, hw, hr]))

/-- A reset of the hamlet or of the package holds the grant back (R196). -/
theorem exec_zeroFillDone_of_reset
    (hr : (getHam s.toCtl h.val).reset.isSome = true ∨ s.toCtl.pkg.warm.isSome = true) :
    exec (.zeroFillDone h) s = .next s :=
  next_setDev (b := s.toDev) (if_pos (.inr hr.symm))

end Upkeep

/-! ### The statement -/

/-- Settles O30: a read by who reads and whether the block may be read, a zero-fill's end by what holds the hamlet. That the end of a
zero-fill is an internal step on the mirror is log 49's choice. -/
theorem hbmEvents : Obligations.Hbm_events := by
  unfold Obligations.Hbm_events
  rintro s h b c cls k v rfl
  refine ⟨fun hr => ⟨exec_patrolScrub_of_readable hr, exec_hbmUncorrectable_none hr, fun hk =>
      ⟨exec_hbmUncorrectable_discards hr hk, exec_hbmUncorrectable_spill hr hk⟩⟩,
    fun hr => ⟨exec_patrolScrub_of_not_readable hr, fun q => exec_hbmUncorrectable_of_not_readable q hr⟩,
    exec_correctedWriteback s h b, exec_channelFailure_of_operating, exec_zeroFillDone_of_filling, exec_zeroFillDone_of_reset⟩

end Sys2Proof.Machine
end

section
/-! SUPPORT. The recovery of crofts and channels and the timeouts of commands (R202, R224, R369, R371, R392 to R394, R400, R406, R407):
what each step of a retirement or a croft reset makes of the state once what it waits for has come, when a command or a request has
run out of time, and the statement about them. -/

namespace Sys2Proof.Machine
open Sys2Proof

/-! ### Retirement of crofts and channels (R202, R369) -/

section Retirement
variable {s : State} {h : Fin 32}

theorem exec_spareBistDone_of_retiring {r : Retirement} (b : Bool) (hr : (getHam s.toCtl h.val).retirement = some r)
    (hb : r.spareOk = none) (hs : hasSpare (getHam s.toCtl h.val) = true) :
    exec (.spareBistDone h b) s = .next (setCtl s (modHam s.toCtl h.val fun x => { x with
      retirement := some { r with spareOk := some b } })) :=
  next_setCtl (by simp [hr, hb, hs])

theorem exec_croftRemapDone_of_retiring {r : Retirement} (hr : (getHam s.toCtl h.val).retirement = some r)
    (hs : hasSpare (getHam s.toCtl h.val) = true → r.spareOk.isSome = true)
    (hg : gleans s.toCtl h.val = true → r.collected = true)
    (hx : (getHam s.toCtl h.val).reset = none) (ht : s.toCtl.reeve.takeover = false) :
    exec (.croftRemapDone h) s = .next (setDev s (internalDev s.toDev (.hamlet h.val) (endRetirement h.val r))) := by
  have hbist : (hasSpare (getHam s.toCtl h.val) && r.spareOk.isNone) = false := by
    simpa [Option.isSome_iff_ne_none] using hs
  have hrecord : (gleans s.toCtl h.val && !r.collected) = false := by simpa using hg
  exact next_setDev (by simp [hr, hbist, hrecord, hx, ht])

/-- Without a retirement there is nothing to remap (log 10). -/
theorem exec_croftRemapDone_of_none (hr : (getHam s.toCtl h.val).retirement = none) :
    exec (.croftRemapDone h) s = .next s :=
  next_setDev (b := s.toDev) (by simp [hr])

theorem exec_channelRebuildDone_of_retiring (hc : (getHam s.toCtl h.val).channelRetiring.isSome = true)
    (hx : (getHam s.toCtl h.val).reset = none) (ht : s.toCtl.reeve.takeover = false) :
    exec (.channelRebuildDone h) s = .next (setDev s
      (internalDev s.toDev (.hamlet h.val) fun d _ => withCtl (endChannel d h.val) settled)) := by
  have hrebuilt : (getHam s.toCtl h.val).channelRetiring.isNone = false := by simpa using hc
  exact next_setDev (by simp [hrebuilt, hx, ht])

end Retirement

/-! ### Croft resets (R394, R400, R407) -/

section CroftReset
variable {s : State} {h : Fin 32} {c : Fin 13}

theorem exec_coreIdleTimeout_of_operating (ho : s.toCtl.pkg.life = .operating) :
    exec (.coreIdleTimeout h c) s = .next (setCtl s (startCroftReset s.toCtl h.val c.val 0x81)) :=
  next_setCtl (if_pos ho)

theorem exec_croftSelfCheckDone_of_collected {r : CroftReset} (b : Bool)
    (hr : Tbl.find? (getHam s.toCtl h.val).croftResets c.val = some r) (hg : r.collected = true) :
    exec (.croftSelfCheckDone h c b) s = .next (setCtl s
      (internalStep s.toCtl (.hamlet h.val) fun d _ => endCroftReset h.val c.val b d)) :=
  next_setCtl (by simp [hr, hg])

end CroftReset

/-! ### Timeouts (R224, R392 to R394) -/

section Timeouts
variable {s : State} {c : Nat} {k : Cmd} {h : Fin 32} {ttag : W16}

theorem exec_hangTimeout_of_late (hk : Tbl.find? s.toCtl.cmds c = some k) (hp : k.phase = .running)
    (hu : unsettled k = true) (hh : hangRuns k = true)
    (hl : k.bindTime + (hangLimit s.toCtl k - k.hangRun) ≤ now s.toCtl) :
    exec (.hangTimeout c) s = .next (setCtl s (settled (advanceSlice (faultRecord (discard s.toCtl c St.hang) 8 1 2
      (homeHamlet s.toCtl k) 0xFF (handleOf s.toCtl (getSlice s.toCtl k.slice).tenant) k.slice 0) k.slice))) :=
  next_setCtl (by simp [hk, hp, hu, hh, Nat.not_lt.2 hl])

theorem exec_hangTimeout_of_early (hk : Tbl.find? s.toCtl.cmds c = some k)
    (hl : now s.toCtl < k.bindTime + (hangLimit s.toCtl k - k.hangRun)) : exec (.hangTimeout c) s = .next s :=
  next_setCtl (b := s.toCtl) (by simp [hk, hl])

theorem exec_requestTimeout_of_late {q : Request}
    (hq : (s.toCtl.requests.find? fun q => q.hamlet == h.val && q.ttag == ttag.toNat && !q.deferred &&
      decide (q.time + us 20 ≤ now s.toCtl)) = some q) :
    exec (.requestTimeout h ttag) s = .next (setCtl s (settled (discard s.toCtl q.cmd St.roadTimeout))) :=
  next_setCtl (by simp only [hq])

theorem exec_requestTimeout_of_early (hq : ∀ q ∈ s.toCtl.requests, now s.toCtl < q.time + us 20) :
    exec (.requestTimeout h ttag) s = .next s := by
  have hnone : (s.toCtl.requests.find? fun q => q.hamlet == h.val && q.ttag == ttag.toNat && !q.deferred &&
      decide (q.time + us 20 ≤ now s.toCtl)) = none :=
    List.find?_eq_none.2 fun q hmem => by simp [hq q hmem]
  exact next_setCtl (b := s.toCtl) (by simp only [hnone])

end Timeouts

/-! ### The statement -/

/-- Settles O33: each step of a retirement or a croft reset under what it waits for, each timeout by whether its time has come. That
CROFT_REMAP_DONE without a retirement leaves the state as it was is log 10's choice. -/
theorem croftRecoveryAndTimeouts : Obligations.Croft_recovery_and_timeouts := by
  unfold Obligations.Croft_recovery_and_timeouts
  constructor
  · rintro s h c x b rfl
    exact ⟨fun r => exec_spareBistDone_of_retiring b, fun r => exec_croftRemapDone_of_retiring, exec_croftRemapDone_of_none,
      exec_channelRebuildDone_of_retiring, exec_coreIdleTimeout_of_operating,
      fun r => exec_croftSelfCheckDone_of_collected b⟩
  · intro s c k h ttag hk
    exact ⟨exec_hangTimeout_of_late hk, exec_hangTimeout_of_early hk, fun q => exec_requestTimeout_of_late,
      exec_requestTimeout_of_early⟩

end Sys2Proof.Machine
end

section
/-! SUPPORT. Orders on the almanac, reservations, roads and device time (R207, R221, R238, R248, R249, R278, R279, R458 to R469): what
the body of each order makes of the state in which it runs, and the statement about them. -/

namespace Sys2Proof.Machine
open Sys2Proof

/-! ### The bodies -/

section RoadAndTimeBodies
variable (b : Ctl) (o : Order)

theorem mbAlmanacWriteBody_of_own (h : ∀ e ∈ argEntries o.args, foreignEntry b (fld o.args 0 1) e = false) :
    mbAlmanacWriteBody b o = (.done 0 [], writeAlmanac b (fld o.args 0 1)
      { entries := argEntries o.args, tAct := BitVec.ofNat 64 (fld o.args 8 8) }) := by
  have hown : (argEntries o.args).any (foreignEntry b (fld o.args 0 1)) = false := by simpa using h
  simp [mbAlmanacWriteBody, hown, ok]

/-- The refusals of R279 do not apply, and the sums stay within the capacities with the new reservation in force. -/
theorem mbResvCreateBody_of_fits {t : Nat} {x : Tenant} {v : Reservation} (ht : tenantById b (fld o.args 24 2) = some (t, x))
    (hv : v = argResv b o.args t) (hfree : resvRefusal b (fld o.args 0 1) (fld o.args 24 2) v = none)
    (hsum : overBooked { b with reservations := Tbl.set b.reservations (fld o.args 0 1) v }
      (anyStrict { b with reservations := Tbl.set b.reservations (fld o.args 0 1) v }) = none)
    (hweights : weightsDeliver { b with reservations := Tbl.set b.reservations (fld o.args 0 1) v } = true) :
    mbResvCreateBody b o =
      (.done 0 (leBytes 2 (newShare b (fld o.args 0 1) v)), shareUp b (bookResv b (fld o.args 0 1) v)) := by
  subst hv
  simp [mbResvCreateBody, ht, hfree, hsum, hweights, ok]

theorem mbResvEndBody_of_booked {v : Reservation} (h : Tbl.find? b.reservations (fld o.args 0 1) = some v) :
    mbResvEndBody b o = (.done 0 [], endResv b (fld o.args 0 1)) := by
  simp [mbResvEndBody, h, ok]

theorem mbResvQueryBody_of_booked {v : Reservation} (h : Tbl.find? b.reservations (fld o.args 0 1) = some v) :
    mbResvQueryBody b o = (.done 0 (resvEntry b (fld o.args 0 1)), b) := by
  simp [mbResvQueryBody, h, ok]

theorem mbRoadEnableBody_of_out (h : (getRoad b (fld o.args 0 1)).state = .mismatch ∨ (getRoad b (fld o.args 0 1)).state = .disabled) :
    mbRoadEnableBody b o =
      (.done 0 [], leaveUp (modRoad b (fld o.args 0 1) fun y => { y with retrainTimes := [] }) (fld o.args 0 1) .down) :=
  if_pos h

theorem mbRoadWeightBody_of_delivers (h : weightsDeliver (setWeights b o.args) = true) :
    mbRoadWeightBody b o = (.done 0 [], setWeights b o.args) :=
  if_pos h

/-- Device time is set while it follows nothing and no source has locked it (R469). -/
theorem mbTimeSetBody_of_free (hst : b.time.state = .unset ∨ b.time.state = .freerun) (hf : follows b.time = false) :
    mbTimeSetBody b o = (.done 0 [],
      if fld o.args 0 1 = 1 then modTime b fun t => { t with ppsLabel := some (fld o.args 8 8) }
      else setDeviceTime b (BitVec.ofNat 64 (fld o.args 8 8))) := by
  have hfree : ¬ ((b.time.state ≠ .unset ∧ b.time.state ≠ .freerun) ∨ follows b.time) := by
    rcases hst with h | h <;> simp [h, hf]
  simp only [mbTimeSetBody, if_neg hfree]
  split <;> rfl

theorem mbTimeSetBody_of_sourced (hu : b.time.state ≠ .unset) (hf : b.time.state ≠ .freerun) :
    mbTimeSetBody b o = (.done 0x20 [], b) :=
  if_pos (.inl ⟨hu, hf⟩)

end RoadAndTimeBodies

/-- An MB_TIME_SET whose arguments are in form. -/
theorem onCtl_order_mbTimeSet {s : State} {src : OrderSource} {a : Bytes} {b d' : Ctl} {code : Nat} (h : Ready s src 0x0502 a b)
    (hform : badArgs a 16 [1, 2, 3, 4, 5, 6, 7] = false) (hkind : fld a 0 1 ≤ 1)
    (hbody : mbTimeSetBody b { jseq := s.reeve.nextJseq, master := srcMaster src, args := a } = (.done code [], d')) :
    exec (.mbTimeSet src) s = .next (orderDone s src 0x0502 a code [] d') :=
  onCtl_order_done h (by simp [hform, hkind]) hbody

/-! ### The statement -/

/-- Settles O5, order by order: the arguments are in form, and the body's equation says what it makes of `b`. That MB_ROAD_DISABLE
acts in every state and MB_ROAD_ENABLE clears the retrain count is log 30's choice, that MB_ALMANAC_WRITE asks for no assignment
where no entry is a slice's log 26's, that a PPS second is no step log 35's. -/
theorem orderRoadsAndTimeChange : Obligations.Order_roads_and_time_change := by
  unfold Obligations.Order_roads_and_time_change
  constructor
  · intro s src a b
    refine ⟨?almanac, ?resvCreate, ?resvEnd, ?resvQuery, ?roadEnable, ?roadDisable, ?roadWeight⟩
    case almanac =>
      intro h hform hown
      exact onCtl_order_done h hform (mbAlmanacWriteBody_of_own b _ hown)
    case resvCreate =>
      intro t x v h hform ht hv hfree hsum hweights
      exact onCtl_order_done h hform (mbResvCreateBody_of_fits b _ ht hv hfree hsum hweights)
    case resvEnd =>
      intro v h hform hv
      exact onCtl_order_done h hform (mbResvEndBody_of_booked b _ hv)
    case resvQuery =>
      intro v h hform hv
      exact onCtl_order_done h hform (mbResvQueryBody_of_booked b _ hv)
    case roadEnable =>
      intro h hform hst
      exact onCtl_order_done h hform (mbRoadEnableBody_of_out b _ hst)
    case roadDisable =>
      intro h hform
      exact onCtl_order_done h hform rfl
    case roadWeight =>
      intro h hform hweights
      exact onCtl_order_done h hform (mbRoadWeightBody_of_delivers b _ hweights)
  · intro s src a b
    refine ⟨?role, ?config, ?time, ?second, ?refused⟩
    case role =>
      intro h hform
      exact onCtl_order_done h hform rfl
    case config =>
      intro h hform
      exact onCtl_order_done h hform rfl
    case time =>
      intro h hform h0 hst hf
      exact onCtl_order_mbTimeSet h hform (by omega) (by rw [mbTimeSetBody_of_free b _ hst hf, if_neg (by simp [h0])])
    case second =>
      intro h hform h1 hst hf
      exact onCtl_order_mbTimeSet h hform (by omega) (by rw [mbTimeSetBody_of_free b _ hst hf, if_pos h1])
    case refused =>
      intro h hform hkind hu hf
      exact onCtl_order_mbTimeSet h hform hkind (mbTimeSetBody_of_sourced b _ hu hf)

end Sys2Proof.Machine
end

section
/-! SUPPORT. Requests of other packages and the checks before them (R164, R165, R219, R222, R223, R229, R397): the first check that a
message fails, what a request that passes them makes of the state, and the statements about them. -/

namespace Sys2Proof.Machine
open Sys2Proof

/-! ### The receive checks (R229) -/

section ReceiveCheck
variable {d : Ctl} {r op : Nat} {m : RoadMsg}

theorem receiveCheck_of_elsewhere (hp : endPkg m.dst.toNat ≠ pkgNum d) : receiveCheck d r op m = .error 1 := if_pos hp

section Here
variable (hp : endPkg m.dst.toNat = pkgNum d)
include hp

theorem receiveCheck_of_foreign (hd : destOk d op m = false) : receiveCheck d r op m = .error 2 := by
  simp [receiveCheck, hp, hd]

theorem receiveCheck_of_epoch (hd : destOk d op m = true) (he : epochOk d m = false) : receiveCheck d r op m = .error 3 := by
  simp [receiveCheck, hp, hd, he]

theorem receiveCheck_of_tag (hd : destOk d op m = true) (he : epochOk d m = true) (ho : openMsg d op m = none) :
    receiveCheck d r op m = .error 4 := by
  simp [receiveCheck, hp, hd, he, ho]

/-- The checks of a message whose tag verifies. -/
theorem receiveCheck_of_open (hd : destOk d op m = true) (he : epochOk d m = true) (ho : (openMsg d op m).isSome = true) :
    receiveCheck d r op m = if isDead d m then .error 5 else if isStale d m then .error 6 else
      if isDuplicate d r m then .error 7 else .ok ((openMsg d op m).get ho) := by
  obtain ⟨q, hq⟩ := Option.isSome_iff_exists.1 ho
  simp [receiveCheck, hp, hd, he, hq]

end Here
end ReceiveCheck

section Dropped
variable {s : State} {r op : Nat} {m : RoadMsg} {e : Ctl}

/-- Only the failed epoch and the failed tag raise an event. -/
theorem dropMsg_of_counted {k : Nat} (h3 : k ≠ 3) (h4 : k ≠ 4) : dropMsg e r k m = countRoad e r (k + 2) 1 :=
  if_neg (not_or.2 ⟨h3, h4⟩)

theorem dropMsg_of_event {k : Nat} (h : k = 3 ∨ k = 4) : dropMsg e r k m = roadEvent (countRoad e r (k + 2) 1) r 1
    (((tenantById (countRoad e r (k + 2) 1) m.tenant.toNat).map fun e => e.2.handle.toNat).getD 0) :=
  if_pos h

theorem receiveCtl_of_untaken (f : Ctl → Bytes → Ctl) (ht : roadTakes s.toCtl r op m = false) :
    receiveCtl s.toCtl r op m f = s.toCtl := by
  simp [receiveCtl, ht]

theorem receiveCtl_of_lost (f : Ctl → Bytes → Ctl) (ht : roadTakes s.toCtl r op m = true) (hl : fromLost s.toCtl r m = true) :
    receiveCtl s.toCtl r op m f = consume s.toCtl r op m := by
  simp [receiveCtl, ht, hl]

/-- A message that is not to be forwarded and fails check `k` leaves the receive buffer and is dropped. -/
theorem receiveCtl_of_failed (f : Ctl → Bytes → Ctl) (ht : roadTakes s.toCtl r op m = true) (hl : fromLost s.toCtl r m = false)
    (hf : relayRoad s.toCtl r m = none) {k : Nat} (hk : receiveCheck s.toCtl r op m = .error k) :
    receiveCtl s.toCtl r op m f = dropMsg (consume s.toCtl r op m) r k m := by
  by_cases h1 : k = 1
  · subst h1
    simp [receiveCtl, ht, hl, hf, hk, dropMsg]
  · simp [receiveCtl, ht, hl, hf, hk]

end Dropped

/-- Settles O52, stated for the opcode RD: the first check that fails names the counter, and whether an event is raised. -/
theorem receiveChecks : Obligations.Receive_checks := by
  unfold Obligations.Receive_checks
  rintro s r m e f n ht hl hf rfl rfl
  have hdrop {k : Nat} (hk : receiveCheck s.toCtl r.val 0x01 m = .error k) :
      exec (.rd r m) s = .next (setCtl s (dropMsg (consume s.toCtl r.val 0x01 m) r.val k m)) :=
    next_setCtl (receiveCtl_of_failed _ ht hl hf hk)
  have hcount {k : Nat} (hk : receiveCheck s.toCtl r.val 0x01 m = .error k) (h3 : k ≠ 3) (h4 : k ≠ 4) :
      exec (.rd r m) s = .next (setCtl s (countRoad (consume s.toCtl r.val 0x01 m) r.val (k + 2) 1)) := by
    rw [hdrop hk, dropMsg_of_counted h3 h4]
  refine ⟨fun hp => hcount (receiveCheck_of_elsewhere hp) (by decide) (by decide), fun hp => ⟨?foreign, ?epoch, ?tag, ?opened⟩,
    fun v hv => next_setCtl (receiveCtl_of_untaken _ hv), fun v hv hlost => next_setCtl (receiveCtl_of_lost _ hv hlost)⟩
  case foreign => exact fun hd => hcount (receiveCheck_of_foreign hp hd) (by decide) (by decide)
  case epoch =>
    rintro hd he rfl
    rw [hdrop (receiveCheck_of_epoch hp hd he), dropMsg_of_event (.inl rfl)]
  case tag =>
    rintro hd he ho rfl
    rw [hdrop (receiveCheck_of_tag hp hd he ho), dropMsg_of_event (.inr rfl)]
  case opened =>
    intro hd he ho
    have hopen := receiveCheck_of_open (r := r.val) hp hd he ho
    refine ⟨fun hdead => hcount (k := 5) ?_ (by decide) (by decide), fun hdead hstale => hcount (k := 6) ?_ (by decide) (by decide),
      fun hdead hstale hdup => hcount (k := 7) ?_ (by decide) (by decide)⟩
    · rw [hopen, if_pos hdead]
    · rw [hopen, hdead, if_pos hstale]; rfl
    · rw [hopen, hdead, hstale, if_pos hdup]; rfl

/-! ### Requests (R164, R165, R219, R222, R223, R397) -/

section Requests
variable {s : State} {r : Fin 64} {m : RoadMsg} {p : Bytes} {e : Ctl}

theorem exec_rd (ha : Arrives s r.val 0x01 m p e) :
    exec (.rd r m) s = .next (setCtl s (
      let h := endHamlet m.dst.toNat
      let off := addrOffset m.addr.toNat
      if resetting e h then reply e m 0x18 3 0 []
      else if !accessOk e m false then reply e m 0x18 2 0 []
      else if isPoisoned s.poison h off m.len.toNat then reply (poisonRead s.poison e h off m.len.toNat) m 0x18 2 0 []
      else loadDraw (reply e m 0x11 0 m.len (loadBytes s.mem e h off m.len.toNat [])) off)) :=
  onCtl_receiveCtl _ ha

section WrStage
variable (ha : Arrives s r.val 0x02 m p e)
include ha

theorem exec_wrStage_of_fenced (hr : resetting e (endHamlet m.dst.toNat) = true) :
    exec (.wrStage r m) s = .next (setCtl s (reply e m 0x18 3 0 [])) :=
  (onCtl_receiveCtl _ ha).trans (by simp only [if_pos hr]; rfl)

variable (hr : resetting e (endHamlet m.dst.toNat) = false)
include hr

theorem exec_wrStage_of_no_access (hok : accessOk e m true = false) :
    exec (.wrStage r m) s = .next (setCtl s (reply e m 0x18 2 0 [])) :=
  (onCtl_receiveCtl _ ha).trans (by simp only [hr, hok]; rfl)

variable (hok : accessOk e m true = true)
include hok

/-- The write has room in the set of its source that operand bits 15:0 name. -/
theorem exec_wrStage_of_room {y : StagedSet}
    (hy : findSet e (endHamlet m.dst.toNat) m.src.toNat (m.operand.toNat % 65536) = some y)
    (hroom : setUsed y + p.length ≤ y.granted) :
    exec (.wrStage r m) s = .next (setCtl s (reply
      (modSet e (endHamlet m.dst.toNat) m.src.toNat (m.operand.toNat % 65536) fun y => { y with
        writes := y.writes ++ [(memKey (endHamlet m.dst.toNat) (addrOffset m.addr.toNat), p)] }) m 0x12 0 0 [])) :=
  (onCtl_receiveCtl _ ha).trans (by simp only [hr, hok, hy, if_neg (Nat.not_lt.2 hroom)]; rfl)

/-- No reservation of the source takes the write: there is none, or it is full. -/
theorem exec_wrStage_of_no_room (hy : ∀ y, findSet e (endHamlet m.dst.toNat) m.src.toNat (m.operand.toNat % 65536) = some y →
      y.granted < setUsed y + p.length) :
    exec (.wrStage r m) s = .next (setCtl s (reply e m 0x18 1 0 [])) := by
  refine (onCtl_receiveCtl _ ha).trans ?_
  cases hset : findSet e (endHamlet m.dst.toNat) m.src.toNat (m.operand.toNat % 65536) with
  | none => simp only [hr, hok, hset]; rfl
  | some y => simp only [hr, hok, hset, if_pos (hy y hset)]; rfl

end WrStage

theorem exec_reserve (ha : Arrives s r.val 0x21 m p e) :
    exec (.reserve r m) s = .next (setCtl s (
      let h := endHamlet m.dst.toNat
      if remoteBytes (getHam e h) < m.len.toNat then reply e m 0x18 4 0 []
      else if canGrant (getHam e h) m.len.toNat && !resetting e h then
        reply (holdSpace e h m.src.toNat m.ttag.toNat (getHam e h).tenant m.len.toNat) m 0x14 0 0 []
      else reply (modHam e h fun x => { x with deferred := x.deferred ++
        [{ src := m.src.toNat, ttag := m.ttag.toNat, tenant := x.tenant, bytes := m.len.toNat }] }) m 0x15 0 0 [])) :=
  onCtl_receiveCtl _ ha

/-- A tally of a hamlet that a reset fences takes no operation. -/
theorem exec_tallyOp_of_fenced (ha : Arrives s r.val 0x25 m p e) (hh : endIsHearth m.dst.toNat = false)
    (hr : resetting e (endHamlet m.dst.toNat) = true) :
    exec (.tallyOp r m) s = .next (setCtl s (reply e m 0x18 3 0 [])) := by
  refine (onCtl_receiveCtl _ ha).trans ?_
  dsimp only
  rw [hh, hr]
  rfl

end Requests

/-- Settles O8, request by request: what it does at a hamlet that takes it, then each reason why one turns it away. That operand bits
15:0 name the set of a WR_STAGE is the model's own layout, which R217 leaves open. -/
theorem roadRequests : Obligations.Road_requests := by
  unfold Obligations.Road_requests
  constructor
  · rintro s r m p e h rfl
    refine ⟨fun ha hr hok hclean => ?read, fun y ha hr hok => exec_wrStage_of_room ha hr hok, fun ha hr hfit hg => ?grant,
      fun ha hfit hno => ?deferred, fun ha => onCtl_receiveCtl _ ha⟩
    case read => simp [exec_rd ha, hr, hok, hclean]
    case grant => simp [exec_reserve ha, hr, hg, Nat.not_lt.2 hfit]
    case deferred =>
      have hwaits : (canGrant (getHam e (endHamlet m.dst.toNat)) m.len.toNat && !resetting e (endHamlet m.dst.toNat)) = false := by
        rcases hno with h | h <;> simp [h]
      simp [exec_reserve ha, hwaits, Nat.not_lt.2 hfit]
  · rintro s r m p e h rfl
    refine ⟨fun ha hr => ?readFenced, fun ha hr hok => ?readOutside, exec_wrStage_of_fenced, exec_wrStage_of_no_access,
      exec_wrStage_of_no_room, fun ha hbig => ?tooLarge, exec_tallyOp_of_fenced⟩
    case readFenced => simp [exec_rd ha, hr]
    case readOutside => simp [exec_rd ha, hr, hok]
    case tooLarge => simp [exec_reserve ha, hbig]

end Sys2Proof.Machine
end

section
/-! SUPPORT. Epochs of tenants on the roads (R227, R228, R315, R351): what each epoch message that passes the checks makes of the
state, and the statement about them. -/

namespace Sys2Proof.Machine
open Sys2Proof

/-! ### Epoch messages about a tenant of this package -/

section Epochs
variable {s : State} {r : Fin 64} {m : RoadMsg} {p : Bytes} {e : Ctl} {i : Nat} {x : Tenant} (hx : epochTenant e m = some (i, x))
include hx

/-- A generation that is asked for, held already, or of a tenant without a claim is not installed. -/
theorem exec_epochInstall_of_tenant (ha : Arrives s r.val 0x31 m p e) :
    exec (.epochInstall r m) s = .next (setCtl s (
      let g := m.operand.toNat % 2 ^ 32
      let d := { e with removed := e.removed.filter (· != (x.ident, endPkg m.src.toNat)) }
      sendEpochAck (if g = 0 ∨ ((x.roadCur.toList ++ x.roadPrev.toList).any fun k => k.gen == g) ∨ x.state ≠ .claimed then d
        else modTenant d i fun x => { x with roadPrev := some ⟨g, roadKeyOf x g⟩ }) m)) :=
  (onCtl_receiveCtl _ ha).trans (by simp only [hx])

theorem exec_epochRetire_of_tenant (ha : Arrives s r.val 0x32 m p e) :
    exec (.epochRetire r m) s = .next (setCtl s (sendEpochAck (if m.operand.getLsbD 48 then
      removalMark e i (endPkg m.src.toNat) x else retireKey e i (m.operand.toNat % 2 ^ 32) x) m)) :=
  (onCtl_receiveCtl _ ha).trans (by simp only [hx])

/-- An acknowledgement of the barrier that awaits its package. -/
theorem exec_epochAck_of_awaited {b : Barrier} (ha : Arrives s r.val 0x33 m p e) (hb : x.barrier = some b)
    (hq : b.awaited.contains (endPkg m.src.toNat) = true) (hmark : m.len = barrierMark b) :
    exec (.epochAck r m) s = .next (setCtl s (barrierStep e x (ackBarrier (modTenant e i fun y => { y with
      saltMismatch := y.saltMismatch || ((b.kind == 2 || b.kind == 4) && m.addr != 0 && m.addr != saltDigest x)
      barrier := some { b with largest := max b.largest (m.operand.toNat % 2 ^ 32) } }) i (endPkg m.src.toNat)))) := by
  have hours : (!b.awaited.contains (endPkg m.src.toNat) || m.len != barrierMark b) = false := by rw [hq, hmark]; simp
  refine (onCtl_receiveCtl _ ha).trans ?_
  simp only [hx, hb, hours]
  rfl

end Epochs

/-- Settles O12: an installation by whether the generation is new to a tenant with a claim, a retirement by its removal bit, an
acknowledgement that the tenant's barrier awaits. The slot of the new key and the moment of the switch are the model's reading
(log 18), operand bit 48 and the barrier's mark in len its own layout (log 14), and the mirror step of a barrier is log 49. -/
theorem roadEpochs : Obligations.Road_epochs := by
  unfold Obligations.Road_epochs
  rintro s r m p e i g x d hx rfl
  refine ⟨?install, fun ha h48 => ?retire, fun ha h48 => ?removal, ?acknowledged⟩
  case install =>
    rintro ha rfl
    rw [exec_epochInstall_of_tenant hx ha]
    refine ⟨fun hg hst hnew => ?new, fun hno => ?held⟩
    case new =>
      have hinstall : ¬ (m.operand.toNat % 2 ^ 32 = 0 ∨
          ((x.roadCur.toList ++ x.roadPrev.toList).any fun k => k.gen == m.operand.toNat % 2 ^ 32) = true ∨ x.state ≠ .claimed) := by
        simpa only [hg, hst, ne_eq, not_true_eq_false, or_false, false_or, List.any_eq_true, beq_iff_eq, not_exists, not_and] using hnew
      dsimp only
      rw [if_neg hinstall]
    case held =>
      have hskip : m.operand.toNat % 2 ^ 32 = 0 ∨
          ((x.roadCur.toList ++ x.roadPrev.toList).any fun k => k.gen == m.operand.toNat % 2 ^ 32) = true ∨ x.state ≠ .claimed := by
        simpa only [List.any_eq_true, beq_iff_eq, or_comm (b := x.state ≠ .claimed)] using hno
      dsimp only
      rw [if_pos hskip]
  case retire => rw [exec_epochRetire_of_tenant hx ha, h48]; rfl
  case removal => rw [exec_epochRetire_of_tenant hx ha, if_pos h48]
  case acknowledged =>
    rintro b bad ha hb hq hmark rfl
    exact exec_epochAck_of_awaited hx ha hb hq hmark

end Sys2Proof.Machine
end

section
/-! SUPPORT. Routes and the timers of peers (R227, R232, R237, R384): what each event makes of the state when its time has come, and
the statement about them. -/

namespace Sys2Proof.Machine
open Sys2Proof

/-! ### The events (R227, R232, R237, R384) -/

section PeerTimers
variable {s : State} {q : Fin 32} {ttag : W16} {t : Nat}

/-- The peers whose route has changed are taken anew, in one step of the Reeve where there are any. -/
theorem exec_routeRecompute (s : State) :
    exec .routeRecompute s = .next (setCtl s (
      let ps := (List.range 32).filter fun q => q != pkgNum s.toCtl &&
        routeTo s.toCtl q != ((getPeer s.toCtl q).route, (getPeer s.toCtl q).via)
      if ps.isEmpty then s.toCtl else internalStep s.toCtl .package fun d _ => forEach ps d reroute)) := rfl

theorem exec_peerSilenceTimeout_of_silent (hsrc : (getPeer s.toCtl q.val).route ≠ .relaySrc)
    (hdst : (getPeer s.toCtl q.val).route ≠ .relayDst) (hk : (getPeer s.toCtl q.val).known = true)
    (hl : (getPeer s.toCtl q.val).lost = false) (hn : (getPeer s.toCtl q.val).lastBlock + us 20 ≤ now s.toCtl) :
    exec (.peerSilenceTimeout q) s = .next (setCtl s (peerLost s.toCtl q.val St.roadTimeout)) :=
  next_setCtl (by simp [hsrc, hdst, hk, hl, hn])

theorem exec_peerSilenceTimeout_of_heard (hn : now s.toCtl < (getPeer s.toCtl q.val).lastBlock + us 20) :
    exec (.peerSilenceTimeout q) s = .next s :=
  next_setCtl (b := s.toCtl) (by simp [hn])

theorem exec_epochRotation_of_worn {x : Tenant} {k : RoadKey} (hx : Tbl.find? s.toCtl.tenants q.val = some x)
    (hk : x.roadCur = some k) (hj : x.joined = true) (hb : x.barrier = none) (hn : 2 ^ 47 ≤ topNonce s.toCtl x) :
    exec (.epochRotation q) s = .next (setCtl s
      (internalStep s.toCtl (.tenant x.ident.toNat) fun d _ => startBarrier d q.val 0 (k.gen + 1) 0x31)) :=
  next_setCtl (by simp only [hx, hk, if_pos (And.intro hj (And.intro hb hn))])

theorem exec_ttagQuarantineExpiry_of_retired (ht : Tbl.find? (getHam s.toCtl q.val).retiredTtags ttag.toNat = some t) :
    exec (.ttagQuarantineExpiry q ttag) s = .next (setCtl s (if t + us 40 ≤ now s.toCtl then
      modHam s.toCtl q.val fun x => { x with retiredTtags := Tbl.erase x.retiredTtags ttag.toNat } else s.toCtl)) :=
  next_setCtl (by simp only [ht])

end PeerTimers

/-! ### The statement -/

/-- Settles O37, event by event, each by whether its time has come. That new routes and a rotation are each an internal step is log 49's
choice. -/
theorem routeAndPeerTimers : Obligations.Route_and_peer_timers := by
  unfold Obligations.Route_and_peer_timers
  rintro s q ttag d ps rfl
  refine ⟨?route, exec_peerSilenceTimeout_of_silent, exec_peerSilenceTimeout_of_heard, ?live,
    fun x k => exec_epochRotation_of_worn, fun t ht hn => ?expired, fun t ht hn => ?quarantined⟩
  case route =>
    rintro rfl
    rw [exec_routeRecompute]
    refine ⟨fun hps => ?changed, fun hps => ?unchanged⟩
    case changed => dsimp only; rw [if_neg (by simpa only [List.isEmpty_iff] using hps)]
    case unchanged => dsimp only; rw [if_pos (List.isEmpty_iff.2 hps), setCtl_toCtl]
  case live =>
    rintro rfl e rfl
    rfl
  case expired => rw [exec_ttagQuarantineExpiry_of_retired ht, if_pos hn]
  case quarantined => rw [exec_ttagQuarantineExpiry_of_retired ht, if_neg (Nat.not_le.2 hn), setCtl_toCtl]

end Sys2Proof.Machine
end

section
/-! SUPPORT. The numbering of roads (R205): mesh roads by the offset of their peer, reserve roads, and the statement about them. -/

namespace Sys2Proof.Machine
open Sys2Proof

/-! ### Peers and Fields of roads -/

theorem neighbour_eq_xor_one (p : Nat) : neighbour p = p ^^^ 1 := by
  rcases Nat.even_or_odd p with h | h
  · rw [Nat.xor_one_of_even h, neighbour, if_pos (Nat.even_iff.1 h)]
  · rw [Nat.xor_one_of_odd h, neighbour, if_neg (by rw [Nat.odd_iff.1 h]; decide)]

section Offset
variable {p q : Nat} (hp : p < 32) (hq : q < 32) (hne : q ≠ p)
include hp hq hne

/-- Another package lies 1 to 31 places further. -/
theorem peerOffset_bounds : 1 ≤ peerOffset p q ∧ peerOffset p q ≤ 31 := by
  unfold peerOffset; omega

/-- The mesh roads of an offset are below the reserve roads and lead to the package of that offset. -/
theorem meshRoad_lt {c : Nat} (hc : c < 2) : meshRoad p q c < 62 := by
  have := peerOffset_bounds hp hq hne
  unfold meshRoad; omega

theorem roadPeer_meshRoad {c : Nat} (hc : c < 2) : roadPeer p (meshRoad p q c) = q := by
  rw [roadPeer_mesh p (meshRoad_lt hp hq hne hc), meshRoad, peerOffset]
  omega

end Offset

theorem roadField_meshRoad (p q : Nat) {c : Nat} (hc : c < 2) : roadField (meshRoad p q c) = (peerOffset p q - 1) / 8 := by
  unfold roadField meshRoad; omega

/-! ### The statement -/

/-- Settles O54: mesh roads by the offset of their peer, and the reserve roads as the last two. -/
theorem roadNumbering : Obligations.Road_numbering := by
  unfold Obligations.Road_numbering
  rintro ⟨p, hp⟩ ⟨q, hq⟩ hpq d rfl
  have hne : q ≠ p := fun h => hpq (Fin.ext h)
  obtain ⟨hlo, hhi⟩ := peerOffset_bounds hp hq hne
  refine ⟨rfl, hlo, hhi, rfl, rfl, fun _ => rfl, fun ⟨c, hc⟩ => ?mesh, fun r hr => ?reserve⟩
  case mesh =>
    have hlt := meshRoad_lt hp hq hne hc
    exact ⟨hlt, by simp [isReserve, hlt], roadPeer_meshRoad hp hq hne hc, roadField_meshRoad p q hc⟩
  case reserve =>
    have hfield : roadField r.val = 3 := by unfold roadField; omega
    exact ⟨(isReserve_iff r.val).2 hr, hfield, (roadPeer_reserve p hr).trans (neighbour_eq_xor_one p)⟩

end Sys2Proof.Machine
end

section
/-! SUPPORT. The watchman's check 8 (R258, R286 to R288, R294): the verdict on a command's own model, the steps before it, and the
statement about them. -/

namespace Sys2Proof.Machine
open Sys2Proof

/-! ### Step 8e on the command's own model (R258) -/

section OwnModel
variable {e : Ctl} {id : Nat} {c : Cmd} {m : Model} {x : Entry}

theorem step8e_of_down (hdown : ((entryHamlets m x).any fun h => hamletDown e h x) = true) (hdiv : diverts c = false) :
    step8e e id c m x = .refused St.resource e := by
  rw [step8e, if_pos hdown, hdiv]
  rfl

section Serving
variable (hup : ((entryHamlets m x).any fun h => hamletDown e h x) = false)
include hup

theorem step8e_of_missed (hmiss : meetsDeadline e c (predict e c m x) = false) (hdiv : diverts c = false) :
    step8e e id c m x = .refused St.predictedMiss e := by
  simp [step8e, hup, hmiss, hdiv]

/-- Where every hamlet serves and the deadline is met, check 9 decides (R100). -/
theorem step8e_of_met (hmeet : meetsDeadline e c (predict e c m x) = true) :
    step8e e id c m x =
      if outputTooBig c x then .refused St.resultTooSmall e else .admitted (admitCmd e id c c.model m x none) := by
  simp only [step8e, hup, hmeet, Bool.false_eq_true, if_false, if_true]

end Serving
end OwnModel

/-! ### The steps before it (R286 to R288, R294) -/

section Verdict
variable {d e : Ctl} {id : Nat} {c : Cmd} {m : Model} {x : Entry}

theorem check89_of_passed (hset : c.deadline ≠ noDeadline) (hlate : c.deadline = 0 ∨ timeLe c.tAccept c.deadline = false) :
    check89 d id c = .refused St.deadlinePassed d :=
  if_pos ⟨hset, by simpa using hlate⟩

theorem not_passed_of_due (hdue : c.deadline = noDeadline ∨ (c.deadline ≠ 0 ∧ timeLe c.tAccept c.deadline = true)) :
    ¬ (c.deadline ≠ noDeadline ∧ (c.deadline = 0 ∨ (!timeLe c.tAccept c.deadline) = true)) := by
  rintro ⟨hset, hlate⟩
  obtain hnone | ⟨hzero, hle⟩ := hdue
  · exact hset hnone
  · exact hlate.elim hzero (by simp [hle])

section Due
variable (hop : isModelOp c.opcode = true) (hm : resident d c.slice c.model = some m) (hx : entryOf m c.opcode.toNat = some x)
  (hdue : c.deadline = noDeadline ∨ (c.deadline ≠ 0 ∧ timeLe c.tAccept c.deadline = true))
include hop hm hx hdue

theorem check89_of_brownout (hdraw : step8b d c (some x) = none) : check89 d id c = .refused St.brownout d := by
  rw [check89, if_neg (not_passed_of_due hdue)]
  simp only [hop, hm, hx, if_true, Option.bind_some, hdraw]

variable (hdraw : step8b d c (some x) = some e)
include hdraw

/-- A command without a credit is shed as the newest (R287). -/
theorem check89_of_no_credit (hcredit : (c.credit || !sliceBusy e c.slice) = false) (hdiv : diverts c = false) :
    check89 d id c = .refused St.shedNewest e := by
  rw [check89, if_neg (not_passed_of_due hdue)]
  simp only [hop, hm, hx, if_true, Option.bind_some, hdraw, hcredit, hdiv, Bool.false_and, Bool.false_eq_true, if_false]

variable (hcredit : (c.credit || !sliceBusy e c.slice) = true)
include hcredit

/-- Of a full queue the newest is shed, where the lane does not shed expired commands (R287, R288). -/
theorem check89_of_no_room (hroom : roomFor e m x = false) (hshed : (getLane e c.slice c.lane).shedExpired = false)
    (hdiv : diverts c = false) : check89 d id c = .refused St.shedNewest e := by
  rw [check89, if_neg (not_passed_of_due hdue)]
  simp only [hop, hm, hx, if_true, Option.bind_some, hdraw, hcredit, hroom, hshed, hdiv, Bool.and_false, Bool.false_eq_true,
    if_false]

/-- With a credit and room in every hamlet, step 8e decides. -/
theorem check89_of_room (hroom : roomFor e m x = true) : check89 d id c = step8e e id c m x := by
  rw [check89, if_neg (not_passed_of_due hdue)]
  simp only [hop, hm, hx, if_true, Option.bind_some, hdraw, hcredit, hroom, Bool.and_true]

end Due
end Verdict

/-! ### The statement -/

/-- Settles O22, step by step: the deadline, the draws of 8b, credit and room, and then the verdict of step 8e. -/
theorem watchmanVerdict : Obligations.Watchman_verdict := by
  unfold Obligations.Watchman_verdict
  intro d e id c m x hop hm hx
  refine ⟨check89_of_passed, fun hdue => ⟨check89_of_brownout hop hm hx hdue, check89_of_no_credit hop hm hx hdue,
    check89_of_no_room hop hm hx hdue, ?down, ?missed, ?tooBig, ?admitted⟩⟩
  all_goals
    intro hdraw hcredit hroom
    rw [check89_of_room hop hm hx hdue hdraw hcredit hroom]
  case down => exact step8e_of_down
  case missed => exact step8e_of_missed
  case tooBig =>
    intro hup hmeet hbig
    rw [step8e_of_met hup hmeet, if_pos hbig]
  case admitted =>
    intro hup hmeet hfits
    rw [step8e_of_met hup hmeet, if_neg (by simp [hfits])]

end Sys2Proof.Machine
end

section
/-! SUPPORT. Slots, preemption, brownout grants and strict frames (R172, R249, R250, R262 to R268, R271, R290 to R293, R333): each event
where its time or trigger has come, and the statement about them. -/

namespace Sys2Proof.Machine
open Sys2Proof

/-! ### Slots and triggers (R249, R250, R262, R263) -/

section Slots
variable {s : State} {h : Fin 32}

theorem exec_almanacActivation_of_due {a : Almanac} (ha : (getHam s.toCtl h.val).pendingAlmanac = some a)
    (hdue : timeLe a.tAct (devNow s.toCtl) = true) :
    exec (.almanacActivation h) s = .next (setCtl s (shareUp s.toCtl
      (slotTrigger (mirrorStep s.toCtl (.hamlet h.val) 0 (installAlmanac s.toCtl h.val a)) h.val))) :=
  next_setCtl (by simp only [ha, if_pos hdue])

theorem exec_almanacActivation_of_early {a : Almanac} (ha : (getHam s.toCtl h.val).pendingAlmanac = some a)
    (hearly : timeLe a.tAct (devNow s.toCtl) = false) : exec (.almanacActivation h) s = .next s :=
  next_setCtl (b := s.toCtl) (by simp only [ha, hearly, Bool.false_eq_true, if_false])

theorem exec_almanacSlotBoundary_of_ended {e : AlmanacEntry}
    (he : (getHam s.toCtl h.val).almanac.entries[(getHam s.toCtl h.val).entryInForce]? = some e)
    (hend : timeLe ((getHam s.toCtl h.val).entryStart + BitVec.ofNat 64 (slotNs e)) (devNow s.toCtl) = true) :
    exec (.almanacSlotBoundary h) s =
      .next (setCtl s (shareUp s.toCtl (slotTrigger (takeSlot s.toCtl h.val) h.val))) :=
  next_setCtl (by simp only [he, if_pos hend])

theorem exec_preemptTrigger_of_step {e : Nat} {r : (Nat × Cmd × Part) × Way} (hb : mayBind s.toCtl h.val = true)
    (hstep : stepTrigger s.toCtl h.val = some (e, r)) :
    exec (.preemptTrigger h) s = .next (setCtl s (shareUp s.toCtl (startPreempt s.toCtl h.val e r))) :=
  next_setCtl (by simp only [hb, hstep, Bool.not_true, Bool.false_eq_true, if_false])

/-- A slot trigger that met a preemption is evaluated again once that one has ended (R263). -/
theorem exec_preemptTrigger_of_slotDue (hb : mayBind s.toCtl h.val = true) (hstep : stepTrigger s.toCtl h.val = none)
    (hdue : (getHam s.toCtl h.val).slotDue = true) (hfree : (getHam s.toCtl h.val).preempting = none) :
    exec (.preemptTrigger h) s = .next (setCtl s (shareUp s.toCtl (slotTrigger s.toCtl h.val))) :=
  next_setCtl (by simp [hb, hstep, hdue, hfree])

theorem exec_preemptTrigger_of_none (hstep : stepTrigger s.toCtl h.val = none)
    (hdue : (getHam s.toCtl h.val).slotDue = false) : exec (.preemptTrigger h) s = .next s :=
  next_setCtl (b := s.toCtl) (by simp only [hstep, hdue, Bool.false_and, Bool.false_eq_true, if_false, ite_self])

end Slots

/-! ### Grants and frames (R290 to R293, R333) -/

section Frames
variable {s : State}

theorem exec_brownoutGrantsApply_of_changed (hnew : (applyGrants s.toCtl).reservations ≠ s.toCtl.reservations) :
    exec .brownoutGrantsApply s = .next (setCtl s (internalStep s.toCtl .package fun d _ => applyGrants d)) :=
  next_setCtl (if_neg fun hsame => hnew hsame.1)

theorem exec_strictFrameBoundary_of_strict (hl : s.toCtl.pkg.life = .operating)
    (ht : ∃ e ∈ s.toCtl.tenants, strictInEffect s.toCtl e.1 = true) :
    exec .strictFrameBoundary s = .next (setCtl s (serveSheaves { strictAssign s.toCtl with
      units := { (strictAssign s.toCtl).units with frameStart := nowNs (strictAssign s.toCtl) } })) := by
  obtain ⟨e, he, hs⟩ := ht
  have hany : (s.toCtl.tenants.any fun e => strictInEffect s.toCtl e.1 || !e.2.strictSlots.isEmpty) = true :=
    List.any_eq_true.2 ⟨e, he, by simp [hs]⟩
  exact next_setCtl (if_pos (by simp [hl, hany]))

end Frames

/-! ### Parks and restores (R172, R267, R271) -/

section Parks
variable {s : State} {c : Nat} {h : Fin 32} {k : Cmd} (hk : Tbl.find? s.toCtl.cmds c = some k)
include hk

/-- An outstanding answer holds the victim back (R267). -/
theorem exec_stileReached_of_waiting (hwait : waitsIn k h.val = true) : exec (.stileReached c h) s = .next s :=
  next_setCtl (b := s.toCtl) (by simp [hk, hwait])

variable {p : Part} {st : Stile} (hp : Tbl.find? k.parts h.val = some p)
include hp

theorem exec_stileReached_of_quiet (hrun : runsIn k h.val = true) (hat : p.parkAt = some st)
    (hwave : p.wave = st.wave) (hpark : p.parking = false) (hquiet : waitsIn k h.val = false) :
    exec (.stileReached c h) s = .next (setCtl s (modPart s.toCtl c h.val fun p => { p with parking := true })) :=
  next_setCtl (by simp [hk, hp, hrun, hat, hwave, hpark, hquiet])

variable (hbound : p.state = .bound)
include hbound

theorem exec_parkDone_of_parking (hpark : p.parking = true) (hat : p.parkAt = some st)
    (hu : unsettled k = true) :
    exec (.parkDone c h) s =
      .next (setDev s (withCtl (moveLive s.toDev c k h.val p true) (endPark s.toCtl c h.val k st))) :=
  next_setDev (by simp [hk, hp, hat, hbound, hpark, hu])

theorem exec_resumeDone_of_restoring (hrest : p.restoring = true) :
    exec (.resumeDone c h) s =
      .next (setDev s (withCtl (moveLive s.toDev c k h.val p false) (endResume c h.val k p))) :=
  next_setDev (by simp [hk, hp, hbound, hrest])

end Parks

/-! ### The statement -/

/-- Settles O29, event by event. That a delayed almanac and the applied grants are internal steps of the Reeve is log 49's choice, the
moment of the grants log 29's, and the start of a frame at STRICT_FRAME_BOUNDARY log 20's. -/
theorem schedulingAndPreemption : Obligations.Scheduling_and_preemption := by
  unfold Obligations.Scheduling_and_preemption
  constructor
  · rintro s h x d rfl rfl
    refine ⟨fun a => exec_almanacActivation_of_due, fun a => exec_almanacActivation_of_early,
      fun e => exec_almanacSlotBoundary_of_ended, fun e r => exec_preemptTrigger_of_step, exec_preemptTrigger_of_slotDue,
      exec_preemptTrigger_of_none, exec_brownoutGrantsApply_of_changed, ?frame⟩
    case frame =>
      rintro hl ht e rfl
      exact exec_strictFrameBoundary_of_strict hl ht
  · intro s c h k p st hk hp
    exact ⟨exec_stileReached_of_quiet hk hp, exec_stileReached_of_waiting hk, exec_parkDone_of_parking hk hp,
      exec_resumeDone_of_restoring hk hp⟩

end Sys2Proof.Machine
end

section
/-! SUPPORT. The boundary of a sheaf (R302, R321, R322, R327, R347): what SHEAF_DONE makes of a sheaf by where it stands, what a finished
sheaf brings on, and the statement about them. -/

namespace Sys2Proof.Machine
open Sys2Proof

/-! ### Where the sheaf stands -/

section Boundary
variable {s : State} {n : Nat} {x : Sheaf} {d e : Dev} (hx : Tbl.find? s.toCtl.sheaves n = some x)
include hx

theorem exec_sheafDone_of_waiting (hu : inUnit x = false) : exec (.sheafDone n) s = .next s :=
  next_setDev (b := s.toDev) (by simp only [hx, hu, Bool.not_false, if_true])

variable (hd : d = withCtl s.toDev (fun d => leaveUnit d x)) (hu : inUnit x = true)
include hd hu

/-- A sheaf in the first of its two units waits in a Hearth buffer for the second (R321). -/
theorem exec_sheafDone_of_firstUnit (hs : x.squashed = false) (hf : firstUnit x = true) :
    exec (.sheafDone n) s = .next (setDev s (withCtl d fun d =>
      serveSheaves { d with sheaves := Tbl.set d.sheaves n { x with place := .buffered } })) := by
  subst hd
  exact next_setDev (by simp only [hx, hu, hs, hf, Bool.not_true, Bool.false_eq_true, if_false, if_true])

variable (he : e = withCtl d (fun d => { d with sheaves := Tbl.erase d.sheaves n }))
include he

theorem exec_sheafDone_of_squashed (hs : x.squashed = true) :
    exec (.sheafDone n) s = .next (setDev s (withCtl e fun d => disposed d x)) := by
  subst he hd
  exact next_setDev (by simp only [hx, hu, hs, Bool.not_true, Bool.false_eq_true, if_false, if_true])

/-- A sheaf that has passed both units leaves with its effect. -/
theorem exec_sheafDone_of_lastUnit (hs : x.squashed = false) (hf : firstUnit x = false) {f : Dev} (heff : sheafEffect e x = f) :
    exec (.sheafDone n) s = .next (setDev s (withCtl f fun d => disposed d x)) := by
  subst heff he hd
  exact next_setDev (by simp only [hx, hu, hs, hf, Bool.not_true, Bool.false_eq_true, if_false])

end Boundary

/-! ### What a finished sheaf brings on -/

theorem withCtl_withCtl (d : Dev) (f g : Ctl → Ctl) : withCtl (withCtl d f) g = withCtl d fun c => g (f c) := rfl

section Effect
variable {e : Dev} {x : Sheaf}

theorem sheafEffect_input {c : Nat} {a : W64} (h : x.use = .input c a) : sheafEffect e x = e := by
  simp only [sheafEffect, h]

section Loads
variable {c : Nat} {ld : Load} (h : x.use = .load c) (hl : Tbl.find? e.loads c = some ld)
include h hl

theorem sheafEffect_load_of_more (hmore : 1 < ld.sheaves) :
    sheafEffect e x = withCtl e fun d => { d with loads := Tbl.set d.loads c { ld with sheaves := ld.sheaves - 1 } } := by
  simp only [sheafEffect, loadSheaf, h, hl, if_pos hmore]

/-- The last sheaf of a load finishes it (R327). -/
theorem sheafEffect_load_of_last (hlast : ld.sheaves ≤ 1) : sheafEffect e x = finishLoad e c ld := by
  simp only [sheafEffect, loadSheaf, h, hl, if_neg (Nat.not_lt.2 hlast)]

end Loads

variable {p : SliceProc} (h : x.use = .migration) (hp : (getSlice e.toCtl x.slice).proc = some p)
include h hp

theorem sheafEffect_save (hk : p.kind = .save) :
    sheafEffect e x = withCtl e fun d => saveSheaf d x.slice x.index p := by
  simp only [sheafEffect, h, hp, hk, if_true]

theorem sheafEffect_restore (hk : p.kind = .restore) (hleft : migLeft e.toCtl x.slice = 0) :
    sheafEffect e x = finishRestore e x.slice p := by
  simp [sheafEffect, h, hp, hk, hleft]

end Effect

/-! ### The statement -/

/-- Settles O26 by where the sheaf stands. That a sheaf between its units waits in a Hearth buffer, and that free units take what waits
at the end of this command, is log 20's choice. -/
theorem sheafBoundary : Obligations.Sheaf_boundary := by
  unfold Obligations.Sheaf_boundary
  intro s n x d e hx hd he
  refine ⟨exec_sheafDone_of_waiting hx, fun hu => exec_sheafDone_of_squashed hx hd hu he,
    exec_sheafDone_of_firstUnit hx hd, fun hu hs hf => ?done⟩
  have hdone {f : Dev} := exec_sheafDone_of_lastUnit hx hd hu he hs hf (f := f)
  refine ⟨?input, ?counted, ?last, ?migration⟩
  case input =>
    intro c a huse
    exact hdone (sheafEffect_input huse)
  case counted =>
    intro c ld huse hl hmore
    rw [hdone (sheafEffect_load_of_more huse hl hmore), withCtl_withCtl]
  case last =>
    intro c ld huse hl hlast
    exact hdone (sheafEffect_load_of_last huse hl hlast)
  case migration =>
    intro p huse hp
    constructor
    · intro hk
      rw [hdone (sheafEffect_save huse hp hk), withCtl_withCtl]
    · intro hk hleft
      exact hdone (sheafEffect_restore huse hp hk hleft)

end Sys2Proof.Machine
end

section
/-! SUPPORT. Orders on tenants and their hamlets (R332, R342 to R344, R350): what the body of each order makes of the state in which it
runs, and the statement about them. -/

namespace Sys2Proof.Machine
open Sys2Proof

/-! ### The bodies -/

section TenantBodies
variable (b : Ctl) (o : Order)

theorem any_assigned_eq_false {hs : List Nat} (h : ∀ k ∈ hs, (getHam b k).assign = .unassigned) :
    (hs.any fun k => (getHam b k).assign != .unassigned) = false := by
  simpa using h

/-- The refusals of R342 do not apply, and an index and a way of each cache are free (R337). -/
theorem mbTenantCreateBody_of_free {t u v w : Nat} (hdebug : b.pkg.debugUnlocked = false)
    (hnew : tenantById b (fld o.args 0 2) = none) (hfree : ∀ h ∈ maskAt o.args 4, (getHam b h).assign = .unassigned)
    (ht : freeIndex b = some t) (hu : freeWay b Tenant.wayDesc = some u) (hv : freeWay b Tenant.wayAtc = some v)
    (hw : freeWay b Tenant.wayLane = some w) :
    mbTenantCreateBody b o = (.done 0 (leBytes 2 (newTenantHandle b) ++ leBytes 1 t),
      createTenant b (fld o.args 0 2) t (wayBit u) (wayBit v) (wayBit w) (maskAt o.args 4)) := by
  have hany := any_assigned_eq_false b hfree
  simp [mbTenantCreateBody, hdebug, hnew, hany, ht, hu, hv, hw, ok]

variable {t : Nat} {x : Tenant} (ht : tenantById b (fld o.args 0 2) = some (t, x))
include ht

theorem mbTenantRemoveBody_of_staying (hx : x.state ≠ .removing) :
    mbTenantRemoveBody b o = (.pending [], startRemoval b t o.jseq) := by
  simp only [mbTenantRemoveBody, ht, if_neg hx]

/-- STRICT is granted anew only while the reservations leave room for it (R283, R332). -/
theorem mbTenantPermitBody_of_overBooked {r : Nat} (hg : bitOf (fld o.args 2 1) 0 = true) (hx : x.permitStrict = false)
    (hover : overBooked b true = some r) : mbTenantPermitBody b o = (.done 0x24 (leBytes 4 r), b) := by
  simp [mbTenantPermitBody, ht, hg, hx, hover]

theorem mbTenantPermitBody_of_arms_kept (hw : bitOf (fld o.args 3 1) 1 = false)
    (hroom : bitOf (fld o.args 2 1) 0 = true → x.permitStrict = false → overBooked b true = none) :
    mbTenantPermitBody b o = (.done 0 [], setPermits b t (fld o.args 2 1) (fld o.args 3 1)) := by
  by_cases hnew : bitOf (fld o.args 2 1) 0 = true ∧ x.permitStrict = false
  · simp [mbTenantPermitBody, ht, hnew, hroom hnew.1 hnew.2, ok]
  · have hold : (bitOf (fld o.args 2 1) 0 && !x.permitStrict) = false := by simpa using hnew
    simp [mbTenantPermitBody, ht, hold, hw, ok]

/-- MIGRATION is withdrawn, and with it the arms of the slices that are not FROZEN (R352). -/
theorem mbTenantPermitBody_of_withdrawn (hg : bitOf (fld o.args 2 1) 0 = false) (hw : bitOf (fld o.args 3 1) 1 = true) :
    mbTenantPermitBody b o = (.done 0 [], dropArms (setPermits b t (fld o.args 2 1) (fld o.args 3 1)) t) := by
  simp [mbTenantPermitBody, ht, hg, hw, ok]

theorem mbHamletAssignBody_of_free (hx : x.state ≠ .removing)
    (hfree : ∀ h ∈ maskAt o.args 4, (getHam b h).assign = .unassigned) :
    mbHamletAssignBody b o = (.done 0 [], forEach (maskAt o.args 4) b fun b h =>
      if x.state = .claimed then startFill (giveHamlet b x.ident t h) h else giveHamlet b x.ident t h) := by
  have hany := any_assigned_eq_false b hfree
  simp only [mbHamletAssignBody, ht, if_neg hx, hany, Bool.false_eq_true, if_false, ok]

/-- A tenant's own hamlets, none of them reserved, are released as long as it keeps one (R344). -/
theorem mbHamletReleaseBody_of_own (hown : ∀ h ∈ maskAt o.args 4,
      (getHam b h).tenant = t ∧ (getHam b h).assign ≠ .unassigned ∧ (getHam b h).reservedMode = false)
    (hkeeps : ∃ h ∈ keptHamlets b t, h ∉ maskAt o.args 4) :
    mbHamletReleaseBody b o = (.pending [], forEach (maskAt o.args 4) b fun b h => startRelease b o.jseq h) := by
  have hmine : ((maskAt o.args 4).all fun h => (getHam b h).tenant == t && (getHam b h).assign != .unassigned) = true := by
    simpa using fun h hh => ⟨(hown h hh).1, (hown h hh).2.1⟩
  have hleft : (keptHamlets b t).all (maskAt o.args 4).contains = false := by simpa using hkeeps
  have hopen : ((maskAt o.args 4).any fun h => (getHam b h).reservedMode) = false := by
    simpa using fun h hh => (hown h hh).2.2
  simp only [mbHamletReleaseBody, ht, hmine, hleft, hopen, Bool.not_true, Bool.or_self, Bool.false_eq_true, if_false]

end TenantBodies

/-! ### The statement -/

/-- Settles O2, order by order: the arguments are in form, and the body's equation says what it makes of `b`. -/
theorem orderTenantsChange : Obligations.Order_tenants_change := by
  unfold Obligations.Order_tenants_change
  intro s src a b t x
  refine ⟨?create, ?remove, ?permit, ?withdraw, ?overBooked, ?assign, ?release⟩
  case create =>
    intro u v w h hform hdebug hnew hfree ht hu hv hw
    exact onCtl_order_done h hform (mbTenantCreateBody_of_free b _ hdebug hnew hfree ht hu hv hw)
  case remove =>
    intro h hform ht hx
    exact onCtl_order_pending h hform (mbTenantRemoveBody_of_staying b _ ht hx)
  case permit =>
    intro h hform ht hw hroom
    exact onCtl_order_done h hform (mbTenantPermitBody_of_arms_kept b _ ht hw hroom)
  case withdraw =>
    intro h hform ht hg hw
    exact onCtl_order_done h hform (mbTenantPermitBody_of_withdrawn b _ ht hg hw)
  case overBooked =>
    intro r h hform ht hg hx hover
    exact onCtl_order_done h hform (mbTenantPermitBody_of_overBooked b _ ht hg hx hover)
  case assign =>
    intro h hform ht hx hfree
    exact onCtl_order_done h hform (mbHamletAssignBody_of_free b _ ht hx hfree)
  case release =>
    intro h hform ht hown hkeeps
    exact onCtl_order_pending h hform (mbHamletReleaseBody_of_own b _ ht hown hkeeps)

end Sys2Proof.Machine
end

section
/-! SUPPORT. Trust messages (R304, R305, R309, R310, R312, R313, R352): the checks of R310 in their order, what the body of each message
makes of the state in which it runs, and the statement about them. -/

namespace Sys2Proof.Machine
open Sys2Proof

/-! ### The checks of R310 in their order -/

section TrustChecks
variable {b : Ctl} {p : Port} {r : TrustRow} {q : SpdmSession} {m : Bytes} (body : TrustBody) (hform : trustForm r m = true)
include hform

theorem trustRun_of_unknown (ht : tenantById b (fld m 4 2) = none) : trustRun b p r q m body = ((1, []), b) := by
  simp [trustRun, hform, ht]

variable {i : Nat} {x : Tenant} (ht : tenantById b (fld m 4 2) = some (i, x))
include ht

theorem trustRun_of_unsigned (hsig : trustSigned r x q m = false) : trustRun b p r q m body = ((3, []), b) := by
  simp [trustRun, hform, ht, hsig]

variable (hsig : trustSigned r x q m = true)
include hsig

theorem trustRun_of_stale {c : Nat} (hc : q.lastCounter = some c) (hle : fld m 8 4 ≤ c) :
    trustRun b p r q m body = ((4, []), b) := by
  simp [trustRun, hform, ht, hsig, hc, hle]

variable (hfresh : ∀ c, q.lastCounter = some c → c < fld m 8 4)
include hfresh

/-- Past the checks the body's own precondition and effect decide, and a message that succeeds moves its session's counter. -/
theorem trustRun_of_fresh :
    trustRun b p r q m body =
      if (body b ⟨q, m, i, x⟩).1.1 = 0 then
        ((body b ⟨q, m, i, x⟩).1, modSession (body b ⟨q, m, i, x⟩).2 p q.id fun q => { q with lastCounter := some (fld m 8 4) })
      else ((body b ⟨q, m, i, x⟩).1, b) := by
  have hnew : (q.lastCounter.any fun c => decide (fld m 8 4 ≤ c)) = false := by
    cases hc : q.lastCounter with
    | none => rfl
    | some c => simpa using hfresh c hc
  simp only [trustRun, hform, ht, hsig, hnew, Bool.not_true, Bool.false_eq_true, if_false]

end TrustChecks

/-! ### A trust message that runs, as a command -/

section TrustCommand
variable {s : State} {p : Port} {r : TrustRow} {id : Nat} {m : Bytes} {q : SpdmSession} {b : Ctl} {body : TrustBody}
  (h : TrustRuns s p r id m q b)
include h

theorem trustForm_of_runs : trustForm r m = true := by
  obtain ⟨-, -, hform, -⟩ := h
  exact hform

theorem onCtl_trustArrive {code : Nat} {rsp : Bytes} {d' : Ctl} (hrun : trustRun b p r q m body = ((code, rsp), d')) :
    onCtl s (fun d => trustArrive d p r id m body) = .next (trustDone s p r id m b code rsp d') :=
  next_setCtl ((trustArrive_runs body h).trans (by rw [hrun]))

theorem onCtl_trustArrive_unknown (ht : tenantById b (fld m 4 2) = none) :
    onCtl s (fun d => trustArrive d p r id m body) = .next (trustDone s p r id m b 1 [] b) :=
  onCtl_trustArrive h (trustRun_of_unknown body (trustForm_of_runs h) ht)

variable {i : Nat} {x : Tenant} (ht : tenantById b (fld m 4 2) = some (i, x))
include ht

theorem onCtl_trustArrive_stale (hsig : trustSigned r x q m = true) {c : Nat} (hc : q.lastCounter = some c)
    (hle : fld m 8 4 ≤ c) :
    onCtl s (fun d => trustArrive d p r id m body) = .next (trustDone s p r id m b 4 [] b) :=
  onCtl_trustArrive h (trustRun_of_stale body (trustForm_of_runs h) ht hsig hc hle)

variable (hfresh : ∀ c, q.lastCounter = some c → c < fld m 8 4)
include hfresh

/-- A message whose precondition holds has its effect once it is signed. -/
theorem onCtl_trustArrive_served {rsp : Bytes} {d' : Ctl} (hbody : body b ⟨q, m, i, x⟩ = ((0, rsp), d')) :
    onCtl s (fun d => trustArrive d p r id m body) =
      .next (if trustSigned r x q m then trustOk s p r id m q b rsp d' else trustDone s p r id m b 3 [] b) := by
  have hform := trustForm_of_runs h
  cases hsig : trustSigned r x q m with
  | false => exact onCtl_trustArrive h (trustRun_of_unsigned body hform ht hsig)
  | true => exact onCtl_trustArrive h ((trustRun_of_fresh body hform ht hsig hfresh).trans (by rw [hbody]; rfl))

/-- A message whose precondition fails has no effect, signed or not. -/
theorem onCtl_trustArrive_refused {code : Nat} (hcode : code ≠ 0) (hbody : (body b ⟨q, m, i, x⟩).1 = (code, [])) :
    onCtl s (fun d => trustArrive d p r id m body) =
      .next (trustDone s p r id m b (if trustSigned r x q m then code else 3) [] b) := by
  have hform := trustForm_of_runs h
  cases hsig : trustSigned r x q m with
  | false => exact onCtl_trustArrive h (trustRun_of_unsigned body hform ht hsig)
  | true => exact onCtl_trustArrive h ((trustRun_of_fresh body hform ht hsig hfresh).trans (by rw [hbody, if_neg hcode]; rfl))

end TrustCommand

/-! ### The bodies -/

section TrustBodies
variable {b : Ctl} {t : TrustMsg}

theorem tenantClaimBody_of_created {e : Ctl} {y : Tenant} (hx : t.tenant.state = .created)
    (he : e = startBarrier (forEach ((tenantHamlets (claimTenant b t.index t.msg) t.index).filter fun h =>
      (getHam (claimTenant b t.index t.msg) h).assign == .assigned) (claimTenant b t.index t.msg) startFill) t.index 2 0 0x31)
    (hy : Tbl.find? e.tenants t.index = some y) : tenantClaimBody b t = ((0, y.ownerDigest ++ y.claimSalt), e) := by
  subst he
  simp only [tenantClaimBody, hx, hy]

theorem tenantClaimBody_of_claimed (hx : t.tenant.state = .claimed) : tenantClaimBody b t = ((2, []), b) := by
  simp only [tenantClaimBody, hx]

theorem trustSlice_of_own {k : Nat} (hst : (getSlice b (fld t.msg k 1)).state ≠ .free)
    (hown : (getSlice b (fld t.msg k 1)).tenant = t.index) :
    trustSlice b t k = some (fld t.msg k 1, getSlice b (fld t.msg k 1)) :=
  if_pos ⟨hst, hown⟩

theorem modSlice_congr {i : Nat} {f g : Slice → Slice} (h : f (getSlice b i) = g (getSlice b i)) :
    modSlice b i f = modSlice b i g :=
  congrArg (setSlice b i) h

/-- A later epoch than CURRENT is installed in a slice that is not FROZEN (R313). -/
theorem sliceKeyInstallBody_of_later {z : Slice} (hslice : trustSlice b t 16 = some (fld t.msg 16 1, z))
    (hz : z = getSlice b (fld t.msg 16 1)) (hx : t.tenant.state = .claimed) (hfrozen : z.state ≠ .frozen)
    (hlater : ((z.keys.current.map EpochKeys.epoch).getD 0) < fld t.msg 18 2) :
    sliceKeyInstallBody b t =
      ((0, leBytes 4 z.incarnation.toNat ++ leBytes 1 z.gen.toNat ++ zeros 3 ++ t.tenant.claimSalt),
        activateBound (modSlice b (fld t.msg 16 1) fun y => installEpoch y (epochKeys t.tenant z (fld t.msg 18 2)))
          (fld t.msg 16 1)) := by
  have hmay : ¬ (t.tenant.state ≠ .claimed ∨ z.state = .frozen ∨
      fld t.msg 18 2 < (z.keys.current.map EpochKeys.epoch).getD 0 + 1) := by
    simp [hx, hfrozen, hlater]
  subst hz
  simp only [sliceKeyInstallBody, hslice, if_neg hmay]
  exact congrArg (fun d => ((0, _), activateBound d (fld t.msg 16 1))) (modSlice_congr rfl)

theorem sliceKeyRetireBody_of_previous {z : Slice} {k : EpochKeys} (hslice : trustSlice b t 16 = some (fld t.msg 16 1, z))
    (hz : z = getSlice b (fld t.msg 16 1)) (hk : z.keys.previous = some k) (hepoch : k.epoch = fld t.msg 18 2) :
    sliceKeyRetireBody b t = ((0, []), modSlice b (fld t.msg 16 1) fun y => { y with
      keys := { y.keys with previous := none, emptied := y.keys.emptied ++ [emptyEpoch z k] } }) := by
  have hmay : ¬ k.epoch ≠ fld t.msg 18 2 := not_not_intro hepoch
  subst hz
  simp only [sliceKeyRetireBody, hslice, hk, if_neg hmay]
  exact congrArg (Prod.mk (0, [])) (modSlice_congr rfl)

theorem migrationArmBody_of_permitted {z : Slice} (hslice : trustSlice b t 32 = some (fld t.msg 32 1, z))
    (hx : t.tenant.permitMigration = true) (hz : featureOn z 10 = true) :
    migrationArmBody b t = ((0, []), modSlice b (fld t.msg 32 1) fun y => { y with arm := some (sub t.msg 16 16) }) := by
  simp [migrationArmBody, hslice, hx, hz]

/-- Without the MIGRATION permission no slice is armed, whichever the message names (R352). -/
theorem migrationArmBody_of_unpermitted (hx : t.tenant.permitMigration = false) : migrationArmBody b t = ((5, []), b) := by
  cases hslice : trustSlice b t 32 with
  | none => simp only [migrationArmBody, hslice]
  | some z => simp [migrationArmBody, hslice, hx]

end TrustBodies

/-! ### The statement -/

/-- TENANT_STATUS carries no signature (R310). -/
theorem trustSigned_rowStatus (x : Tenant) (q : SpdmSession) (m : Bytes) : trustSigned rowStatus x q m = true := rfl

/-- A session that has accepted no message takes every counter (R310). -/
theorem fresh_of_no_counter {q : SpdmSession} {m : Bytes} (h : q.lastCounter = none) :
    ∀ c, q.lastCounter = some c → c < fld m 8 4 := by
  simp [h]

/-- Settles O41, message by message. That TENANT_STATUS carries the first 48 bytes of the measurement, and the layout of a response, is
log 21's presumption. -/
theorem trust : Obligations.Trust := by
  unfold Obligations.Trust
  constructor
  · intro s p id i m q b x ht hfresh
    refine ⟨?claim, ?install, ?retire, ?status, ?arm⟩
    case claim =>
      intro h hx e y he hy
      exact onCtl_trustArrive_served h ht hfresh (tenantClaimBody_of_created hx he hy)
    case install =>
      rintro h hx z rfl hst hown hfrozen hlater
      exact onCtl_trustArrive_served h ht hfresh
        (sliceKeyInstallBody_of_later (trustSlice_of_own hst hown) rfl hx hfrozen hlater)
    case retire =>
      rintro h z k rfl hst hown hk hepoch
      exact onCtl_trustArrive_served h ht hfresh
        (sliceKeyRetireBody_of_previous (trustSlice_of_own hst hown) rfl hk hepoch)
    case status =>
      intro h
      refine (onCtl_trustArrive_served h ht hfresh rfl).trans ?_
      rw [if_pos (trustSigned_rowStatus x q m)]
    case arm =>
      rintro h hx z rfl hst hown hz
      exact onCtl_trustArrive_served h ht hfresh (migrationArmBody_of_permitted (trustSlice_of_own hst hown) hx hz)
  · intro s p id i m q b x c
    refine ⟨onCtl_trustArrive_unknown, ?stale, ?claimed, ?unpermitted⟩
    case stale =>
      intro h ht hc hle
      exact onCtl_trustArrive_stale h ht (trustSigned_rowStatus x q m) hc hle
    case claimed =>
      intro h ht hc hx
      exact onCtl_trustArrive_refused h ht (fresh_of_no_counter hc) (by decide)
        (congrArg Prod.fst (tenantClaimBody_of_claimed hx))
    case unpermitted =>
      intro h ht hc hx
      exact onCtl_trustArrive_refused h ht (fresh_of_no_counter hc) (by decide)
        (congrArg Prod.fst (migrationArmBody_of_unpermitted hx))

end Sys2Proof.Machine
end

section
/-! SUPPORT. The SPDM responder (R303, R306 to R309): each request that is well-formed and in its turn, and the statement about them. -/

namespace Sys2Proof.Machine
open Sys2Proof

/-! ### A request, as a command -/

section Request
variable {s : State} {p : Port} {req : Bytes} {code least : Nat} {turn : Ctl → Bool} {f : Ctl → Ctl}
  (h : SpdmAsks s.toCtl p req code least)
include h

theorem onCtl_spdmRequest_inTurn (hcode : code ≠ 0x84) (hturn : turn s.toCtl = true) {d' : Ctl} (hf : f s.toCtl = d') :
    onCtl s (fun d => spdmRequest d p req code least (turn d) f) = .next (setCtl s d') :=
  next_setCtl ((spdmRequest_asks h (turn s.toCtl) hcode).trans ((if_pos hturn).trans hf))

theorem onCtl_spdmRequest_negotiated (hcode : code ≠ 0x84) (hn : negotiated s.toCtl p = true) {d' : Ctl} (hf : f s.toCtl = d') :
    onCtl s (fun d => spdmRequest d p req code least (negotiated d p) f) = .next (setCtl s d') :=
  onCtl_spdmRequest_inTurn h (turn := fun d => negotiated d p) hcode hn hf

theorem onCtl_spdmRequest_outOfTurn (hcode : code ≠ 0x84) (hturn : turn s.toCtl = false) :
    onCtl s (fun d => spdmRequest d p req code least (turn d) f) = .next (setCtl s (emit s.toCtl (.doe p (spdmError 4 0)))) :=
  next_setCtl ((spdmRequest_asks h (turn s.toCtl) hcode).trans (if_neg (by simp [hturn])))

end Request

/-! ### The connection (R306, R307) -/

section Connection
variable {s : State} {p : Port} {req : Bytes}

theorem exec_getVersion_of_asks (hup : doeUp s.toCtl p = true) (hcode : fld req 1 1 = 0x84) (hlen : 4 ≤ req.length)
    (hver : fld req 0 1 = 0x10) {rsp : Bytes} (hrsp : rsp = [0x10, 0x04, 0, 0, 0, 1, 0x00, 0x12]) :
    exec (.getVersion p req) s = .next (setCtl s (emit (modPort s.toCtl p fun x => { x with
      sessions := [], spdmVersion := true, spdmCaps := false, spdmAlgs := false, spdmLog := req ++ rsp, spdmCerts := []
      spdmMeas := [] }) (.doe p rsp))) := by
  subst hrsp
  refine next_setCtl ?_
  simp [spdmRequest, hup, hcode, Nat.not_lt.2 hlen, hver, spdmAnswer]

theorem exec_getCapabilities_of_version (h : SpdmAsks s.toCtl p req 0xE1 20) (hv : (getPort s.toCtl p).spdmVersion = true)
    {rsp : Bytes} (hrsp : rsp = [0x12, 0x61, 0, 0, 0] ++ leBytes 1 Config.spdmLimits.1 ++ [0, 0] ++ leBytes 4 0x2D6 ++
      leBytes 4 Config.spdmLimits.2.1 ++ leBytes 4 Config.spdmLimits.2.2) :
    exec (.getCapabilities p req) s = .next (setCtl s (emit (modPort s.toCtl p fun x => { x with
      spdmCaps := true, spdmLog := x.spdmLog ++ req ++ rsp }) (.doe p rsp))) := by
  subst hrsp
  exact onCtl_spdmRequest_inTurn h (by decide) (turn := fun d => (getPort d p).spdmVersion) hv rfl

theorem exec_getCapabilities_of_no_version (h : SpdmAsks s.toCtl p req 0xE1 20)
    (hv : (getPort s.toCtl p).spdmVersion = false) :
    exec (.getCapabilities p req) s = .next (setCtl s (emit s.toCtl (.doe p (spdmError 4 0)))) :=
  onCtl_spdmRequest_outOfTurn h (by decide) (turn := fun d => (getPort d p).spdmVersion) hv

/-- The device selects ECDSA P-384 and SHA-384 where the request offers them (R306). -/
theorem exec_negotiateAlgorithms_of_offered (h : SpdmAsks s.toCtl p req 0xE3 32) (hv : (getPort s.toCtl p).spdmVersion = true)
    (hc : (getPort s.toCtl p).spdmCaps = true) (hasym : bitOf (fld req 8 4) 7 = true) (hhash : bitOf (fld req 12 4) 1 = true)
    {rsp : Bytes} (hrsp : rsp = [0x12, 0x63] ++ leBytes 1 (algStructs req).length ++ [0] ++
      leBytes 2 (36 + 4 * (algStructs req).length) ++ leBytes 1 (fld req 6 1 % 2) ++ leBytes 1 (fld req 7 1 / 2 % 2 * 2) ++
      leBytes 4 1 ++ leBytes 4 0x80 ++ leBytes 4 2 ++ zeros 16 ++
      (algStructs req).flatMap (fun a => leBytes 1 a.1 ++ [0x20] ++ leBytes 2 a.2)) :
    exec (.negotiateAlgorithms p req) s = .next (setCtl s (emit (modPort s.toCtl p fun x => { x with
      spdmAlgs := true, spdmLog := x.spdmLog ++ req ++ rsp }) (.doe p rsp))) := by
  subst hrsp
  refine onCtl_spdmRequest_inTurn h (by decide) (turn := fun d => (getPort d p).spdmVersion && (getPort d p).spdmCaps)
    (by simp [hv, hc]) ?_
  have hboth : ¬ ((0x80 : Nat) = 0 ∨ (2 : Nat) = 0) := by decide
  simp only [hasym, hhash, if_true, if_neg hboth, spdmAnswer]

variable (hn : negotiated s.toCtl p = true)
include hn

theorem exec_getDigests_of_negotiated (h : SpdmAsks s.toCtl p req 0x81 4) {rsp : Bytes}
    (hrsp : rsp = [0x12, 0x01, 0, 1] ++ sha384 (certChain s.toCtl)) :
    exec (.getDigests p req) s = .next (setCtl s (emit (modPort s.toCtl p fun x => { x with
      spdmCerts := x.spdmCerts ++ req ++ rsp }) (.doe p rsp))) := by
  subst hrsp
  exact onCtl_spdmRequest_negotiated h (by decide) hn rfl

/-- Slot 0 has a chain and no other slot does: past its end there is nothing to answer (R307). -/
theorem exec_getCertificate_of_slot0 (h : SpdmAsks s.toCtl p req 0x82 8) (hslot : fld req 2 1 = 0) {part rsp : Bytes}
    (hpart : part = sub (certChain s.toCtl) (fld req 4 2) (fld req 6 2))
    (hrsp : rsp = [0x12, 0x02, 0, 0] ++ leBytes 2 part.length ++
      leBytes 2 ((certChain s.toCtl).length - fld req 4 2 - part.length) ++ part) :
    exec (.getCertificate p req) s = .next (setCtl s (if (certChain s.toCtl).length ≤ fld req 4 2 then
        emit s.toCtl (.doe p (spdmError 1 0))
      else emit (modPort s.toCtl p fun x => { x with spdmCerts := x.spdmCerts ++ req ++ rsp }) (.doe p rsp))) := by
  subst hrsp hpart
  refine onCtl_spdmRequest_negotiated h (by decide) hn ?_
  simp only [hslot, ne_eq, not_true_eq_false, false_or, spdmAnswer]

end Connection

/-! ### Attestation and sessions (R303, R306, R308, R309) -/

section Attestation
variable {s : State} {p : Port} {req : Bytes} {x : PortState} (hx : x = getPort s.toCtl p) (hn : negotiated s.toCtl p = true)
include hn

include hx in
theorem exec_challenge_of_slot0 (h : SpdmAsks s.toCtl p req 0x83 36) (hslot : fld req 2 1 = 0) {rsp : Bytes}
    (hrsp : rsp = [0x12, 0x03, 0, 1] ++ sha384 (certChain s.toCtl) ++ drawBytes s.toCtl 32 ++
      measureSummary s.toCtl (fld req 3 1) ++ [0, 0]) :
    exec (.challenge p req) s = .next (setCtl s (emit (drawn (modPort s.toCtl p fun x => { x with spdmCerts := [] }))
      (.doe p (rsp ++ spdmSign s.toCtl "responder-challenge_auth signing" (x.spdmLog ++ x.spdmCerts ++ req ++ rsp))))) := by
  subst hrsp hx
  refine onCtl_spdmRequest_negotiated h (by decide) hn ?_
  exact if_neg (not_not_intro hslot)

section Measurements
variable (h : SpdmAsks s.toCtl p req 0xE0 4) {l : List Nat} (hl : measureAsked s.toCtl (fld req 3 1) = some l) {rsp : Bytes}
  (hrsp : rsp = [0x12, 0x60] ++ leBytes 1 (if fld req 3 1 = 0 then (measureIndices s.toCtl).length else 0) ++ [0] ++
    leBytes 1 l.length ++ leBytes 3 (measureRecord s.toCtl l).length ++ measureRecord s.toCtl l ++
    drawBytes s.toCtl 32 ++ [0, 0])
include h hl hrsp

theorem exec_getMeasurements_of_unsigned (hsig : bitOf (fld req 2 1) 0 = false) :
    exec (.getMeasurements p req) s = .next (setCtl s (emit (drawn (modPort s.toCtl p fun x => { x with
      spdmMeas := (getPort s.toCtl p).spdmMeas ++ req ++ rsp })) (.doe p rsp))) := by
  subst hrsp
  refine onCtl_spdmRequest_negotiated h (by decide) hn ?_
  simp only [hl, hsig, Bool.false_eq_true, false_and, if_false, List.append_nil, spdmAnswer]

include hx in
/-- A signed answer closes the log of measurement exchanges (R306). -/
theorem exec_getMeasurements_of_signed (hsig : bitOf (fld req 2 1) 0 = true) (hlen : 37 ≤ req.length)
    (hslot : fld req 36 1 = 0) :
    exec (.getMeasurements p req) s = .next (setCtl s (emit (drawn (modPort s.toCtl p fun x => { x with spdmMeas := [] }))
      (.doe p (rsp ++ spdmSign s.toCtl "responder-measurements signing" (x.spdmLog ++ (x.spdmMeas ++ req ++ rsp)))))) := by
  subst hrsp hx
  refine onCtl_spdmRequest_negotiated h (by decide) hn ?_
  have hwell : ¬ (req.length < 37 ∨ fld req 36 1 ≠ 0) := by simp [hslot, hlen]
  simp only [hl, hsig, true_and, if_neg hwell, if_true, spdmAnswer]

end Measurements

include hx in
/-- A valid share of the requester makes a session whose transcript ends in the responder's verify data (R306). -/
theorem exec_keyExchange_of_valid (h : SpdmAsks s.toCtl p req 0xE4 138) (hslot : fld req 3 1 = 0)
    (hkey : ecKeyValid (sub req 40 96) = true) {rsp sec t sig v : Bytes}
    (hrsp : rsp = [0x12, 0x64, 0, 0] ++ leBytes 2 x.nextSession ++ [0, 0] ++ drawBytes s.toCtl 32 ++
      ecPublic (Config.ephemeralScalar s.toCtl.fresh) ++ measureSummary s.toCtl (fld req 2 1) ++ [0, 0])
    (hsec : sec = ecShared (Config.ephemeralScalar s.toCtl.fresh) (sub req 40 96))
    (ht : t = x.spdmLog ++ sha384 (certChain s.toCtl) ++ req ++ rsp)
    (hsig : sig = spdmSign s.toCtl "responder-key_exchange_rsp signing" t)
    (hv : v = hmac384 (finishedKey sec (t ++ sig) "rsp hs data") (sha384 (t ++ sig))) :
    exec (.keyExchange p req) s = .next (setCtl s (emit (drawn (addSession s.toCtl p {
      id := fld req 4 2 + 2 ^ 16 * x.nextSession, transcript := t ++ sig ++ v, secret := sec, used := now s.toCtl }))
        (.doe p (rsp ++ sig ++ v)))) := by
  subst hv hsig ht hsec hrsp hx
  refine onCtl_spdmRequest_negotiated h (by decide) hn ?_
  have hwell : ¬ (fld req 3 1 ≠ 0 ∨ (!ecKeyValid (sub req 40 96)) = true) := by simp [hslot, hkey]
  exact if_neg hwell

section Finish
variable {m : Bytes} (hm : m = req.drop 4) (h : SpdmAsks s.toCtl p m 0xE5 52)
include hm h

/-- FINISH establishes its session where the requester's verify data match (R306, R309). -/
theorem exec_finish_of_session {n : SpdmSession}
    (hs : ((getPort s.toCtl p).sessions.find? fun n => n.id == fld req 0 4 && !n.established) = some n) :
    exec (.finish p req) s = .next (setCtl s
      (if hmac384 (finishedKey n.secret (exchanged n.transcript) "req hs data") (sha384 (n.transcript ++ m.take 4)) = sub m 4 48
        then emit (modSession s.toCtl p (fld req 0 4) fun n => { n with
          established := true, transcript := sha384 (n.transcript ++ m ++ [0x12, 0x65, 0, 0]), secret := []
          used := now s.toCtl }) (.doe p [0x12, 0x65, 0, 0])
        else emit s.toCtl (.doe p (spdmError 6 0)))) := by
  subst hm
  refine onCtl_spdmRequest_negotiated h (by decide) hn ?_
  simp only [hs, ne_eq, ite_not, spdmAnswer]

theorem exec_finish_of_no_session
    (hs : ((getPort s.toCtl p).sessions.find? fun n => n.id == fld req 0 4 && !n.established) = none) :
    exec (.finish p req) s = .next (setCtl s (emit s.toCtl (.doe p (spdmError 2 (fld req 0 4))))) := by
  subst hm
  refine onCtl_spdmRequest_negotiated h (by decide) hn ?_
  simp only [hs, spdmAnswer]

end Finish
end Attestation

/-! ### The statement -/

/-- Settles O42, request by request. The bytes of every response are DSP0274 1.2's by log 21's presumption, the session that a full table
drops is log 37's choice, the scalars are log 46's. -/
theorem spdm : Obligations.Spdm := by
  unfold Obligations.Spdm
  constructor
  · rintro s p req d x rfl rfl
    refine ⟨?version, ?caps, exec_getCapabilities_of_no_version, ?algs, ?digests, ?cert⟩
    case version =>
      intro rsp hrsp hup hcode hlen hver
      exact exec_getVersion_of_asks hup hcode hlen hver hrsp
    case caps =>
      intro rsp hrsp h hv
      exact exec_getCapabilities_of_version h hv hrsp
    case algs =>
      intro rsp hrsp h hv hc hasym hhash
      exact exec_negotiateAlgorithms_of_offered h hv hc hasym hhash hrsp
    case digests =>
      intro rsp hrsp h hn
      exact exec_getDigests_of_negotiated hn h hrsp
    case cert =>
      intro part rsp hpart hrsp h hn hslot
      exact exec_getCertificate_of_slot0 hn h hslot hpart hrsp
  · rintro s p req d x rfl hx hn
    refine ⟨?challenge, ?measurements, ?keyExchange, ?finish, ?noSession⟩
    case challenge =>
      intro rsp hrsp h hslot
      exact exec_challenge_of_slot0 hx hn h hslot hrsp
    case measurements =>
      intro l rsp hl hrsp h
      exact ⟨exec_getMeasurements_of_unsigned hn h hl hrsp, exec_getMeasurements_of_signed hx hn h hl hrsp⟩
    case keyExchange =>
      intro rsp sec t sig hrsp hsec ht hsig h hslot hkey v hv
      exact exec_keyExchange_of_valid hx hn h hslot hkey hrsp hsec ht hsig hv
    case finish =>
      intro n m hm h hs
      exact exec_finish_of_session hn hm h (hx ▸ hs)
    case noSession =>
      intro m hm h hs
      exact exec_finish_of_no_session hn hm h (hx ▸ hs)

end Sys2Proof.Machine
end

section
/-! SUPPORT. Orders on migration and provisioning (R337, R352 to R354, R357, R361, R474, R484, R488, R494): what the body of each order
makes of the state in which it runs, and the statement about them. -/

namespace Sys2Proof.Machine
open Sys2Proof

/-! ### Orders that read an image, and orders that call for a full reset -/

section ReadyOrder
variable {s : State} {src : OrderSource} {op : Nat} {a : Bytes} {b d' : Ctl} {bad : Ctl → Bytes → Bool} {body : Body}
  {rsp : Bytes} {image : DmaResult}

theorem onCtl_order_image_pending (h : Ready s src op a b image) (hb : bad (takenFrom s.toCtl op src) a = false)
    (hbody : body b { jseq := s.reeve.nextJseq, master := srcMaster src, args := a, image := image } = (.pending rsp, d')) :
    onCtl s (fun d => order d src op image bad body) = .next (orderPending s src op a rsp d' image) :=
  next_ctl (ready_pending h hb hbody)

theorem onDev_order_last (h : Ready s src op a b) (hb : bad (takenFrom s.toCtl op src) a = false)
    (hbody : body b { jseq := s.reeve.nextJseq, master := srcMaster src, args := a } = (.last, d')) :
    onDev s (fun d => runFullReset (withCtl d fun d => order d src op (.ok []) bad body)) = .next (orderReset s src op a d') :=
  next_fullReset (ready_last h hb hbody)

end ReadyOrder

/-! ### Migration (R352 to R354, R357, R361) -/

section MigrationBodies
variable (b : Ctl) (o : Order)

theorem mbMigFreezeBody_of_armed (h : mayFreeze b (fld o.args 0 1) = true) :
    mbMigFreezeBody b o = (.pending [], startFreeze b (fld o.args 0 1) o.jseq) :=
  if_pos h

theorem mbMigResumeBody_of_frozen (hst : (getSlice b (fld o.args 0 1)).state = .frozen)
    (hp : (getSlice b (fld o.args 0 1)).proc = none)
    (harm : (getSlice b (fld o.args 0 1)).saved = false ∨ (getSlice b (fld o.args 0 1)).arm ≠ none) :
    mbMigResumeBody b o = (.done 0 [], resumeSlice b (fld o.args 0 1)) := by
  have harmed : ((getSlice b (fld o.args 0 1)).saved && (getSlice b (fld o.args 0 1)).arm.isNone) = false := by
    rcases harm with h | h
    · simp [h]
    · simp [Option.isNone_eq_false_iff.2 (Option.isSome_iff_ne_none.2 h)]
  simp [mbMigResumeBody, hst, hp, harmed, ok]

variable {mem : List Host.Cell} {img : Bytes} (hready : migReady b (fld o.args 0 1) (fld o.args 1 1) = true)
  (hdone : completionsWritten b (fld o.args 0 1) = true)
include hready hdone

/-- The tenant holds the target hamlets, and a transient guarantee for the image fits (R357). -/
theorem mbMigRestoreBody_of_granted (hlanes : hasComputeLane (getSlice b (fld o.args 0 1)) = false)
    (hgrant : ∀ p ∈ migPairs o.args, grantedTo b (fld o.args 0 1) p.2 = true)
    (hroom : transientShort b (fld o.args 1 1) false = none) :
    mbMigRestoreBody b o = (.pending [], startRestore b (fld o.args 0 1) o.jseq o.args) := by
  have hany : ((migPairs o.args).any fun p => !grantedTo b (fld o.args 0 1) p.2) = false := by simpa using hgrant
  simp [mbMigRestoreBody, hready, hdone, hlanes, hany, hroom]

variable (himg : imageOf mem b (fld o.args 0 1) (bitList 32 (fld o.args 4 4)) = some img)
include himg

/-- The answer names the 4 KiB pages that the image takes (R354). -/
theorem mbMigSaveBody_of_short (hlen : fld o.args 16 8 < img.length) :
    mbMigSaveBody mem b o = (.done 0x23 (leBytes 4 (ceilDiv img.length 4096)), b) := by
  simp [mbMigSaveBody, hready, hdone, himg, hlen]

/-- The image fits the buffer, its hamlets are the tenant's and at rest, and a transient guarantee for it fits (R354). -/
theorem mbMigSaveBody_of_fits (hlen : img.length ≤ fld o.args 16 8) (halign : fld o.args 8 8 % 4096 = 0)
    (hrest : bitList 32 (fld o.args 4 4) = [] ∨ othersFrozen b (fld o.args 0 1) = true)
    (hown : ∀ h ∈ bitList 32 (fld o.args 4 4), h ∈ tenantHamlets b (getSlice b (fld o.args 0 1)).tenant)
    (hroom : transientShort b (fld o.args 1 1) true = none) :
    mbMigSaveBody mem b o = (.pending (leBytes 8 img.length), startSave b (fld o.args 0 1) o.jseq img) := by
  have hfit : ¬ (fld o.args 8 8 % 4096 ≠ 0 ∨ fld o.args 16 8 < img.length) := by omega
  have hfrozen : (!(bitList 32 (fld o.args 4 4)).isEmpty && !othersFrozen b (fld o.args 0 1)) = false := by
    rcases hrest with h | h <;> simp [h]
  have hmine : ((bitList 32 (fld o.args 4 4)).any fun h =>
      !(tenantHamlets b (getSlice b (fld o.args 0 1)).tenant).contains h) = false := by
    simpa using hown
  simp only [mbMigSaveBody, hready, hdone, himg, if_neg hfit, hfrozen, hmine, hroom, Bool.not_true, Bool.or_self,
    Bool.false_eq_true, if_false]

end MigrationBodies

/-! ### Provisioning (R337, R484, R488) -/

section ProvisioningBodies
variable (b : Ctl) (o : Order)

theorem mbCharterWriteBody_of_sequence_left (h : charterSeq b.pkg + 1 < 2 ^ 32) :
    mbCharterWriteBody b o = (.pending [], startCharter b o.jseq (charterTarget b.pkg)
      (buildCopy (charterSeq b.pkg + 1) (mergeRecords (recordsInForce b.pkg) ((charterWrites o.args).getD [])))) :=
  if_neg (Nat.not_le.2 h)

theorem mbFwWriteBody_of_linkUp (hlen : fld o.args 16 4 ≤ 8 * 2 ^ 20) (hup : (getPort b (portOf (fld o.args 0 1))).linkUp = true) :
    mbFwWriteBody b o = (.pending [], startFirmware b o.jseq o.args o.image) := by
  simp only [mbFwWriteBody, if_neg (Nat.not_lt.2 hlen), hup, Bool.not_true, Bool.false_eq_true, if_false]

/-- Without a tenant the token alone decides (R337). -/
theorem mbDebugUnlockBody_of_no_tenant (ht : b.tenants = []) : mbDebugUnlockBody b o =
    if Config.unlockTokenValid (o.args.take 128) = true then (.done 0 [], modPkg b fun k => { k with debugUnlocked := true })
    else (.done 0x13 [], b) := by
  cases hv : Config.unlockTokenValid (o.args.take 128) <;> simp [mbDebugUnlockBody, hv, ht, ok, refuse]

end ProvisioningBodies

/-! ### The statement -/

/-- Settles O7, order by order: the arguments are in form, and the body's equation says what it makes of `b`. That a write erases
its target copy at once and copy A is the first target is log 36's choice, that a firmware image is judged at the end of its flash
operation log 39's, the bytes of a migration image log 34's. -/
theorem orderMigrationAndProvisioning : Obligations.Order_migration_and_provisioning := by
  unfold Obligations.Order_migration_and_provisioning
  constructor
  · intro s src a b image
    refine ⟨?freeze, ?save, ?restore, ?resume⟩
    case freeze =>
      intro h hlen hmay
      exact onCtl_order_pending h (by simp [hlen]) (mbMigFreezeBody_of_armed b _ hmay)
    case save =>
      intro img h hform hready hdone himg halign hrest hown hroom
      split
      next hlen =>
        exact onCtl_order_pending h hform (mbMigSaveBody_of_fits b _ hready hdone himg hlen halign hrest hown hroom)
      next hlen => exact onCtl_order_done h hform (mbMigSaveBody_of_short b _ hready hdone himg (Nat.not_le.1 hlen))
    case restore =>
      intro h hform hready hlanes hdone hgrant hroom
      exact onCtl_order_image_pending h hform (mbMigRestoreBody_of_granted b _ hready hdone hlanes hgrant hroom)
    case resume =>
      intro h hlen hst hp harm
      exact onCtl_order_done h (by simp [hlen]) (mbMigResumeBody_of_frozen b _ hst hp harm)
  · intro s src a b image
    refine ⟨?charterRead, ?charterWrite, ?firmware, ?svn, ?unlock, ?reboot⟩
    case charterRead =>
      intro h hform hlayer halign
      exact onCtl_order_done h (by simp [hform, hlayer, halign]) rfl
    case charterWrite =>
      intro h hform hseq
      exact onCtl_order_pending h hform (mbCharterWriteBody_of_sequence_left b _ hseq)
    case firmware =>
      intro h hform hport halign hlen hup
      exact onCtl_order_image_pending h (by simp [hform, hport, halign]) (mbFwWriteBody_of_linkUp b _ hlen hup)
    case svn =>
      intro h hlen
      exact onCtl_order_done h (by simp [badArgs, hlen]) rfl
    case unlock =>
      intro h hlen ht
      have hform : badArgs a 128 [] = false := by simp [badArgs, hlen]
      have htoken : a.take 128 = a := List.take_of_length_le hlen.le
      split
      next hv => exact onCtl_order_done h hform (by rw [mbDebugUnlockBody_of_no_tenant b _ ht, if_pos (by rwa [htoken])])
      next hv => exact onCtl_order_done h hform (by rw [mbDebugUnlockBody_of_no_tenant b _ ht, if_neg (by rwa [htoken])])
    case reboot =>
      intro h hlen
      exact onDev_order_last h (by simp [badArgs, hlen]) rfl

end Sys2Proof.Machine
end

section
/-! SUPPORT. Deadlines and escalation (R344, R346, R348, R350, R382, R395, R396, R405, R406): what the deadline after a fence and the
target of a reset make of the state once they have come, and the statement about them. -/

namespace Sys2Proof.Machine
open Sys2Proof

/-! ### The deadline after a fence (R344, R346, R348, R350, R395) -/

section FenceDeadline
variable {s : State} {i : Fin 256} {h : Fin 32}

theorem exec_fenceDeadline_slice_of_fenced {p : SliceProc} (hp : (getSlice s.toCtl i.val).proc = some p)
    (hs : p.squashed = false) (hk : p.kind = .reset ∨ p.kind = .destroy) (hf : fenced s.toCtl p.start = true) :
    exec (.fenceDeadline (.slice i)) s = .next (setCtl s (advanceSlice (squashSlice s.toCtl i.val St.fenced) i.val)) := by
  have hkind : (p.kind == .reset || p.kind == .destroy) = true := by simpa using hk
  exact next_setCtl (by simp only [hp, hs, hkind, hf, Bool.not_false, Bool.and_self, if_true])

/-- Whether the hamlet resets or leaves its tenant, and which order released it, decides. -/
theorem exec_fenceDeadline_hamlet_of_reset {r : HamletReset} (hr : (getHam s.toCtl h.val).reset = some r) :
    exec (.fenceDeadline (.hamlet h)) s = .next (setCtl s (
      if r.squashed || !fenced s.toCtl r.start then s.toCtl
      else if r.release then (if r.jseq = 0 then s.toCtl else finishRelease s.toCtl h.val r.jseq)
      else squashHamlet s.toCtl h.val)) :=
  next_setCtl (by simp only [hr])

theorem exec_fenceDeadline_package_of_fenced {w : WarmReset} (hw : s.toCtl.pkg.warm = some w) (hs : w.squashed = false)
    (hf : fenced s.toCtl w.start = true) :
    exec (.fenceDeadline .package) s = .next (setCtl s (squashPackage s.toCtl)) :=
  next_setCtl (by simp only [hw, hs, hf, Bool.not_false, Bool.and_self, if_true])

theorem exec_fenceDeadline_tenant_of_removing {x : Tenant} (hx : Tbl.find? s.toCtl.tenants h.val = some x)
    (hst : x.state = .removing) (hstep : x.removeStep = 1) (hdue : x.removeStart + us 100 ≤ now s.toCtl) :
    exec (.fenceDeadline (.tenant h)) s = .next (setCtl s (squashTenant s.toCtl h.val)) :=
  next_setCtl (by simp only [hx, if_pos (And.intro hst (And.intro hstep hdue))])

end FenceDeadline

/-! ### Resets that are late (R382, R396, R405, R406) -/

section Escalation
variable {s : State} {h : Fin 32} {c : Fin 13}

theorem exec_resetTargetExpiry_croft_of_late {r : CroftReset} (hr : Tbl.find? (getHam s.toCtl h.val).croftResets c.val = some r)
    (hl : r.start + us 20 ≤ now s.toCtl) :
    exec (.resetTargetExpiry (.croft h c)) s = .next (setCtl s (startRetirement (modHam s.toCtl h.val fun x => { x with
      croftResets := Tbl.erase x.croftResets c.val }) h.val c.val 0x81)) :=
  next_setDev (by simp only [hr, if_pos hl]; rfl)

theorem exec_resetTargetExpiry_retirement_of_late {r : Retirement} (hr : (getHam s.toCtl h.val).retirement = some r)
    (hl : r.start + ms 5 ≤ now s.toCtl) :
    exec (.resetTargetExpiry (.retirement h)) s = .next (setCtl s (startHamletReset s.toCtl h.val 0 0x81 true)) :=
  next_setDev (by simp only [hr, if_pos hl]; rfl)

theorem exec_resetTargetExpiry_hamlet_of_late {r : HamletReset} (hr : (getHam s.toCtl h.val).reset = some r)
    (hrel : r.release = false) (hl : r.start + ms 2 + fenceExcess s.toCtl ≤ now s.toCtl) :
    exec (.resetTargetExpiry (.hamlet h)) s = .next (setCtl s (faultWarm s.toCtl 0x81 h.val false [] [])) :=
  next_setDev (by simp only [hr, hrel, decide_eq_true hl, Bool.not_false, Bool.and_self, if_true]; rfl)

theorem exec_resetTargetExpiry_warm_of_late {w : WarmReset} (hw : s.toCtl.pkg.warm = some w) (hd : w.workDone = false)
    (hl : w.start + ms 180 + fenceExcess s.toCtl ≤ now s.toCtl) :
    exec (.resetTargetExpiry .warm) s = .next (setDev s (fullReset s.toDev 0x81 true)) :=
  next_setDev (by simp only [hw, hd, decide_eq_true hl, Bool.not_false, Bool.and_self, if_true])

theorem exec_resetTargetExpiry_full_of_late (hl : fullLate s.toCtl = true) :
    exec (.resetTargetExpiry .full) s = .next (setCtl s (askPowerCycle s.toCtl)) :=
  next_setDev (if_pos hl)

theorem exec_fullResetTimeout_of_late (hl : fullLate s.toCtl = true) :
    exec .fullResetTimeout s = .next (setCtl s (askPowerCycle s.toCtl)) :=
  next_setCtl (if_pos hl)

theorem exec_fullResetTimeout_of_early (hl : fullLate s.toCtl = false) : exec .fullResetTimeout s = .next s :=
  next_setCtl (b := s.toCtl) (if_neg (by simp [hl]))

end Escalation

/-! ### The statement -/

/-- Settles O35: the deadline by what is fenced, a released hamlet by the order that released it; then each late reset by its step. -/
theorem deadlinesAndEscalation : Obligations.Deadlines_and_escalation := by
  unfold Obligations.Deadlines_and_escalation
  constructor
  · rintro s i h d rfl
    refine ⟨fun p => exec_fenceDeadline_slice_of_fenced, fun r hr hs hf hrel => ?reset, fun r hr hs hf hrel hj => ?released,
      fun r hr hrel hj => ?unordered, fun w => exec_fenceDeadline_package_of_fenced,
      fun x => exec_fenceDeadline_tenant_of_removing, fun r hr hf => ?early⟩
    case reset => simp [exec_fenceDeadline_hamlet_of_reset hr, hs, hf, hrel]
    case released => simp [exec_fenceDeadline_hamlet_of_reset hr, hs, hf, hrel, hj]
    case unordered => simp [exec_fenceDeadline_hamlet_of_reset hr, hrel, hj, setCtl_toCtl]
    case early => simp [exec_fenceDeadline_hamlet_of_reset hr, hf, setCtl_toCtl]
  · rintro s h c x rfl
    exact ⟨fun r => exec_resetTargetExpiry_croft_of_late, fun r => exec_resetTargetExpiry_retirement_of_late,
      fun r => exec_resetTargetExpiry_hamlet_of_late, fun w => exec_resetTargetExpiry_warm_of_late,
      exec_resetTargetExpiry_full_of_late, exec_fullResetTimeout_of_late, exec_fullResetTimeout_of_early⟩

end Sys2Proof.Machine
end

section
/-! SUPPORT. The output pins (R377, R468, R473, R527, R528): what each state of the package drives while PKG_RESET_N is high, the one
state that drives READY high, and the statement about them. -/

namespace Sys2Proof.Machine
open Sys2Proof

/-! ### The rows of R528 -/

section PinRows
variable {d : Ctl}

/-- READY is high in one row of the table alone, which drives FAULT_N high. -/
theorem pins_of_ready_high (h : (pins d).ready = .high) : pins d = ⟨.high, .high, .low, alertPin d, .released, ppsPin d⟩ := by
  generalize hrow : pins d = row at h
  unfold pins trippedPins undriven at hrow
  (repeat' split at hrow) <;> subst hrow <;> simp at h ⊢

/-- THERMTRIP overrides the row of every state with power (R527, R539). -/
theorem pins_of_thermtrip (hl : d.pkg.life ≠ .off) (hr : d.pkg.resetN = true) (ht : d.pkg.thermtrip = true) :
    pins d = trippedPins d := by
  simp [pins, hl, hr, ht]

variable (hr : d.pkg.resetN = true) (ht : d.pkg.thermtrip = false)
include hr ht

theorem pins_of_asleep (ha : awake d = false) : pins d = ⟨.z, .z, .z, .z, .z, .z⟩ := by
  cases hl : d.pkg.life <;> simp_all [awake, pins, undriven]

theorem pins_of_selftest (hl : d.pkg.life = .selftest) :
    pins d = if d.pkg.phase = 0 then ⟨.z, .z, .z, .z, .z, .z⟩ else ⟨.high, .low, .low, alertPin d, .released, .low⟩ := by
  simp [pins, undriven, hl, hr, ht]

theorem pins_of_lantern (hl : d.pkg.life = .lantern) : pins d = ⟨.low, .low, .high, alertPin d, .released, .low⟩ := by
  simp [pins, hl, hr, ht]

theorem pins_of_failed (hl : d.pkg.life = .failed) :
    pins d = if d.pkg.phase = 0 then ⟨.z, .z, .z, .z, .z, .z⟩ else ⟨.low, .low, .low, alertPin d, .released, .low⟩ := by
  simp [pins, undriven, hl, hr, ht]

theorem pins_of_operating (hl : d.pkg.life = .operating) :
    pins d = ⟨if d.pkg.outOfService then .low else .high, if isReady d then .high else .low, .low, alertPin d, .released,
      ppsPin d⟩ := by
  cases ho : d.pkg.outOfService <;> cases hw : d.pkg.warm <;> simp [pins, isReady, hl, hr, ht, ho, hw]

end PinRows

/-! ### READY, LANTERN and FAULT_N (R377, R473, R528) -/

section Levels
variable {d : Ctl} (hr : d.pkg.resetN = true) (ht : d.pkg.thermtrip = false)
include hr ht

theorem ready_and_lantern_high_iff :
    ((pins d).ready = .high ↔ isReady d = true) ∧ ((pins d).lantern = .high ↔ d.pkg.life = .lantern) := by
  cases hl : d.pkg.life
  case off | aux | inReset => simp [pins_of_asleep hr ht (by simp [awake, hl]), isReady, hl]
  case selftest =>
    rw [pins_of_selftest hr ht hl]
    split <;> simp [isReady, hl]
  case lantern => simp [pins_of_lantern hr ht hl, isReady, hl]
  case failed =>
    rw [pins_of_failed hr ht hl]
    split <;> simp [isReady, hl]
  case operating => simp [pins_of_operating hr ht hl]

theorem faultN_low_iff_of_operating (hl : d.pkg.life = .operating) :
    (pins d).faultN = .low ↔ d.pkg.outOfService = true := by
  simp [pins_of_operating hr ht hl]

end Levels

/-! ### The statement -/

/-- Settles O51: READY is high in one row of R528's table, which drives FAULT_N high; the other clauses by the package's state. That
the outputs stay low under THERMTRIP is log 31's choice. -/
theorem outputPins : Obligations.Output_pins := by
  unfold Obligations.Output_pins
  rintro s k rfl
  refine ⟨?ready, fun hr ht => ?levels, fun hl hr ht => ⟨fun hp => ?tripped, fun hp => ?undriven⟩⟩
  case ready =>
    rintro ⟨hhigh, hlow⟩
    rw [pins_of_ready_high hhigh] at hlow
    cases hlow
  case levels =>
    obtain ⟨hready, hlantern⟩ := ready_and_lantern_high_iff hr ht
    exact ⟨hready, hlantern, faultN_low_iff_of_operating hr ht, pins_of_asleep hr ht⟩
  case tripped => rw [pins_of_thermtrip hl hr ht, trippedPins, if_neg hp]
  case undriven => rw [pins_of_thermtrip hl hr ht, trippedPins, if_pos hp, undriven, if_pos ht]

end Sys2Proof.Machine
end

section
/-! SUPPORT. The ends of resets (R365, R389, R401, R403, R411): which record GLEANINGS_COLLECTED stores, what a hamlet reset and a
package warm reset make of the state once what they wait for has come, and the statement about them. -/

namespace Sys2Proof.Machine
open Sys2Proof

/-! ### Gleanings (R389, R411) -/

section Collected
variable {s : State} {h : Fin 32} (g : GleaningsSample)

theorem exec_gleaningsCollected_of_reset {r : HamletReset} (hw : s.toCtl.pkg.warm = none)
    (hr : (getHam s.toCtl h.val).reset = some r) (hs : r.squashed = true) (hrel : r.release = false)
    (hc : (getHam s.toCtl h.val).sampled ≠ []) :
    exec (.gleaningsCollected h g) s = .next (setCtl s (modHam
      (storeGleanings s.toCtl h.val 3 r.reason (getHam s.toCtl h.val).sampled g) h.val
      fun x => { x with sampled := [], run := .resetting })) :=
  next_setCtl (by simp [hw, hr, hs, hrel, hc])

theorem exec_gleaningsCollected_of_retirement {r : Retirement} (hw : s.toCtl.pkg.warm = none)
    (hx : (getHam s.toCtl h.val).reset = none) (hr : (getHam s.toCtl h.val).retirement = some r) (hc : r.collected = false) :
    exec (.gleaningsCollected h g) s = .next (setCtl s (modHam
      (storeGleanings s.toCtl h.val 2 r.reason (r.crofts.filterMap (logCroft (getHam s.toCtl h.val))) g) h.val fun x => { x with
        retirement := x.retirement.map fun r => { r with collected := true } })) :=
  next_setCtl (by simp [hw, hx, hr, hc])

theorem exec_gleaningsCollected_of_warm {w : WarmReset} (hw : s.toCtl.pkg.warm = some w) (hs : w.squashed = true)
    (hc : (getHam s.toCtl h.val).sampled ≠ []) :
    exec (.gleaningsCollected h g) s = .next (setCtl s (modHam
      (storeGleanings s.toCtl h.val 4 w.cause (getHam s.toCtl h.val).sampled g) h.val
      fun x => { x with sampled := [], run := .resetting })) :=
  next_setCtl (by simp [hw, hs, hc])

end Collected

/-! ### The hamlet reset (R401) -/

section HamletResetEnd
variable {s : State} {h : Fin 32} {r : HamletReset} (hr : (getHam s.toCtl h.val).reset = some r)
include hr

theorem exec_hamletResetDone_of_due (hrel : r.release = false) (hs : r.squashed = true) (ha : r.answers = 0)
    (hg : gleanDue s.toCtl h.val = false) (hl : r.start + us 100 ≤ now s.toCtl) (ht : s.toCtl.reeve.takeover = false) :
    exec (.hamletResetDone h) s =
      .next (setDev s (resetStep s.toDev (.hamlet h.val) r.jseq fun d j => endHamletReset d h.val r j)) :=
  next_setDev (by simp [hr, hrel, hs, ha, hg, Nat.not_lt.2 hl, ht])

theorem exec_hamletResetDone_of_early (hl : now s.toCtl < r.start + us 100) : exec (.hamletResetDone h) s = .next s :=
  next_setDev (b := s.toDev) (by simp [hr, hl])

end HamletResetEnd

/-! ### The package warm reset (R365, R403) -/

section WarmResetEnd
variable {s : State} {w : WarmReset} (hw : s.toCtl.pkg.warm = some w)
include hw

/-- Under PACKAGE the Fields stay fenced for the hold, which the end of the work does not end (R365). -/
theorem exec_packageWarmResetDone_of_ready (hready : warmReady s.toCtl w = true) :
    exec .packageWarmResetDone s = .next (setDev s (
      if w.policy then withCtl s.toDev fun d => modPkg d fun k => { k with warm := some { w with workDone := true } }
      else resetStep s.toDev .package w.jseq fun d j => finishWarm d w j)) :=
  next_setDev (by simp [hw, hready])

theorem exec_warmResetHoldExpiry_of_held (hp : w.policy = true) (hd : w.workDone = true)
    (hl : w.start + ms 180 ≤ now s.toCtl) :
    exec .warmResetHoldExpiry s = .next (setDev s (resetStep s.toDev .package w.jseq fun d j => finishWarm d w j)) :=
  next_setDev (by simp [hw, hp, hd, hl])

theorem exec_warmResetHoldExpiry_of_early (hl : now s.toCtl < w.start + ms 180) : exec .warmResetHoldExpiry s = .next s :=
  next_setDev (b := s.toDev) (by simp [hw, Nat.not_le.2 hl])

end WarmResetEnd

/-! ### The statement -/

/-- Settles O34: the record by what is under recovery, then each reset's end by what it waits for and whether its time has come. That
the end is a later step of the reset's order, or an internal step where it has none, is log 49's choice. -/
theorem resetsEnd : Obligations.Resets_end := by
  unfold Obligations.Resets_end
  rintro s h g x rfl
  refine ⟨fun r => exec_gleaningsCollected_of_reset g, fun r => exec_gleaningsCollected_of_retirement g,
    fun w => exec_gleaningsCollected_of_warm g, fun r => exec_hamletResetDone_of_due, fun r => exec_hamletResetDone_of_early,
    fun w hw hready hp => ?work, fun w hw hready hp => ?held, fun w => exec_warmResetHoldExpiry_of_held,
    fun w => exec_warmResetHoldExpiry_of_early⟩
  case work => simp [exec_packageWarmResetDone_of_ready hw hready, hp]
  case held =>
    rw [exec_packageWarmResetDone_of_ready hw hready, if_pos hp]
    rfl

end Sys2Proof.Machine
end

section
/-! SUPPORT. The detectors of hamlets (R367, R376): an uncorrected granary word's fault record names the slice of the discarded command,
so the statement about hamlet and croft detectors fails in a state in which a command is staged in the word. -/

namespace Sys2Proof.Machine
open Sys2Proof

/-- A command of slice 0 that runs in hamlet 0. -/
def stagingCmd : Cmd := { slice := 0, lane := 1, seq := 0, gen := 0, phase := .running, parts := [(0, {})] }

/-- A package in operation whose one command runs in hamlet 0. -/
def stagingState : State := { toCtl := { pkg := { life := .operating, phase := 8 }, cmds := [(0, stagingCmd)] } }

/-- The slice that the newest fault record names once the next state is reached. -/
def newestFaultSlice (o : Host.Outcome State Fault Refusal) : Option Nat :=
  match o with
  | .next s => s.toCtl.reeve.faultLog.getLast?.map FaultRecord.slice
  | _ => none

/-- The command is discarded, and its slice stands in the record (R376). -/
theorem newestFaultSlice_granaryEcc_staged :
    newestFaultSlice (exec (.granaryEcc 0 0 .uncorrected [0]) stagingState) = some 0 := by
  decide +kernel

/-- Refutes O31: the clause of an uncorrected granary word gives its record the slice 0xFFFF whatever it discards, where the record of
a word in which a command of slice 0 is staged names slice 0, the slice of the discarded command (R376; the first of several is log
55's choice). The clause also discards listed commands that are not staged in the hamlet, which R367 does not. -/
theorem not_hamletAndCroftDetectors : ¬ Obligations.Hamlet_and_croft_detectors := by
  unfold Obligations.Hamlet_and_croft_detectors
  intro h
  obtain ⟨-, hhamlet⟩ := h
  obtain ⟨-, hword, -⟩ := hhamlet stagingState 0 0 [0] 0 .containPolicy _ rfl rfl
  have hslice := newestFaultSlice_granaryEcc_staged
  rw [hword] at hslice
  exact absurd hslice (by decide +kernel)

end Sys2Proof.Machine
end

section
/-! SUPPORT. Orders of recovery (R363, R386, R387, R392, R396, R401, R403, R407, R410, R413): what calls for no full reset, what the body
of each order makes of the state in which it runs, and the statement about them. -/

namespace Sys2Proof.Machine
open Sys2Proof

/-! ### What calls for no full reset (R404) -/

section FullReset
variable (d : Ctl)

@[simp] theorem raiseIbi_fullJseq (code : Byte) : (raiseIbi d code).pkg.fullJseq = d.pkg.fullJseq := by
  simp only [raiseIbi]
  split <;> rfl

@[simp] theorem sendEnvelope_fullJseq (ch : EnvChannel) (bs : Bytes) : (sendEnvelope d ch bs).pkg.fullJseq = d.pkg.fullJseq := by
  cases ch <;> simp [sendEnvelope]

@[simp] theorem answer_fullJseq (src : JSource) (op code j : Nat) (rsp : Bytes) :
    (answer d src op code j rsp).pkg.fullJseq = d.pkg.fullJseq := by
  cases src <;> simp [answer, setChan]

@[simp] theorem asyncEntry_pkg (p : Port) (j op code : Nat) : (asyncEntry d p j op code).pkg = d.pkg := by
  simp only [asyncEntry]
  split <;> simp

@[simp] theorem asyncResult_fullJseq (src : JSource) (op code j : Nat) (rsp : Bytes) :
    (asyncResult d src op code j rsp).pkg.fullJseq = d.pkg.fullJseq := by
  cases src <;> simp [asyncResult]

@[simp] theorem completeOrder_fullJseq (j code : Nat) (rsp : Bytes) :
    (completeOrder d j code rsp).pkg.fullJseq = d.pkg.fullJseq := by
  simp only [completeOrder]
  (repeat' split) <;> simp

@[simp] theorem abortMig_fullJseq (i : Nat) : (abortMig d i).pkg.fullJseq = d.pkg.fullJseq := by
  simp only [abortMig]
  (repeat' split) <;> simp [squashSheaves, squashWhere]

@[simp] theorem sendBlock_pkg (r : Nat) (c : Option (Nat × RoadMsg)) : (sendBlock d r c).pkg = d.pkg := by
  cases c <;> simp [sendBlock, emitBlock]

/-- A loop whose step leaves a part of the state alone leaves it alone. -/
theorem forEach_keeps {α : Type} (v : Ctl → α) {f : Ctl → Nat → Ctl} (hf : ∀ d k, v (f d k) = v d) (l : List Nat) (d : Ctl) :
    v (forEach l d f) = v d := by
  induction l generalizing d with
  | nil => rfl
  | cons k l ih => exact (ih (f d k)).trans (hf d k)

@[simp] theorem fenceRoads_pkg : (fenceRoads d).pkg = d.pkg :=
  forEach_keeps Ctl.pkg (fun d r => by simp) _ d

@[simp] theorem pushHistory_fullJseq (kind cause : Nat) (counted : Bool) :
    (pushHistory d kind cause counted).pkg.fullJseq = d.pkg.fullJseq := rfl

/-- A package warm reset calls for no full reset. -/
theorem startWarm_fullJseq (w : WarmReset) : (startWarm d w).pkg.fullJseq = d.pkg.fullJseq := by
  simp only [startWarm]
  split
  · rfl
  · split
    · rfl
    · exact (forEach_keeps (·.pkg.fullJseq) abortMig_fullJseq _ _).trans (by simp)

theorem underway_fullJseq (src : OrderSource) (op : Nat) (a : Bytes) (image : DmaResult) (rsp : Bytes) (d' : Ctl) :
    (underway d src op a image rsp d').pkg.fullJseq = d'.pkg.fullJseq := by
  simp [underway]

theorem runFullReset_of_uncalled {e : Dev} (h : e.pkg.fullJseq = 0) : runFullReset e = e := if_pos h

end FullReset

/-! ### A ready order that calls for no full reset, as a command -/

section ReadyOrder
variable {s : State} {src : OrderSource} {op : Nat} {a : Bytes} {b d' : Ctl} {bad : Ctl → Bytes → Bool} {body : Body}
  {rsp : Bytes}

theorem orderReset_of_uncalled (hj : d'.pkg.fullJseq = 0) : orderReset s src op a d' = orderPending s src op a [] d' := by
  rw [orderReset, runFullReset_of_uncalled ((underway_fullJseq ..).trans hj)]
  rfl

theorem onDev_order_pending (h : Ready s src op a b) (hb : bad (takenFrom s.toCtl op src) a = false)
    (hbody : body b { jseq := s.reeve.nextJseq, master := srcMaster src, args := a } = (.pending [], d'))
    (hj : d'.pkg.fullJseq = 0) :
    onDev s (fun d => runFullReset (withCtl d fun d => order d src op (.ok []) bad body)) =
      .next (orderPending s src op a [] d') :=
  (next_fullReset (ready_pending h hb hbody)).trans (congrArg _ (orderReset_of_uncalled hj))

end ReadyOrder

/-! ### The bodies -/

section RecoveryBodies
variable (b : Ctl) (o : Order)

theorem mbHamletResetBody_of_held (hu : (getHam b (fld o.args 0 1)).assign ≠ .unassigned)
    (hrel : (getHam b (fld o.args 0 1)).assign ≠ .releasing) (hout : (getHam b (fld o.args 0 1)).outOfService = false) :
    mbHamletResetBody b o = (.pending [], startHamletReset b (fld o.args 0 1) o.jseq 0x80 false) := by
  simp [mbHamletResetBody, hu, hrel, hout]

theorem mbPkgResetBody_warm (hk : fld o.args 0 1 = 0) (hl : b.pkg.life = .operating) :
    mbPkgResetBody b o = (.pending [],
      startWarm b { jseq := o.jseq, start := now b, policy := false, counted := false, cause := 0x80 }) := by
  simp [mbPkgResetBody, hk, hl]

theorem mbPkgResetBody_full (hk : fld o.args 0 1 = 1) :
    mbPkgResetBody b o = (.last, modPkg b fun k => { k with fullJseq := o.jseq }) := by
  simp [mbPkgResetBody, hk]

theorem mbPkgResetBody_powerCycle (hk : fld o.args 0 1 = 2) :
    mbPkgResetBody b o =
      (.last, raiseIbi (modPkg (pushHistory b 2 0x80 false) fun k => { k with powerCycle := true }) 0x10) := by
  simp [mbPkgResetBody, hk]

theorem mbReturnToServiceBody_hamlet (hk : fld o.args 0 1 = 0) (hout : (getHam b (fld o.args 1 1)).outOfService = true)
    (hfit : unfit (getHam b (fld o.args 1 1)) = false) :
    mbReturnToServiceBody b o = (.pending [], startHamletReset
      (modHam b (fld o.args 1 1) fun y => { y with outOfService := false, resetTimes := [] }) (fld o.args 1 1) o.jseq 0x80
      false) := by
  simp [mbReturnToServiceBody, hk, hout, hfit]

theorem mbReturnToServiceBody_package (hk : fld o.args 0 1 = 1) (hout : b.pkg.outOfService = true) :
    mbReturnToServiceBody b o = (.pending [], startWarm b {
      jseq := o.jseq, start := now b, policy := false, counted := false, cause := 0x80, returning := true }) := by
  simp [mbReturnToServiceBody, hk, hout]

theorem mbJobSetBody_of_slot {k : Nat} (hc : jobClash b o.args = false) (hk : jobSlot b (fld o.args 0 2) = some k) :
    mbJobSetBody b o = (.done 0 [], { b with jobs := Tbl.set b.jobs k (argJob b o.args) }) := by
  simp [mbJobSetBody, hc, hk, ok]

theorem mbJobDeadBody_of_job {k : Nat × Job} (hk : jobById b (fld o.args 0 2) = some k) :
    mbJobDeadBody b o = (.done 0 [], declareDead b (fld o.args 0 2) (fld o.args 2 1)) := by
  simp [mbJobDeadBody, hk, ok]

theorem mbJobClearBody_of_idle {k : Nat × Job} (hk : jobById b (fld o.args 0 2) = some k)
    (hidle : jobBusy b (fld o.args 0 2) = false) :
    mbJobClearBody b o = (.done 0 [], { b with jobs := Tbl.erase b.jobs k.1 }) := by
  simp [mbJobClearBody, hk, hidle, ok]

end RecoveryBodies

/-! ### The statement -/

/-- Settles O6, order by order: the arguments are in form, and the body's equation says what it makes of `b`. That MB_HAMLET_RESET joins
another reset and is refused of a RELEASING hamlet, and the action and detector of a reset's history record, are log 31's choices. -/
theorem orderRecoveryActs : Obligations.Order_recovery_acts := by
  unfold Obligations.Order_recovery_acts
  intro s src a b
  refine ⟨?policy, ?settings, ?hamlet, ?warm, ?full, ?powerCycle, ?returnHamlet, ?returnPackage, ?jobSet, ?jobDead, ?jobClear⟩
  case policy =>
    intro h hlen hv
    exact onCtl_order_done h (by simp [hlen, hv]) rfl
  case settings =>
    intro h hform
    exact onCtl_order_done h hform rfl
  case hamlet =>
    intro h hlen hh hu hrel hout
    exact next_ctl (congrArg joinResets
      (ready_pending h (by simp [hlen, hh]) (mbHamletResetBody_of_held b _ hu hrel hout)))
  case warm =>
    intro h hlen hk hl hj
    exact onDev_order_pending h (by simp [hlen, hk]) (mbPkgResetBody_warm b _ hk hl) ((startWarm_fullJseq ..).trans hj)
  case full =>
    intro h hlen hk
    exact onDev_order_last h (by simp [hlen, hk]) (mbPkgResetBody_full b _ hk)
  case powerCycle =>
    intro h hlen hk hj
    rw [← orderReset_of_uncalled (by simpa using hj)]
    exact onDev_order_last h (by simp [hlen, hk]) (mbPkgResetBody_powerCycle b _ hk)
  case returnHamlet =>
    intro h hlen hk hh hout hfit
    exact onCtl_order_pending h (by simp [hlen, hk, hh]) (mbReturnToServiceBody_hamlet b _ hk hout hfit)
  case returnPackage =>
    intro h hlen hk hz hout
    exact onCtl_order_pending h (by simp [hlen, hk, hz]) (mbReturnToServiceBody_package b _ hk hout)
  case jobSet =>
    intro k h hlen hid hab hclash hk
    exact onCtl_order_done h (by simp [hlen, hid, hab]) (mbJobSetBody_of_slot b _ hclash hk)
  case jobDead =>
    intro k h hlen hid hk
    exact onCtl_order_done h (by simp [hlen, hid]) (mbJobDeadBody_of_job b _ hk)
  case jobClear =>
    intro k h hlen hid hk hidle
    exact onCtl_order_done h (by simp [hlen, hid]) (mbJobClearBody_of_idle b _ hk hidle)

end Sys2Proof.Machine
end

section
/-! SUPPORT. What each step holds (spec/95): what a command answers, the canonical form of the byte memory along every step, the step
on the front command and on an empty queue, and what a full reset leaves. -/

namespace Sys2Proof.Machine
open Sys2Proof

/-! ### What every command answers -/

/-- The command changes the package and nothing of the queue. -/
theorem exec_setDev (c : Instr) (s : State) : ∃ d : Dev, exec c s = .next (setDev s d) := by
  cases c with
  | _ => exact ⟨_, rfl⟩

/-- A command that `touchesMemory` does not name changes control state alone. -/
theorem exec_setCtl {c : Instr} (h : touchesMemory c = false) (s : State) : ∃ d : Ctl, exec c s = .next (setCtl s d) := by
  cases c with
  | commitToken | sheafDone | syncAck | commit | orderStart | mbPkgReset | mbReboot | parkDone | resumeDone | patrolScrub
  | channelRebuildDone | zeroFillDone | spadEcc | croftRemapDone | resetTargetExpiry | warmResetHoldExpiry | vddAuxChange
  | pwrOkDeassert | pkgResetNAssert | refclkRestored | selftestPhaseDone | hbmUncorrectable | hamletResetDone
  | packageWarmResetDone => cases h
  | _ => exact ⟨_, rfl⟩

/-- Settles O50. That every command answers a next state in every state is the model's choice (log 10). -/
theorem everyCommandCompletes : Obligations.Every_command_completes := by
  unfold Obligations.Every_command_completes
  exact fun c s => ⟨exec_setDev c s, fun h => exec_setCtl h s⟩

/-! ### The canonical form of the byte memory -/

/-- The package's byte memory is in its canonical form. -/
structure DevMemOk (d : Dev) : Prop where
  wf : Mem.wf d.mem = true

theorem memOk_clearedDev (d : Dev) (l : PkgLife) : DevMemOk (clearedDev d l) := ⟨wf_clearedDev d l⟩

theorem memOk_fullReset (d : Dev) (cause : Nat) (counted : Bool) : DevMemOk (fullReset d cause counted) := memOk_clearedDev ..

theorem memOk_leaveFailed (d : Dev) : DevMemOk (leaveFailed d) := by
  unfold leaveFailed
  split
  · exact ⟨(memOk_clearedDev d .inReset).wf⟩
  · exact memOk_clearedDev d _

section MemoryOfDev
variable {d : Dev} (hd : DevMemOk d)
include hd

theorem memOk_withCtl (f : Ctl → Ctl) : DevMemOk (withCtl d f) := ⟨hd.wf⟩

theorem memOk_storeBytes (h off : Nat) (bs : Bytes) : DevMemOk (storeBytes d h off bs) := ⟨wf_storeBytes hd.wf h off bs⟩

theorem memOk_foldl {α : Type} {f : Dev → α → Dev} (hf : ∀ d x, DevMemOk d → DevMemOk (f d x)) (l : List α) :
    DevMemOk (l.foldl f d) :=
  foldl_keeps DevMemOk f hf l d hd

theorem memOk_applyWrites (ws : List (Nat × Bytes)) : DevMemOk (applyWrites d ws) := ⟨wf_applyWrites hd.wf ws⟩

theorem memOk_applySet (h : Nat) (x : StagedSet) : DevMemOk (applySet d h x) := by
  unfold applySet
  dsimp only
  exact memOk_withCtl (memOk_withCtl (memOk_applyWrites hd x.writes) _) _

theorem memOk_applyStaged (id : Nat) (c : Cmd) (sets : List (Nat × StagedSet)) : DevMemOk (applyStaged d id c sets) := by
  unfold applyStaged
  dsimp only
  exact memOk_foldl (memOk_withCtl (memOk_applyWrites hd c.writes) _) (fun _ x h => memOk_applySet h x.1 x.2) sets

theorem memOk_commit (id : Nat) : DevMemOk (commit d id) := by
  unfold commit
  split
  · exact hd
  · split
    · exact hd
    · exact memOk_withCtl (memOk_applyStaged (memOk_withCtl hd _) id _ _) _

theorem memOk_saveLive (h base : Nat) (own : Tbl Byte) (l : List Range) : DevMemOk (saveLive d h base own l) := by
  unfold saveLive
  dsimp only
  exact memOk_foldl hd (fun _ _ hd => memOk_withCtl (memOk_storeBytes hd _ _ _) _) _

theorem memOk_restoreLive (id h base : Nat) (l : List Range) : DevMemOk (restoreLive d id h base l) := by
  unfold restoreLive
  dsimp only
  exact memOk_foldl hd (fun _ _ hd => memOk_withCtl hd _) _

theorem memOk_moveLive (id : Nat) (k : Cmd) (h : Nat) (p : Part) (out : Bool) : DevMemOk (moveLive d id k h p out) := by
  unfold moveLive
  split
  · split
    · cases out with
      | false => exact memOk_restoreLive hd ..
      | true => exact memOk_saveLive hd ..
    · exact hd
  · exact hd

theorem memOk_writeRecord (m : Model) (x : Placement × Bytes × Bytes) : DevMemOk (writeRecord d m x) := by
  unfold writeRecord
  dsimp only
  exact memOk_foldl (memOk_storeBytes (memOk_storeBytes hd _ _ _) _ _ _) (fun _ _ hd => memOk_storeBytes hd _ _ _) _

theorem memOk_finishLoad (k : Nat) (l : Load) : DevMemOk (finishLoad d k l) := by
  unfold finishLoad
  dsimp only
  split
  · exact memOk_withCtl (memOk_withCtl hd _) _
  · exact memOk_withCtl (memOk_foldl (memOk_withCtl (memOk_withCtl hd _) _) (fun _ x hd => memOk_writeRecord hd _ x) _) _

theorem memOk_loadSheaf (id : Nat) : DevMemOk (loadSheaf d id) := by
  unfold loadSheaf
  split
  · exact hd
  · split
    · exact memOk_withCtl hd _
    · exact memOk_finishLoad hd ..

theorem memOk_finishRestore (i : Nat) (p : SliceProc) : DevMemOk (finishRestore d i p) := by
  unfold finishRestore
  dsimp only
  split
  · split
    · exact memOk_withCtl hd _
    · exact memOk_withCtl (memOk_foldl hd (fun _ w hd => memOk_storeBytes hd w.1 w.2.1 w.2.2) _) _
  · exact memOk_withCtl hd _

theorem memOk_sheafEffect (x : Sheaf) : DevMemOk (sheafEffect d x) := by
  unfold sheafEffect
  split
  · exact memOk_loadSheaf hd _
  · exact hd
  · split
    · split
      · exact memOk_withCtl hd _
      · split
        · exact memOk_finishRestore hd ..
        · exact hd
    · exact hd

/-- A message keeps the canonical form where its handler does. -/
theorem memOk_receive (r op : Nat) (m : RoadMsg) {f : Dev → Bytes → Dev} (hf : ∀ e p, DevMemOk e → DevMemOk (f e p)) :
    DevMemOk (receive d r op m f) := by
  unfold receive
  split
  · exact hd
  · split
    · exact memOk_withCtl hd _
    · split
      · exact memOk_withCtl hd _
      · split
        · exact memOk_withCtl hd _
        · exact memOk_withCtl hd _
        · exact hf _ _ (memOk_withCtl hd _)

theorem memOk_syncAnswer (h : Nat) (m : RoadMsg) (y : StagedSet) : DevMemOk (syncAnswer d h m y) := by
  unfold syncAnswer
  dsimp only
  split
  · exact memOk_withCtl (memOk_applySet hd h y) _
  · exact memOk_withCtl (memOk_withCtl hd _) _

theorem memOk_runFullReset : DevMemOk (runFullReset d) := by
  unfold runFullReset
  split
  · exact hd
  · exact memOk_fullReset ..

theorem memOk_internalDev (obj : Obj) {f : Dev → Nat → Dev} (hf : ∀ e j, DevMemOk e → DevMemOk (f e j)) :
    DevMemOk (internalDev d obj f) := by
  unfold internalDev
  dsimp only
  exact memOk_withCtl (hf _ _ (memOk_withCtl hd _)) _

theorem memOk_resetStep (obj : Obj) (j : Nat) {f : Dev → Nat → Dev} (hf : ∀ e j, DevMemOk e → DevMemOk (f e j)) :
    DevMemOk (resetStep d obj j f) := by
  unfold resetStep
  split
  · exact memOk_internalDev hd obj hf
  · exact memOk_withCtl (hf _ _ hd) _

theorem memOk_zeroWhere (p q : Nat → Bool) : DevMemOk { d with mem := Mem.zeroWhere d.mem p, poison := d.poison.filter q } :=
  ⟨Mem.wf_zeroWhere hd.wf p⟩

theorem memOk_removeCrofts (h : Nat) (cs : List Nat) (detector j : Nat) : DevMemOk (removeCrofts d h cs detector j) := by
  unfold removeCrofts
  dsimp only
  have hmapped := memOk_withCtl (memOk_foldl hd (f := fun d b => repairBlock d h b) (fun _ b hd => ⟨wf_repairBlock hd.wf h b⟩)
    (d.poison.filter fun b => decide (memKey h aliasBase ≤ b) && decide (b < memKey h aliasBase + 48 * 2 ^ 20) &&
      (cs.filterMap (logCroft (getHam d.toCtl h))).contains ((b - memKey h aliasBase) / 4194304)))
    fun d => modHam (openAll d h) h fun x => { x with
      badCrofts := x.badCrofts ++ cs.filter fun c => !x.badCrofts.contains c }
  split
  · exact hmapped
  · split
    · exact memOk_withCtl (memOk_zeroWhere (memOk_withCtl hmapped _) _ _) _
    · exact memOk_zeroWhere (memOk_withCtl hmapped _) _ _

theorem memOk_endChannel (h : Nat) : DevMemOk (endChannel d h) :=
  ⟨wf_keepMirrored (memOk_withCtl (memOk_withCtl hd _) _).wf h⟩

theorem memOk_retireChannels (h : Nat) : DevMemOk (retireChannels d h) := by
  unfold retireChannels
  split
  · exact memOk_endChannel (memOk_withCtl hd _) h
  · exact hd

theorem memOk_restoreShadows (h : Nat) : DevMemOk (restoreShadows d h) := ⟨wf_restoreShadows hd.wf h⟩

theorem memOk_endRetirement (h : Nat) (r : Retirement) (j : Nat) : DevMemOk (endRetirement h r d j) := by
  unfold endRetirement
  dsimp only
  exact memOk_withCtl (memOk_removeCrofts (memOk_withCtl hd _) h _ _ j) _

theorem memOk_endHamletReset (h : Nat) (r : HamletReset) (j : Nat) : DevMemOk (endHamletReset d h r j) := by
  unfold endHamletReset
  dsimp only
  exact memOk_withCtl (memOk_restoreShadows (memOk_removeCrofts (memOk_withCtl hd _) h _ _ j) h) _

theorem memOk_finishWarm (w : WarmReset) (j : Nat) : DevMemOk (finishWarm d w j) := by
  unfold finishWarm
  dsimp only
  exact memOk_withCtl (memOk_foldl (memOk_withCtl (memOk_foldl
        (memOk_foldl (memOk_withCtl hd _) (fun _ e hd => memOk_removeCrofts hd e.1 _ _ j) w.retire)
        (fun _ h hd => memOk_retireChannels hd h) (List.range 32)) _)
      (fun _ h hd => memOk_restoreShadows hd h) (List.range 32)) _

theorem memOk_poison (p : List Nat) : DevMemOk { d with poison := p } := ⟨hd.wf⟩

theorem memOk_uncorrectable (h block : Nat) (first : Ctl → Ctl) : DevMemOk (uncorrectable d h block first) := by
  unfold uncorrectable
  dsimp only
  exact memOk_withCtl (memOk_poison hd _) _

theorem memOk_spadLost (h c k at_ : Nat) : DevMemOk (spadLost d h c k at_) := by
  unfold spadLost
  dsimp only
  exact memOk_withCtl (memOk_poison hd _) _

theorem memOk_eccRead (h block : Nat) (cls : EccClass) (first : Ctl → Ctl) : DevMemOk (eccRead d h block cls first).1 := by
  unfold eccRead
  split
  · exact memOk_uncorrectable hd ..
  · cases cls with
    | clean => exact hd
    | linkRetried | corrected =>
      dsimp only
      exact memOk_withCtl hd _
    | uncorrectable copyBad =>
      dsimp only
      split
      · dsimp only
        exact memOk_withCtl hd _
      · split
        · dsimp only
          exact memOk_withCtl (memOk_storeBytes hd _ _ _) _
        · exact memOk_uncorrectable hd ..

theorem memOk_zeroHamlet (h : Nat) : DevMemOk (zeroHamlet d h) := ⟨wf_zeroHamlet hd.wf h⟩

theorem memOk_endPhase (n : Nat) (r : PhaseResult) : DevMemOk (endPhase d n r) := by
  have hrecorded := memOk_withCtl (memOk_withCtl hd fun d => testHamlets (r.failed.foldl (unitFailed n) (phaseWork d n)) n)
  unfold endPhase
  dsimp only
  split
  · exact memOk_withCtl (hrecorded _) _
  · split
    · exact memOk_fullReset ..
    · split
      · exact memOk_withCtl (hrecorded _) _
      · split
        · exact memOk_withCtl (hrecorded _) _
        · split
          · exact memOk_withCtl (hrecorded _) _
          · exact hrecorded _

end MemoryOfDev

/-! ### The commands that touch memory -/

/-- Whatever next state the outcome has, its byte memory is in its canonical form. -/
def KeepsMemOk (o : Host.Outcome State Fault Refusal) : Prop := ∀ s', o = .next s' → MemOk s'

theorem keepsMemOk_onDev {s : State} {f : Dev → Dev} (hf : DevMemOk (f s.toDev)) : KeepsMemOk (onDev s f) := by
  rintro _ ⟨⟩
  exact hf.wf

section Commands
variable {s : State} (hs : DevMemOk s.toDev)
include hs

theorem keepsMemOk_commitToken (c : Nat) : KeepsMemOk (execCommitToken c s) :=
  keepsMemOk_onDev (memOk_withCtl (memOk_commit hs c) _)

theorem keepsMemOk_sheafDone (k : Nat) : KeepsMemOk (execSheafDone k s) := by
  refine keepsMemOk_onDev ?_
  split
  next => exact hs
  next x _ =>
    have hout := memOk_withCtl (memOk_withCtl hs fun d => leaveUnit d x) fun d => { d with sheaves := Tbl.erase d.sheaves k }
    split
    · exact hs
    · dsimp only
      split
      · exact memOk_withCtl hout _
      · split
        · exact memOk_withCtl (memOk_withCtl hs _) _
        · exact memOk_withCtl (memOk_sheafEffect hout x) _

theorem keepsMemOk_syncAck (r : Fin 64) (m : RoadMsg) : KeepsMemOk (execSyncAck r m s) := by
  refine keepsMemOk_onDev (memOk_receive hs _ _ _ fun e p he => ?_)
  dsimp only
  split
  · exact memOk_syncAnswer he ..
  · exact memOk_withCtl he _

theorem keepsMemOk_commit (r : Fin 64) (m : RoadMsg) : KeepsMemOk (execCommit r m s) := by
  refine keepsMemOk_onDev (memOk_receive hs _ _ _ fun e p he => memOk_withCtl ?_ _)
  split
  · exact memOk_withCtl he _
  · split
    · exact memOk_applySet he ..
    · exact he

theorem keepsMemOk_orderStart (j : Nat) : KeepsMemOk (execOrderStart j s) := by
  refine keepsMemOk_onDev ?_
  split
  · split
    · exact hs
    · exact memOk_runFullReset (memOk_withCtl hs _)
  · exact hs

theorem keepsMemOk_mbPkgReset (src : OrderSource) : KeepsMemOk (execMbPkgReset src s) :=
  keepsMemOk_onDev (memOk_runFullReset (memOk_withCtl hs _))

theorem keepsMemOk_mbReboot (src : OrderSource) : KeepsMemOk (execMbReboot src s) :=
  keepsMemOk_onDev (memOk_runFullReset (memOk_withCtl hs _))

theorem keepsMemOk_parkDone (c : Nat) (h : Fin 32) : KeepsMemOk (execParkDone c h s) := by
  refine keepsMemOk_onDev ?_
  split
  · exact hs
  · split
    · exact hs
    · split
      · exact hs
      · split
        · exact hs
        · exact memOk_withCtl (memOk_moveLive hs ..) _

theorem keepsMemOk_resumeDone (c : Nat) (h : Fin 32) : KeepsMemOk (execResumeDone c h s) := by
  refine keepsMemOk_onDev ?_
  split
  · exact hs
  · split
    · exact hs
    · split
      · exact hs
      · exact memOk_withCtl (memOk_moveLive hs ..) _

theorem keepsMemOk_patrolScrub (h : Fin 32) (block : Nat) (cls : EccClass) : KeepsMemOk (execPatrolScrub h block cls s) := by
  refine keepsMemOk_onDev ?_
  split
  · exact memOk_eccRead hs ..
  · exact hs

theorem keepsMemOk_channelRebuildDone (h : Fin 32) : KeepsMemOk (execChannelRebuildDone h s) := by
  refine keepsMemOk_onDev ?_
  dsimp only
  split
  · exact hs
  · exact memOk_internalDev hs _ fun _ _ he => memOk_withCtl (memOk_endChannel he _) _

theorem keepsMemOk_zeroFillDone (h : Fin 32) : KeepsMemOk (execZeroFillDone h s) := by
  refine keepsMemOk_onDev ?_
  dsimp only
  split
  · exact hs
  · exact memOk_withCtl (memOk_zeroHamlet hs _) _

theorem keepsMemOk_spadEcc (h : Fin 32) (croft : Fin 13) (off : Nat) (fixed : Bool) :
    KeepsMemOk (execSpadEcc h croft off fixed s) := by
  refine keepsMemOk_onDev ?_
  dsimp only
  split
  · exact hs
  · split
    · exact memOk_withCtl hs _
    · split
      · exact hs
      · exact memOk_spadLost hs ..

theorem keepsMemOk_croftRemapDone (h : Fin 32) : KeepsMemOk (execCroftRemapDone h s) := by
  refine keepsMemOk_onDev ?_
  dsimp only
  split
  · exact hs
  · split
    · exact hs
    · exact memOk_internalDev hs _ fun _ j he => memOk_endRetirement he _ _ j

theorem keepsMemOk_resetTargetExpiry (scope : ResetScope) : KeepsMemOk (execResetTargetExpiry scope s) := by
  refine keepsMemOk_onDev ?_
  cases scope with
  | context => exact hs
  | croft | retirement | hamlet =>
    dsimp only
    split
    · split
      · exact memOk_withCtl hs _
      · exact hs
    · exact hs
  | warm =>
    dsimp only
    split
    · split
      · exact memOk_fullReset ..
      · exact hs
    · exact hs
  | full =>
    dsimp only
    split
    · exact memOk_withCtl hs _
    · exact hs

theorem keepsMemOk_warmResetHoldExpiry : KeepsMemOk (execWarmResetHoldExpiry s) := by
  refine keepsMemOk_onDev ?_
  split
  · exact hs
  · split
    · exact memOk_resetStep hs _ _ fun _ j he => memOk_finishWarm he _ j
    · exact hs

theorem keepsMemOk_packageWarmResetDone : KeepsMemOk (execPackageWarmResetDone s) := by
  refine keepsMemOk_onDev ?_
  split
  · exact hs
  · split
    · exact hs
    · split
      · exact memOk_withCtl hs _
      · exact memOk_resetStep hs _ _ fun _ j he => memOk_finishWarm he _ j

theorem keepsMemOk_hamletResetDone (h : Fin 32) : KeepsMemOk (execHamletResetDone h s) := by
  refine keepsMemOk_onDev ?_
  dsimp only
  split
  · exact hs
  · split
    · exact hs
    · exact memOk_resetStep hs _ _ fun _ j he => memOk_endHamletReset he _ _ j

theorem keepsMemOk_vddAuxChange (inRange : Bool) : KeepsMemOk (execVddAuxChange inRange s) := by
  refine keepsMemOk_onDev ?_
  split
  · split
    · exact memOk_withCtl hs _
    · exact hs
  · exact memOk_withCtl (memOk_clearedDev ..) _

theorem keepsMemOk_pwrOkDeassert : KeepsMemOk (execPwrOkDeassert s) := by
  refine keepsMemOk_onDev ?_
  split
  · exact memOk_withCtl hs _
  · refine memOk_withCtl ?_ _
    split
    · exact memOk_clearedDev ..
    · exact hs

theorem keepsMemOk_pkgResetNAssert : KeepsMemOk (execPkgResetNAssert s) := by
  refine keepsMemOk_onDev ?_
  dsimp only
  split
  · exact memOk_withCtl (memOk_withCtl hs _) _
  · split
    · exact memOk_clearedDev ..
    · exact memOk_clearedDev ..

theorem keepsMemOk_refclkRestored : KeepsMemOk (execRefclkRestored s) := by
  refine keepsMemOk_onDev ?_
  dsimp only
  split
  · exact hs
  · split
    · exact memOk_leaveFailed _
    · exact memOk_clearedDev ..
    · exact memOk_withCtl hs _

theorem keepsMemOk_selftestPhaseDone (r : PhaseResult) : KeepsMemOk (execSelftestPhaseDone r s) := by
  refine keepsMemOk_onDev ?_
  split
  · split
    · exact memOk_leaveFailed _
    · exact hs
  · split
    · exact memOk_endPhase hs ..
    · exact hs
  · exact hs

theorem keepsMemOk_hbmUncorrectable (h : Fin 32) (block : Nat) (cls : EccClass) (reader : Option Nat) :
    KeepsMemOk (execHbmUncorrectable h block cls reader s) := by
  refine keepsMemOk_onDev ?_
  dsimp only
  split
  · exact hs
  · split
    · exact memOk_eccRead hs ..
    · split
      · split
        · exact memOk_withCtl (memOk_eccRead hs ..) _
        · exact memOk_eccRead hs ..
      · exact memOk_eccRead hs ..

/-- Every command keeps the canonical form: the commands that touch memory each, any other by leaving memory alone. -/
theorem keepsMemOk_exec (c : Instr) : KeepsMemOk (exec c s) := by
  by_cases htouch : touchesMemory c = false
  · obtain ⟨d, hnext⟩ := exec_setCtl htouch s
    rw [hnext]
    rintro _ ⟨⟩
    exact hs.wf
  cases c with
  | commitToken c => exact keepsMemOk_commitToken hs c
  | sheafDone k => exact keepsMemOk_sheafDone hs k
  | syncAck r m => exact keepsMemOk_syncAck hs r m
  | commit r m => exact keepsMemOk_commit hs r m
  | orderStart j => exact keepsMemOk_orderStart hs j
  | mbPkgReset src => exact keepsMemOk_mbPkgReset hs src
  | mbReboot src => exact keepsMemOk_mbReboot hs src
  | parkDone c h => exact keepsMemOk_parkDone hs c h
  | resumeDone c h => exact keepsMemOk_resumeDone hs c h
  | patrolScrub h block cls => exact keepsMemOk_patrolScrub hs h block cls
  | channelRebuildDone h => exact keepsMemOk_channelRebuildDone hs h
  | zeroFillDone h => exact keepsMemOk_zeroFillDone hs h
  | spadEcc h croft off fixed => exact keepsMemOk_spadEcc hs h croft off fixed
  | croftRemapDone h => exact keepsMemOk_croftRemapDone hs h
  | resetTargetExpiry scope => exact keepsMemOk_resetTargetExpiry hs scope
  | warmResetHoldExpiry => exact keepsMemOk_warmResetHoldExpiry hs
  | vddAuxChange inRange => exact keepsMemOk_vddAuxChange hs inRange
  | pwrOkDeassert => exact keepsMemOk_pwrOkDeassert hs
  | pkgResetNAssert => exact keepsMemOk_pkgResetNAssert hs
  | refclkRestored => exact keepsMemOk_refclkRestored hs
  | selftestPhaseDone r => exact keepsMemOk_selftestPhaseDone hs r
  | hbmUncorrectable h block cls reader => exact keepsMemOk_hbmUncorrectable hs h block cls reader
  | hamletResetDone h => exact keepsMemOk_hamletResetDone hs h
  | packageWarmResetDone => exact keepsMemOk_packageWarmResetDone hs
  | _ => exact absurd rfl htouch

end Commands

/-- Settles O48. -/
theorem resetMemoryIsCanonical : Obligations.Reset_memory_is_canonical := by
  unfold Obligations.Reset_memory_is_canonical MemOk
  rfl

/-! ### A step -/

theorem step_of_pending {s : State} {c : Instr} {rest : List Instr} (h : s.pending = c :: rest) :
    step s = exec c { s with pending := rest } := by
  simp only [step, h]

theorem step_of_empty {s : State} (h : s.pending = []) : step s = .next (setCtl s (tick s.toCtl)) := by
  simp only [step, h]
  rfl

/-- Settles O45. -/
theorem stepRunsTheFrontCommand : Obligations.Step_runs_the_front_command := by
  unfold Obligations.Step_runs_the_front_command
  exact fun _ _ _ h => step_of_pending h

/-- Settles O49: a command at the front keeps the form by `keepsMemOk_exec`, an idle cycle leaves memory alone. -/
theorem memoryStaysCanonical : Obligations.Memory_stays_canonical := by
  unfold Obligations.Memory_stays_canonical
  intro s s' hs hstep
  cases hpending : s.pending with
  | nil =>
    rw [step_of_empty hpending] at hstep
    cases hstep
    exact hs
  | cons c rest =>
    rw [step_of_pending hpending] at hstep
    exact keepsMemOk_exec (s := { s with pending := rest }) ⟨hs⟩ c s' hstep

/-! ### An idle cycle (R37, R453; log 1) -/

/-- The control state once one HCLK cycle of time has passed. -/
def ticked (d : Ctl) : Ctl := modTime d tickTime

theorem tick_of_running {d : Ctl} (ha : awake d = true) (hr : d.pkg.refclk = true) :
    tick d = serveSheaves (sendLinks (portSends (portSends (ticked d) .ha) .hb)) := by
  cases hl : d.pkg.life with
  | off | aux | inReset => simp [awake, hl] at ha
  | selftest | operating | lantern | failed => simp [tick, hl, hr, ticked]

theorem tick_of_stopped {d : Ctl} (h : awake d = false ∨ d.pkg.refclk = false) : tick d = d := by
  cases hl : d.pkg.life with
  | off | aux | inReset => simp [tick, hl]
  | selftest | operating | lantern | failed => simp_all [tick, awake]

theorem portSends_of_empty {d : Ctl} {p : Port} (h : (getPort d p).tx = []) : portSends d p = d := by
  simp only [portSends, h]

theorem portSends_of_cons {d : Ctl} {p : Port} {t : Transmission} {l : List Transmission} (h : (getPort d p).tx = t :: l) :
    portSends d p = emit (modPort d p fun x => { x with tx := l }) t.act := by
  simp only [portSends, h]

theorem sendLinks_of_none_due {d : Ctl} (h : d.roads.all (fun x => !x.2.linkDue) = true) : sendLinks d = d := by
  have hnone : (d.roads.filter fun (e : Nat × Road) => e.2.linkDue && (e.2.state == .up || e.2.state == .fenced)) = [] := by
    rw [List.filter_eq_nil_iff]
    intro e he
    have hdue := List.all_eq_true.1 h e he
    simp_all
  rw [sendLinks, hnone]
  rfl

theorem serveSheaves_of_no_sheaf {d : Ctl} (h : d.sheaves = []) : serveSheaves d = d := by
  simp [serveSheaves, h]

/-- Settles O46. That a step on an empty queue is one HCLK cycle, and what else goes on in it, is the model's choice (log 1). -/
theorem emptyQueueLetsTimePass : Obligations.Empty_queue_lets_time_pass := by
  unfold Obligations.Empty_queue_lets_time_pass
  rintro s t inc hempty rfl rfl
  rw [step_of_empty hempty]
  constructor
  · intro ha hr e he
    have hticked : e = ticked s.toCtl := by
      rw [he]
      simp [ticked, modTime, tickTime]
    rw [tick_of_running ha hr, ← hticked]
    refine ⟨rfl, fun hA hB hroads hsheaves => ?_, fun t l htx => ?_⟩
    · have htxA : (getPort e .ha).tx = [] := by rw [hticked]; exact hA
      have htxB : (getPort e .hb).tx = [] := by rw [hticked]; exact hB
      rw [portSends_of_empty htxA, portSends_of_empty htxB, sendLinks_of_none_due (by rw [hticked]; exact hroads),
        serveSheaves_of_no_sheaf (by rw [hticked]; exact hsheaves)]
    · exact portSends_of_cons (by rw [hticked]; exact htx)
  · intro hstop
    rw [tick_of_stopped hstop]
    rfl

/-! ### Full reset (R404) -/

/-- Settles O47. What the reset state holds rests on log 4 and log 42, an empty MSI-X table on log 2. -/
theorem fullResetClears : Obligations.Full_reset_clears := by
  unfold Obligations.Full_reset_clears
  refine ⟨⟨rfl, rfl, rfl, rfl, rfl, rfl, rfl, rfl, rfl⟩, ?_⟩
  rintro d cause counted _ rfl
  have hpkg : (fenceRoads d.toCtl).pkg = d.pkg := fenceRoads_pkg d.toCtl
  refine ⟨rfl, rfl, rfl, rfl, rfl, rfl, rfl, rfl, rfl, fun p => ?ports, rfl, rfl, rfl, rfl, rfl, rfl, ?tray, ?slot, ?copyA, ?copyB,
    ?latch⟩
  case ports => cases p <;> exact ⟨rfl, rfl⟩
  case tray => exact (congrArg Package.tray hpkg :)
  case slot => exact (congrArg Package.slot hpkg :)
  case copyA => exact (congrArg Package.copyA hpkg :)
  case copyB => exact (congrArg Package.copyB hpkg :)
  case latch => exact (congrArg Package.latch hpkg :)

end Sys2Proof.Machine
end

section
/-! SUPPORT. Register reads (R442 to R444, R498), the handshakes of the mailboxes (R422 to R424, R446), and the ledger's strobes and
passes (R448 to R451, R505): what each does in each of its cases, and the statements about them. -/

namespace Sys2Proof.Machine
open Sys2Proof

/-! ### Register reads -/

section RegisterReads
variable {d : Ctl} {src : RegSource} {a : RegAddr} (hup : barUp d a = true)
include hup

theorem regRead_of_not_goodAccess {width : Nat} (hg : goodAccess (addrOff a) width = false) :
    regRead d src a width = emit (badAccess d a) (.readValue src 0) := by
  simp [regRead, hup, hg]

theorem regRead_wide (hoff : addrOff a % 8 = 0) :
    regRead d src a 8 = emit d (.readValue src (liveWord d src a (addrOff a + 4) ++ liveWord d src a (addrOff a))) := by
  simp [regRead, hup, goodAccess, hoff]

theorem regRead_lo {v : W64} (hoff : addrOff a % 8 = 0) (hv : livePair d src a (addrOff a) = some v) :
    regRead d src a 4 =
      setShadow (emit d (.readValue src (v &&& 0xFFFFFFFF))) src a (addrOff a, v.extractLsb' 32 32) := by
  have hword : addrOff a % 4 = 0 := by omega
  simp [regRead, hup, goodAccess, hoff, hword, hv]

theorem regRead_hi_of_shadow {v : W64} {hi : W32} (hoff : addrOff a % 8 = 4)
    (hv : livePair d src a (addrOff a - 4) = some v) (hshadow : getShadow d src a = some (addrOff a - 4, hi)) :
    regRead d src a 4 = emit d (.readValue src (hi.setWidth 64)) := by
  have hword : addrOff a % 4 = 0 := by omega
  simp [regRead, hup, goodAccess, hoff, hword, hv, hshadow]

theorem regRead_hi_of_miss {v : W64} (hoff : addrOff a % 8 = 4) (hv : livePair d src a (addrOff a - 4) = some v)
    (hmiss : ∀ x, getShadow d src a = some x → x.1 ≠ addrOff a - 4) :
    regRead d src a 4 = setRegErr (emit d (.readValue src (v >>> 32))) 0 := by
  have hword : addrOff a % 4 = 0 := by omega
  cases hshadow : getShadow d src a with
  | none => simp [regRead, hup, goodAccess, hoff, hword, hv, hshadow]
  | some x => simp [regRead, hup, goodAccess, hoff, hword, hv, hshadow, hmiss x hshadow]

end RegisterReads

/-- Settles O14, case by case of the access. -/
theorem registerReads : Obligations.Register_reads := by
  unfold Obligations.Register_reads
  rintro s src a _ rfl hup
  refine ⟨fun v hoff hv => ?lo, fun v hi hoff hv hshadow => ?shadow, fun v hoff hv hmiss => ?miss, fun hoff => ?wide,
    fun w hg => ⟨?badLo, ?badHi⟩⟩
  case lo => exact next_setCtl (regRead_lo hup hoff hv)
  case shadow => exact next_setCtl (regRead_hi_of_shadow hup hoff hv hshadow)
  case miss => exact next_setCtl (regRead_hi_of_miss hup hoff hv hmiss)
  case wide => exact next_setCtl (regRead_wide hup hoff)
  case badLo => exact next_setCtl (regRead_of_not_goodAccess hup hg)
  case badHi => exact next_setCtl (regRead_of_not_goodAccess hup hg)

/-! ### Mailboxes and wide mailboxes -/

section Handshakes
variable {d : Ctl} {src : RegSource}

@[simp] theorem getWide_modWide (f : WideMbx → WideMbx) : getWide (modWide d src f) src = f (getWide d src) := by
  cases src with
  | port p => cases p <;> rfl
  | reeve => rfl

theorem wideServe_of_valid (hv : (getWide d src).valid = true) : wideServe d src = d := by
  simp [wideServe, hv]

theorem wideServe_of_no_request (hr : (getWide d src).req = false) : wideServe d src = d := by
  simp [wideServe, hr]

theorem wideServe_of_snapshot {ws : List W32} (hr : (getWide d src).req = true) (hv : (getWide d src).valid = false)
    (hws : snapshot d (getWide d src).selector (getWide d src).index.toNat = some ws) :
    wideServe d src = modWide d src fun w => { w with req := false, valid := true, words := ws } := by
  simp [wideServe, hr, hv, hws]

theorem wideServe_of_out_of_range (hr : (getWide d src).req = true) (hv : (getWide d src).valid = false)
    (hws : snapshot d (getWide d src).selector (getWide d src).index.toNat = none) :
    wideServe d src = modWide d src fun w => { w with req := false, badSel := true } := by
  simp [wideServe, hr, hv, hws]

end Handshakes

section Block
variable {s : State} (hup : bar2Up s.toCtl = true)
include hup

theorem exec_mbxAck (p : Port) : exec (.mbxAck p) s = .next (setCtl s (mbxAck s.toCtl p)) :=
  next_setCtl (if_pos hup)

theorem exec_wideReq (src : RegSource) (k : Byte) (i : W16) :
    exec (.wideReq src k i) s = .next (setCtl s (wideServe (modWide s.toCtl src fun w => { w with
      req := true, selector := k, index := i }) src)) :=
  next_setCtl (if_pos hup)

theorem exec_wideAck (src : RegSource) :
    exec (.wideAck src) s =
      .next (setCtl s (wideServe (modWide s.toCtl src fun w => { w with valid := false, words := [] }) src)) :=
  next_setCtl (if_pos hup)

theorem exec_ldgCommitCommit : exec .ldgCommitCommit s = .next (setCtl s (ledgerCommit s.toCtl)) := next_setCtl (if_pos hup)

theorem exec_ldgCommitCapture : exec .ldgCommitCapture s = .next (setCtl s (ledgerCapture s.toCtl)) := next_setCtl (if_pos hup)

theorem exec_ldgRangeWrite (n : Fin 16) (limit : Bool) (v : W32) :
    exec (.ldgRangeWrite n limit v) s = .next (setCtl s (rangeWrite s.toCtl n.val limit v)) :=
  next_setCtl (if_pos hup)

theorem exec_ledgerPassStart : exec .ledgerPassStart s = .next (setCtl s (passStart s.toCtl)) := next_setCtl (if_pos hup)

theorem exec_ledgerPassEnd : exec .ledgerPassEnd s = .next (setCtl s (passEnd s.toCtl)) := next_setCtl (if_pos hup)

end Block

/-! ### The ledger -/

section LedgerRange
variable {d : Ctl} {n : Nat} {v : W32}

theorem rangeWrite_outside (limit : Bool) (hv : (v &&& 0xFFFFC#32).toNat < 0x40000 ∨ 0x7FFFF < (v &&& 0xFFFFC#32).toNat) :
    rangeWrite d n limit v = setRegErr d 1 :=
  if_pos hv

theorem rangeWrite_base (hlo : 0x40000 ≤ (v &&& 0xFFFFC#32).toNat) (hhi : (v &&& 0xFFFFC#32).toNat ≤ 0x7FFFF)
    (hnew : ldgBase d.ledger n ≠ v &&& 0xFFFFC#32) :
    rangeWrite d n false v = setCfgSeq { d with
      ledger := { d.ledger with base := Tbl.set d.ledger.base n (v &&& 0xFFFFC#32) } } (lastSeq d) :=
  (if_neg (by omega)).trans (if_neg hnew)

end LedgerRange

section LedgerPass
variable {d : Ctl} {c : W32}

theorem passEnd_of_changed {n : Nat} (hp : d.ledger.pass = some (n, c)) (hn : n ≠ d.ledger.cfgSeq) :
    passEnd d = { d with ledger := { d.ledger with pass := none } } := by
  simp [passEnd, hp, hn]

theorem passEnd_of_capturing (hp : d.ledger.pass = some (d.ledger.cfgSeq, c)) (hc : d.ledger.capturing = true) :
    passEnd d = { d with ledger := { d.ledger with
      pass := none, current := c, lastEnd := devNow d, ref := c, reference := c, capturing := false, state := 1 } } := by
  simp [passEnd, hp, hc]

theorem passEnd_of_match (hp : d.ledger.pass = some (d.ledger.cfgSeq, c)) (hc : d.ledger.capturing = false)
    (hsame : d.ledger.state ≠ 1 ∨ c = d.ledger.reference) :
    passEnd d = { d with ledger := { d.ledger with pass := none, current := c, lastEnd := devNow d } } := by
  have hquiet : ¬ (d.ledger.state = 1 ∧ c ≠ d.ledger.reference) := by tauto
  simp only [passEnd, hp, hc, ne_eq, not_true_eq_false, if_false, Bool.false_eq_true]
  exact if_neg hquiet

theorem passEnd_of_mismatch (hp : d.ledger.pass = some (d.ledger.cfgSeq, c)) (hc : d.ledger.capturing = false)
    (hclean : d.ledger.state = 1) (hdiff : c ≠ d.ledger.reference) :
    passEnd d = ledgerMismatch { d with ledger := { d.ledger with pass := none, current := c, lastEnd := devNow d } } := by
  simp [passEnd, hp, hc, hclean, hdiff]

end LedgerPass

/-! ### The statement -/

/-- Settles O16, strobe by strobe. BAD_SEL set together with the clearing of REQ, and a range register keeping its value outside the
mirror, are log 23's choices. -/
theorem mailboxesAndLedger : Obligations.Mailboxes_and_ledger := by
  unfold Obligations.Mailboxes_and_ledger
  constructor
  · intro s p src k i hup
    rw [exec_mbxAck hup, exec_wideReq hup, exec_wideAck hup]
    refine ⟨fun hm => ?ack, fun hm => ?idle, fun hv => ?waits, ?served, ?badSel, fun hr => ?released, ?next⟩
    case ack => rw [mbxAck, if_pos hm]
    case idle => rw [mbxAck, if_neg hm]; rfl
    case waits => rw [wideServe_of_valid (by simpa using hv)]
    case served =>
      rintro d ws hv rfl hws
      rw [wideServe_of_snapshot (by simp) (by simpa using hv) (by simpa using hws)]
    case badSel =>
      rintro d hv rfl hws
      rw [wideServe_of_out_of_range (by simp) (by simpa using hv) (by simpa using hws)]
    case released => rw [wideServe_of_no_request (by simpa using hr)]
    case next =>
      rintro d ws hr rfl hws
      rw [wideServe_of_snapshot (by simpa using hr) (by simp) (by simpa using hws)]
  · rintro s _ rfl hup
    simp only [exec_ldgCommitCommit hup, exec_ldgCommitCapture hup, exec_ldgRangeWrite hup, exec_ledgerPassStart hup,
      exec_ledgerPassEnd hup]
    refine ⟨fun hc => ?clean, fun hc => ?stale, rfl, fun n limit v hv => ?outside, fun n v hlo hhi hnew => ?base, rfl,
      fun n c hp hn => ?changed, fun c hp hc => ?captured, fun c hp hc hsame => ?matched, fun c hp hc hclean hdiff => ?mismatch⟩
    case clean => rw [ledgerCommit, if_pos hc]
    case stale => rw [ledgerCommit, if_neg hc]
    case outside => rw [rangeWrite_outside limit hv]
    case base => rw [rangeWrite_base hlo hhi hnew]
    case changed => rw [passEnd_of_changed hp hn]
    case captured => rw [passEnd_of_capturing hp hc]
    case matched => rw [passEnd_of_match hp hc hsame]
    case mismatch => rw [passEnd_of_mismatch hp hc hclean hdiff]

end Sys2Proof.Machine
end

section
/-! SUPPORT. Device time (R239, R241, R458 to R468): what each PTP message, PPS edge and timer of the time unit makes of the state in
each of its cases, and the statements about them. -/

namespace Sys2Proof.Machine
open Sys2Proof

/-- A command that leaves the control state as it was leaves the state as it was. -/
theorem next_unchanged {s : State} {a : Ctl} (h : a = s.toCtl) :
    (Host.Outcome.next { s with toCtl := a } : Host.Outcome State Fault Refusal) = .next s := by rw [h]

/-! ### PTP messages (R459 to R462) -/

section PtpMessages
variable {s : State} {hd : PtpHeader}

/-- The PTP port once it follows the grandmaster of an Announce. -/
def followed (d : Ctl) (hd : PtpHeader) (a : PtpAnnounceBody) (pending : Option (Nat × W64 × Int)) : Ctl :=
  modTime d fun t => { t with
    gmId := a.gmId, utcOffset := a.utcOffset, utcValid := a.utcValid
    ptp := { t.ptp with
      master := some a, masterPort := hd.source, lastAnnounce := some t.interval, announceInterval := hd.logInterval
      pendingSync := pending } }

theorem operating_of_ptpOurs {d : Ctl} (h : ptpOurs d hd = true) : d.pkg.life = .operating := by
  simp only [ptpOurs, Bool.and_eq_true, beq_iff_eq] at h
  exact h.1.1

section Ours
variable (ho : ptpOurs s.toCtl hd = true)
include ho

theorem exec_ptpAnnounce_of_no_master {a : PtpAnnounceBody} (ha : a.ptpTimescale = true) (hm : s.toCtl.time.ptp.master = none) :
    exec (.ptpAnnounce hd a) s = .next (setCtl s (followed s.toCtl hd a
      (if hd.source == s.toCtl.time.ptp.masterPort then s.toCtl.time.ptp.pendingSync else none))) := by
  refine next_setCtl ?_
  simp [ho, ha, hm, followed]
  rfl

theorem exec_ptpAnnounce_of_better {a b : PtpAnnounceBody} (ha : a.ptpTimescale = true)
    (hm : s.toCtl.time.ptp.master = some b) (hsrc : hd.source ≠ s.toCtl.time.ptp.masterPort)
    (hb : betterMaster a hd.source b s.toCtl.time.ptp.masterPort = true) :
    exec (.ptpAnnounce hd a) s = .next (setCtl s (if b.gmId ≠ a.gmId ∧ s.toCtl.time.source = .ptp then
      changeSource (followed s.toCtl hd a none) .ptp else followed s.toCtl hd a none)) := by
  refine next_setCtl ?_
  simp [ho, ha, hm, hsrc, hb, followed]

/-- The PTP port once a Sync of its master has come. -/
def synced (d : Ctl) (hd : PtpHeader) (pending : Option (Nat × W64 × Int)) : Ctl :=
  modPtp d fun p => { p with lastSync := some (now d), syncInterval := hd.logInterval, pendingSync := pending }

section Followed
variable {b : PtpAnnounceBody} (hm : s.toCtl.time.ptp.master = some b) (hsrc : hd.source = s.toCtl.time.ptp.masterPort)
  (hlo : -7 ≤ hd.logInterval) (hhi : hd.logInterval ≤ 0)
include hm hsrc hlo hhi

theorem exec_ptpSync_twoStep (t : PtpTime) (htwo : hd.twoStep = true) :
    exec (.ptpSync hd t) s =
      .next (setCtl s (synced s.toCtl hd (some (hd.seq.toNat, devNow s.toCtl, hd.correction)))) := by
  refine next_setCtl ?_
  simp [ho, hm, hsrc, hlo, hhi, htwo, synced]

theorem exec_ptpSync_oneStep (t : PtpTime) (htwo : hd.twoStep = false) :
    exec (.ptpSync hd t) s =
      .next (setCtl s (ptpMeasure (synced s.toCtl hd none) t.ns (devNow s.toCtl) hd.correction)) := by
  refine next_setCtl ?_
  simp [ho, hm, hsrc, hlo, hhi, htwo, synced]

end Followed

theorem exec_ptpFollowUp_of_pending (t : PtpTime) {rx : W64} {c : Int} (hsrc : hd.source = s.toCtl.time.ptp.masterPort)
    (hp : s.toCtl.time.ptp.pendingSync = some (hd.seq.toNat, rx, c)) :
    exec (.ptpFollowUp hd t) s = .next (setCtl s
      (ptpMeasure (modPtp s.toCtl fun p => { p with pendingSync := none }) t.ns rx (c + hd.correction))) := by
  refine next_setCtl ?_
  simp [ho, hsrc, hp]

theorem exec_ptpDelayReqTimer_of_due (hdue : s.toCtl.time.peerDelay = true ∨ s.toCtl.time.ptp.master.isSome = true) :
    exec .ptpDelayReqTimer s = .next (setCtl s (emit (modPtp s.toCtl fun p => { p with
      pendingDelay := some (p.nextDelaySeq, devNow s.toCtl), pendingPdelay := none
      nextDelaySeq := (p.nextDelaySeq + 1) % 65536 })
      (.ptp (b2n s.toCtl.time.peerDelay) s.toCtl.time.ptp.nextDelaySeq))) := by
  have hwants : (!s.toCtl.time.peerDelay && s.toCtl.time.ptp.master.isNone) = false := by
    rcases hdue with h | h
    · simp [h]
    · simp [Option.isNone_eq_false_iff.2 h]
  refine next_setCtl ?_
  simp only [operating_of_ptpOurs ho, hwants]
  rfl

theorem exec_ptpDelayResp_of_pending (t : PtpTime) {t1 : W64} {o rx : Int} (he : s.toCtl.time.peerDelay = false)
    (hp : s.toCtl.time.ptp.pendingDelay = some (hd.seq.toNat, t1)) (hl : s.toCtl.time.ptp.lastPair = some (o, rx))
    (hsrc : hd.source = s.toCtl.time.ptp.masterPort) :
    exec (.ptpDelayResp hd t) s = .next (setCtl s (if t.requester = Config.clockIdentity then modPtp s.toCtl fun p => { p with
      delay := (rx - o + ((t.ns - t1).toInt * 1000 - hd.correction * 1000 / 65536)) / 2, pendingDelay := none }
      else s.toCtl)) := by
  refine next_setCtl ?_
  by_cases hr : t.requester = Config.clockIdentity
  · simp [hp, hl, ho, he, hsrc, hr]
  · simp [hp, hl, hr]

theorem exec_ptpPdelayReq_of_peerDelay (t : PtpTime) (he : s.toCtl.time.peerDelay = true) :
    exec (.ptpPdelayReq hd t) s = .next (setCtl s
      (emit (emit s.toCtl (.ptp 2 hd.seq.toNat)) (.ptp 3 hd.seq.toNat))) := by
  refine next_setCtl ?_
  simp [ho, he]

theorem exec_ptpPdelayResp_twoStep (t : PtpTime) {t1 : W64} (he : s.toCtl.time.peerDelay = true)
    (hp : s.toCtl.time.ptp.pendingDelay = some (hd.seq.toNat, t1)) (htwo : hd.twoStep = true) :
    exec (.ptpPdelayResp hd t) s = .next (setCtl s
      (if t.requester = Config.clockIdentity then modPtp s.toCtl fun p => { p with
        pendingDelay := none, pendingPdelay := some (hd.seq.toNat, t1, t.ns, devNow s.toCtl, hd.correction) }
      else s.toCtl)) := by
  refine next_setCtl ?_
  by_cases hr : t.requester = Config.clockIdentity
  · simp [hp, pdelayOurs, ho, he, hr, htwo]
  · simp [hp, pdelayOurs, hr]

theorem exec_ptpPdelayResp_oneStep (t : PtpTime) {t1 : W64} (he : s.toCtl.time.peerDelay = true)
    (hp : s.toCtl.time.ptp.pendingDelay = some (hd.seq.toNat, t1)) (htwo : hd.twoStep = false) :
    exec (.ptpPdelayResp hd t) s = .next (setCtl s
      (if t.requester = Config.clockIdentity then modPtp s.toCtl fun p => { p with
        pendingDelay := none, delay := ((devNow s.toCtl - t1).toInt * 1000 - hd.correction * 1000 / 65536) / 2 }
      else s.toCtl)) := by
  refine next_setCtl ?_
  by_cases hr : t.requester = Config.clockIdentity
  · simp [hp, pdelayOurs, ho, he, hr, htwo]
  · simp [hp, pdelayOurs, hr]

theorem exec_ptpPdelayRespFollowUp_of_pending (t : PtpTime) {t1 t2 t4 : W64} {c : Int} (he : s.toCtl.time.peerDelay = true)
    (hp : s.toCtl.time.ptp.pendingPdelay = some (hd.seq.toNat, t1, t2, t4, c)) :
    exec (.ptpPdelayRespFollowUp hd t) s = .next (setCtl s
      (if t.requester = Config.clockIdentity then modPtp s.toCtl fun p => { p with
        pendingPdelay := none
        delay := ((t4 - t1).toInt * 1000 - (t.ns - t2).toInt * 1000 - (c + hd.correction) * 1000 / 65536) / 2 }
      else s.toCtl)) := by
  refine next_setCtl ?_
  by_cases hr : t.requester = Config.clockIdentity
  · simp [hp, pdelayOurs, ho, he, hr]
  · simp [hp, pdelayOurs, hr]

end Ours

theorem exec_ptpAnnounce_of_worse (a : PtpAnnounceBody) {b : PtpAnnounceBody} (hm : s.toCtl.time.ptp.master = some b)
    (hsrc : hd.source ≠ s.toCtl.time.ptp.masterPort) (hlate : announceLate s.toCtl = false)
    (hb : betterMaster a hd.source b s.toCtl.time.ptp.masterPort = false) :
    exec (.ptpAnnounce hd a) s = .next s := by
  refine next_unchanged ?_
  simp [hm, hsrc, hlate, hb]

theorem exec_ptpSync_of_ignored (t : PtpTime) (h : hd.source ≠ s.toCtl.time.ptp.masterPort ∨ s.toCtl.time.ptp.master = none ∨
    0 < hd.logInterval ∨ hd.logInterval < -7) : exec (.ptpSync hd t) s = .next s := by
  refine next_unchanged (if_pos ?_)
  rcases h with h | h | h | h
  · simp [h]
  · simp [h]
  · simp [show ¬ hd.logInterval ≤ 0 by omega]
  · simp [show ¬ -7 ≤ hd.logInterval by omega]

theorem exec_ptpFollowUp_of_none (t : PtpTime) (hp : s.toCtl.time.ptp.pendingSync = none) :
    exec (.ptpFollowUp hd t) s = .next s := by
  refine next_unchanged ?_
  simp [hp]

theorem exec_ptpDelayReqTimer_of_no_master (he : s.toCtl.time.peerDelay = false) (hm : s.toCtl.time.ptp.master = none) :
    exec .ptpDelayReqTimer s = .next s := by
  refine next_unchanged ?_
  simp [he, hm]

theorem exec_ptpPdelayReq_of_endToEnd (t : PtpTime) (he : s.toCtl.time.peerDelay = false) :
    exec (.ptpPdelayReq hd t) s = .next s := by
  refine next_unchanged ?_
  simp [he]

end PtpMessages

/-- Settles O43, message by message. The fields of the messages and the comparison of masters are IEEE 1588's (log 45). -/
theorem ptpMessages : Obligations.Ptp_messages := by
  unfold Obligations.Ptp_messages
  constructor
  · rintro s hd a b t _ e _ rfl rfl ho
    refine ⟨fun ha hm => ?first, ?better, fun hm hsrc hlate hb => ?worse, fun hm hsrc hlo hhi => ⟨fun htwo => ?twoStep, fun htwo => ?oneStep⟩,
      fun h => ?ignored, fun rx c hsrc hp => ?followUp, fun hp => ?stray⟩
    case first => exact exec_ptpAnnounce_of_no_master ho ha hm
    case better =>
      rintro ha hm hsrc hb rfl
      exact exec_ptpAnnounce_of_better ho ha hm hsrc hb
    case worse => exact exec_ptpAnnounce_of_worse a hm hsrc hlate hb
    case twoStep => exact exec_ptpSync_twoStep ho hm hsrc hlo hhi t htwo
    case oneStep => exact exec_ptpSync_oneStep ho hm hsrc hlo hhi t htwo
    case ignored => exact exec_ptpSync_of_ignored t h
    case followUp => exact exec_ptpFollowUp_of_pending ho t hsrc hp
    case stray => exact exec_ptpFollowUp_of_none t hp
  · rintro s hd t _ _ t1 t2 t4 rfl rfl ho
    refine ⟨fun hdue => ?request, fun he hm => ?noMaster, fun o rx he hp hl hsrc => ?response, fun he => ?peerRequest,
      fun he => ?endToEnd, fun he hp => ⟨fun htwo => ?peerTwoStep, fun htwo => ?peerOneStep⟩, fun c he hp => ?peerFollowUp⟩
    case request => exact exec_ptpDelayReqTimer_of_due ho hdue
    case noMaster => exact exec_ptpDelayReqTimer_of_no_master he hm
    case response => exact exec_ptpDelayResp_of_pending ho t he hp hl hsrc
    case peerRequest => exact exec_ptpPdelayReq_of_peerDelay ho t he
    case endToEnd => exact exec_ptpPdelayReq_of_endToEnd t he
    case peerTwoStep => exact exec_ptpPdelayResp_twoStep ho t he hp htwo
    case peerOneStep => exact exec_ptpPdelayResp_oneStep ho t he hp htwo
    case peerFollowUp => exact exec_ptpPdelayRespFollowUp_of_pending ho t he hp

/-! ### PPS (R467, R468) -/

section Pps
variable {s : State}

/-- The time unit once an edge of PPS_IN is captured. -/
def captured (d : Ctl) : Ctl := modTime d fun x => { x with ppsIn := devNow d }

/-- The time unit once a valid edge has marked second `n`. -/
def marked (d : Ctl) (n : Nat) : Ctl :=
  modTime d fun x => { x with ppsIn := devNow d, ppsLast := some x.interval, ppsValid := true, ppsLabel := some (n + 1) }

theorem exec_ppsInEdge_of_glitch (hl : s.toCtl.pkg.life = .operating) (hv : edgeValid s.toCtl = false) :
    exec .ppsInEdge s = .next (setCtl s (modTime s.toCtl fun x => { x with
      ppsIn := devNow s.toCtl, ppsGlitch := addCount x.ppsGlitch 1 })) := by
  have hv' : edgeValid (captured s.toCtl) = false := hv
  refine next_setCtl ?_
  simp only [captured] at hv'
  simp only [hl, hv']
  rfl

theorem exec_ppsInEdge_of_valid (hl : s.toCtl.pkg.life = .operating) (hv : edgeValid s.toCtl = true) {off : Int} {e : Ctl}
    (hoff : off = (BitVec.ofNat 64 (edgeSecond s.toCtl * 1000000000) - devNow s.toCtl).toInt * 1000)
    (he : e = checkPps (marked s.toCtl (edgeSecond s.toCtl)) off) :
    exec .ppsInEdge s = .next (setCtl s (if namedSource e.time = .pps then measure e .pps 0 off else e)) := by
  subst hoff he
  have hv' : edgeValid (captured s.toCtl) = true := hv
  refine next_setCtl ?_
  simp only [captured] at hv'
  simp only [hl, hv']
  rfl

theorem exec_ppsInEdge_of_not_operating (hl : s.toCtl.pkg.life ≠ .operating) : exec .ppsInEdge s = .next s :=
  next_unchanged (if_pos hl)

theorem exec_ppsOutSecond_of_due (hen : s.toCtl.time.ppsOutEn = true)
    (hst : s.toCtl.time.state = .locked ∨ s.toCtl.time.state = .holdover)
    (hat : (devNow s.toCtl).toNat % 1000000000 < 4)
    (hnew : s.toCtl.time.ppsOutTime.toNat / 1000000000 ≠ (devNow s.toCtl).toNat / 1000000000) :
    exec .ppsOutSecond s = .next (setCtl s (modTime s.toCtl fun t => { t with
      ppsOut := true, ppsOutTime := BitVec.ofNat 64 ((devNow s.toCtl).toNat / 1000000000 * 1000000000) })) := by
  refine next_setCtl (if_neg ?_)
  rcases hst with hst | hst <;> simp [hen, hst, atSecond, hat, hnew]

theorem exec_ppsOutSecond_of_disabled
    (h : s.toCtl.time.ppsOutEn = false ∨ (s.toCtl.time.state ≠ .locked ∧ s.toCtl.time.state ≠ .holdover)) :
    exec .ppsOutSecond s = .next s := by
  refine next_unchanged (if_pos ?_)
  rcases h with h | ⟨hlocked, hholdover⟩
  · simp [h]
  · simp [hlocked, hholdover]

theorem exec_ppsOutFall_of_due (hout : s.toCtl.time.ppsOut = true)
    (hdue : timeLe (s.toCtl.time.ppsOutTime + 100000000) (devNow s.toCtl) = true) :
    exec .ppsOutFall s = .next (setCtl s (modTime s.toCtl fun t => { t with ppsOut := false })) :=
  next_setCtl (if_pos (by simp only [hout, hdue, Bool.and_self]))

theorem exec_ppsOutFall_of_early (hdue : timeLe (s.toCtl.time.ppsOutTime + 100000000) (devNow s.toCtl) = false) :
    exec .ppsOutFall s = .next s :=
  next_unchanged (if_neg (by simp only [hdue, Bool.and_false, Bool.false_eq_true, not_false_iff]))

end Pps

/-! ### The source of time (R239, R241, R458, R464, R465) -/

section Sources
variable {s : State}

theorem exec_sourceLostTimeout_of_ptp (hsrc : s.toCtl.time.source = .ptp) :
    exec .sourceLostTimeout s = .next (setCtl s
      (if announceLate s.toCtl || syncLate s.toCtl then sourceLost (losePps s.toCtl) else losePps s.toCtl)) :=
  next_setCtl (by simp only [hsrc])

theorem exec_sourceLostTimeout_of_leader (hsrc : s.toCtl.time.source = .leader) :
    exec .sourceLostTimeout s = .next (setCtl s
      (if repliesMissing s.toCtl then sourceLost (losePps s.toCtl) else losePps s.toCtl)) :=
  next_setCtl (by simp only [hsrc])

/-- The time unit once PPS_IN is not valid any more. -/
def ppsLost (d : Ctl) : Ctl := modTime d fun t => { t with ppsLast := none, ppsValid := false, ppsLabel := none }

theorem exec_sourceLostTimeout_of_pps (hsrc : s.toCtl.time.source = .pps) (hmiss : edgesMissing s.toCtl = true) :
    exec .sourceLostTimeout s = .next (setCtl s
      (if s.toCtl.time.config = 2 ∧ s.toCtl.time.ptp.master.isSome ∧ !announceLate s.toCtl then
        changeSource (ppsLost s.toCtl) .ptp
      else sourceLost (ppsLost s.toCtl))) := by
  refine next_setCtl ?_
  simp only [hsrc, hmiss]
  rfl

theorem exec_holdoverLimit_of_due (hst : s.toCtl.time.state = .holdover)
    (hdue : s.toCtl.time.holdoverStart + sec s.toCtl.time.holdoverLimit ≤ now s.toCtl) :
    exec .holdoverLimit s = .next (setCtl s (enterState s.toCtl .freerun false false)) :=
  next_setCtl (if_pos ⟨hst, hdue⟩)

theorem exec_holdoverLimit_of_early (hdue : now s.toCtl < s.toCtl.time.holdoverStart + sec s.toCtl.time.holdoverLimit) :
    exec .holdoverLimit s = .next s :=
  next_unchanged (if_neg fun h => absurd h.2 (Nat.not_le.2 hdue))

theorem exec_timeProbeTimer_of_follower {r : Nat} (hl : s.toCtl.pkg.life = .operating) (hw : s.toCtl.pkg.warm = none)
    (hf : follows s.toCtl.time = true) (hq : timeLeader s.toCtl ≠ pkgNum s.toCtl)
    (hr : probeRoad s.toCtl (timeLeader s.toCtl) = some r) :
    exec .timeProbeTimer s = .next (setCtl s
      (sendOn (modTime s.toCtl fun t => { t with probe := some (devNow s.toCtl, t.steps) }) r false 3 0x3A
        (timeMsg s.toCtl (timeLeader s.toCtl) (devNow s.toCtl) 0))) := by
  refine next_setCtl ?_
  simp [hl, hw, hf, hq, hr]

theorem exec_timeProbeTimer_of_own_source (hf : follows s.toCtl.time = false) : exec .timeProbeTimer s = .next s := by
  refine next_unchanged ?_
  simp [hf]

/-- An internal step runs its effect on the state with the step in the journal, whose device time is as before. -/
theorem internalStep_congr {d : Ctl} (obj : Obj) {f g : Ctl → Nat → Ctl} (h : ∀ e j, e.time = d.time → f e j = g e j) :
    internalStep d obj f = internalStep d obj g := by
  simp only [internalStep]
  rw [h _ _ (enter_time ..)]

theorem ownSource_of_not_pps {t : TimeUnit} (h : ownSource t ≠ .pps) : ownSource t = .ptp := by
  simp only [ownSource] at h ⊢
  split at h
  · rfl
  · exact absurd rfl h
  · split at h
    · exact absurd rfl h
    · simp_all

theorem sourceId_ownSource (d : Ctl) (t : TimeUnit) :
    sourceId d (ownSource t) = if ownSource t = .pps then some 0 else d.time.ptp.master.map fun _ => d.time.gmId.toNat := by
  by_cases h : ownSource t = .pps
  · simp [h, sourceId]
  · simp [ownSource_of_not_pps h, sourceId]

theorem exec_backupTakeover_of_lost (hrole : s.toCtl.time.role = .backup)
    (hlost : (getPeer s.toCtl s.toCtl.time.leader).lost = true) (hl : s.toCtl.pkg.life = .operating) {src : TimeSource}
    {id : Option Nat} (hsrc : src = ownSource { s.toCtl.time with role := .leader, leader := pkgNum s.toCtl, backup := none })
    (hid : id = if src = .pps then some 0 else s.toCtl.time.ptp.master.map fun _ => s.toCtl.time.gmId.toNat) :
    exec .backupTakeover s = .next (setCtl s (internalStep s.toCtl .package fun d _ =>
      enterState (modTime d fun t => { t with
        role := .leader, leader := pkgNum d, backup := none
        before := if t.state = .acquiring then t.before else t.state, source := src, lastSource := id.map fun n => (src, n)
        predicted := none, overStreak := 0 }) .acquiring false true)) := by
  subst hsrc hid
  refine next_setCtl ((if_neg (by simp [hrole, hlost, hl])).trans (internalStep_congr .package fun e _ htime => ?_))
  simp only [modTime, sourceId_ownSource, htime]
  rfl

end Sources

/-- Settles O44, event by event. The second that an edge marks, the time that stands for a missing arrival, and when PPS_OUT rises are
log 35's choices; that BACKUP_TAKEOVER is an internal step of its own is log 49's. -/
theorem ppsAndTimeSources : Obligations.Pps_and_time_sources := by
  unfold Obligations.Pps_and_time_sources
  constructor
  · rintro s _ e rfl
    refine ⟨fun hl hv => ?glitch, ?valid, fun hl => ?deaf, ?rise, fun h => ?quiet, fun hout hdue => ?fall, fun hdue => ?high⟩
    case glitch => exact exec_ppsInEdge_of_glitch hl hv
    case valid =>
      rintro hl hv _ off rfl hoff he
      exact exec_ppsInEdge_of_valid hl hv hoff he
    case deaf => exact exec_ppsInEdge_of_not_operating hl
    case rise =>
      rintro _ rfl hen hst hat hnew
      exact exec_ppsOutSecond_of_due hen hst hat hnew
    case quiet => exact exec_ppsOutSecond_of_disabled h
    case fall => exact exec_ppsOutFall_of_due hout hdue
    case high => exact exec_ppsOutFall_of_early hdue
  · rintro s _ e rfl
    refine ⟨fun hsrc hlate => ?silent, fun hsrc ha hsync => ?heard, fun hsrc hmiss => ?unanswered, ?pps, fun hst hdue => ?freerun,
      fun hdue => ?holdover, ?probe, fun hf => ?ownTime, fun hrole hlost hl src id hsrc hid => ?takeover, fun hlost => ?leaderLives⟩
    case silent => rw [exec_sourceLostTimeout_of_ptp hsrc, if_pos (by simpa using hlate)]
    case heard => rw [exec_sourceLostTimeout_of_ptp hsrc, if_neg (by simp [ha, hsync])]
    case unanswered => rw [exec_sourceLostTimeout_of_leader hsrc, if_pos hmiss]
    case pps =>
      rintro rfl hsrc hmiss
      rw [exec_sourceLostTimeout_of_pps hsrc hmiss]
      refine ⟨fun hboth hmaster hlate => ?_, fun hpps => ?_⟩
      · rw [if_pos ⟨hboth, hmaster, by simp [hlate]⟩]
        rfl
      · rw [if_neg (by simp [hpps])]
        rfl
    case freerun => exact exec_holdoverLimit_of_due hst hdue
    case holdover => exact exec_holdoverLimit_of_early hdue
    case probe =>
      rintro _ r hl hw hf rfl hq hr
      exact exec_timeProbeTimer_of_follower hl hw hf hq hr
    case ownTime => exact exec_timeProbeTimer_of_own_source hf
    case takeover => exact exec_backupTakeover_of_lost hrole hlost hl hsrc hid
    case leaderLives => exact next_unchanged (if_pos (by simp [hlost]))

end Sys2Proof.Machine
end

section
/-! SUPPORT. The board interface (R477, R485, R491, R492, R533): voltage targets, the I3C target, the end of a flash operation and the
instructions of the TAP, and the statement about them. -/

namespace Sys2Proof.Machine
open Sys2Proof

/-! ### Voltage targets (R477) -/

section Voltage
variable {s : State} {f : Fin 4} {mv : Nat}

theorem exec_avsTargetChange_of_due (hup : i3cUp s.toCtl = true)
    (hdue : ∀ t, Tbl.find? s.toCtl.pkg.avsTimes f.val = some t → t + ms 1 ≤ now s.toCtl) (hlo : 650 ≤ mv) (hhi : mv ≤ 800)
    (hstep : mv % 5 = 0) :
    exec (.avsTargetChange f mv) s = .next (setCtl s (raiseIbi (modPkg s.toCtl fun k => { k with
      avs := Tbl.set k.avs f.val mv, avsTimes := Tbl.set k.avsTimes f.val (now s.toCtl) }) 0x11)) := by
  refine next_setCtl (if_pos ?_)
  cases ht : Tbl.find? s.toCtl.pkg.avsTimes f.val with
  | none => simp [hup, hlo, hhi, hstep]
  | some t => simp [hup, hlo, hhi, hstep, hdue t ht]

theorem exec_avsTargetChange_of_out_of_range (h : mv < 650 ∨ 800 < mv) : exec (.avsTargetChange f mv) s = .next s := by
  have hout : ¬ (650 ≤ mv ∧ mv ≤ 800) := by omega
  exact next_unchanged (if_neg (by simp [hout]))

end Voltage

/-! ### Flash operations (R484, R488) -/

section Flash
variable {s : State} {j : Nat} {b : Bool} {v : Bytes} {rest : List FlashOp}

theorem exec_flashOperationDone_of_cons {op : FlashOp} (hf : s.toCtl.pkg.flash = op :: rest) (pass : Bool) :
    exec (.flashOperationDone pass) s =
      .next (setCtl s (endFlash (modPkg s.toCtl fun k => { k with flash := rest }) op pass)) :=
  next_setCtl (by simp only [hf])

theorem endFlash_charter_of_pass (d : Ctl) :
    endFlash d (.charter j b v) true =
      completeOrder (modPkg d (setCopy b v)) j (if (copyRecords v).isSome then 0 else 0x40) [] := by
  simp [endFlash]

theorem endFlash_charter_of_fail (d : Ctl) : endFlash d (.charter j b v) false = completeOrder d j 0x40 [] := by
  simp [endFlash]

theorem endFlash_firmware_of_pass (d : Ctl) (hv : v ≠ []) :
    endFlash d (.firmware j b v) true =
      completeOrder (modPkg d (setFirmware b v)) j (if fwLoads d.pkg.fusedSvn v then 0 else 0x40) [] := by
  simp [endFlash, hv]

end Flash

/-! ### The TAP (R533) -/

section Tap
variable {s : State} (hon : s.toCtl.pkg.life ≠ .off)
include hon

theorem tap_of_on (i : JtagInstr) : tap s.toCtl i = modPkg s.toCtl fun k => { k with jtag := i } := if_neg hon

theorem exec_idcode_of_on :
    exec .idcode s = .next (setCtl s (emit (modPkg s.toCtl fun k => { k with jtag := .idcode }) (.jtagData 0xB00407B3))) :=
  next_setCtl ((if_neg hon).trans (by rw [tap_of_on hon]))

theorem exec_samplePreload_of_on (x y : BitVec 64) :
    exec (.samplePreload x y) s = .next (setCtl s (emit (modPkg (modPkg s.toCtl fun k => { k with jtag := .samplePreload })
      fun k => { k with sampled := x, boundary := y }) (.jtagData x))) :=
  next_setCtl ((if_neg hon).trans (by rw [tap_of_on hon]))

end Tap

section TapPins
variable {d : Ctl} (hon : d.pkg.life ≠ .off)
include hon

theorem pins_of_scan (hr : d.pkg.resetN = false) (hj : d.pkg.jtag = .extest ∨ d.pkg.jtag = .clamp) :
    pins d = ⟨.scan, .scan, .scan, .scan, .scan, .scan⟩ := by
  rcases hj with hj | hj <;> simp [pins, hon, hr, hj]

theorem pins_of_highz (hr : d.pkg.resetN = false) (hj : d.pkg.jtag = .highz) : pins d = ⟨.z, .z, .z, .z, .z, .z⟩ := by
  simp [pins, hon, hr, hj]

end TapPins

/-- While PKG_RESET_N is high the pins do not depend on the instruction in the TAP. -/
theorem pins_modPkg_jtag {d : Ctl} (hr : d.pkg.resetN = true) (i j : JtagInstr) :
    pins (modPkg d fun k => { k with jtag := i }) = pins (modPkg d fun k => { k with jtag := j }) := by
  simp only [pins, modPkg, hr, Bool.not_true, Bool.false_and, Bool.false_eq_true, if_false]
  rfl

/-! ### The statement -/

/-- Settles O39, command by command. That a voltage target out of range is ignored, that the TAP answers in every state but OFF, and
the list of pending IBIs are log 40's choices. -/
theorem boardInterface : Obligations.Board_interface := by
  unfold Obligations.Board_interface
  constructor
  · rintro s f mv a _ rfl hup
    refine ⟨fun hdue hlo hhi hstep => ?avs, fun h => ?outOfRange, ?status, ?address, ?charter, ?firmware, fun hf => ?idle⟩
    case avs => exact exec_avsTargetChange_of_due hup hdue hlo hhi hstep
    case outOfRange => exact exec_avsTargetChange_of_out_of_range h
    case status => exact next_setCtl (if_pos hup)
    case address => exact next_setCtl (if_pos hup)
    case charter =>
      rintro j b v rest _ hf rfl
      rw [exec_flashOperationDone_of_cons hf, exec_flashOperationDone_of_cons hf, endFlash_charter_of_pass,
        endFlash_charter_of_fail]
      exact ⟨rfl, rfl⟩
    case firmware =>
      rintro j b v rest _ hf hv rfl
      rw [exec_flashOperationDone_of_cons hf, endFlash_firmware_of_pass _ hv]
      rfl
    case idle => exact next_unchanged (by simp only [hf])
  · rintro s x y g hon hg
    obtain rfl : g = fun i => modPkg s.toCtl fun k => { k with jtag := i } := funext hg
    refine ⟨?extest, ?clamp, ?highz, fun hr => ⟨?extestPins, ?clampPins, ?highzPins⟩, fun hr i => ?quiet, ?bypass, ?idcode, ?sample⟩
    case extest => exact next_setCtl (tap_of_on hon .extest)
    case clamp => exact next_setCtl (tap_of_on hon .clamp)
    case highz => exact next_setCtl (tap_of_on hon .highz)
    case extestPins => exact pins_of_scan hon hr (.inl rfl)
    case clampPins => exact pins_of_scan hon hr (.inr rfl)
    case highzPins => exact pins_of_highz hon hr rfl
    case quiet => exact pins_modPkg_jtag hr i .bypass
    case bypass => exact next_setCtl (tap_of_on hon .bypass)
    case idcode => exact exec_idcode_of_on hon
    case sample => exact exec_samplePreload_of_on hon x y

end Sys2Proof.Machine
end

section
/-! SUPPORT. The orders that report (R376, R519 to R521), the arrival of orders at the journal (R425, R429, R433, R434, R515) and the start
of one that waited, and the statements about them. -/

namespace Sys2Proof.Machine
open Sys2Proof

/-! ### Bodies of reports -/

section ReportBodies
variable (b : Ctl) (o : Order)

theorem mbLogReadBody_of_faults (h : fld o.args 0 1 = 0) :
    mbLogReadBody b o = (.done 0 (logResponse b.reeve.faultLog FaultRecord.rseq faultBytes (fld o.args 4 4)),
      markFaultsRead (fld o.args 4 4) b) := by
  simp [mbLogReadBody, readFaults, ok, h]

theorem mbLogReadBody_of_history (h : fld o.args 0 1 = 2) :
    mbLogReadBody b o = (.done 0 (logResponse b.pkg.history HistoryRecord.seq historyBytes (fld o.args 4 4)), b) := by
  simp [mbLogReadBody, ok, h]

theorem mbOrderStatusBody_of_held {e : JEntry} (h : Tbl.find? b.reeve.journal (fld o.args 0 4) = some e) :
    mbOrderStatusBody b o = (.done 0 (orderReport b e), b) := by
  simp [mbOrderStatusBody, ok, h]

theorem mbOrderStatusBody_of_expired (h : Tbl.find? b.reeve.journal (fld o.args 0 4) = none) :
    mbOrderStatusBody b o = (.done 0x41 [], b) := by
  simp [mbOrderStatusBody, refuse, h]

theorem mbSliceStatsBody_slice (hl : fld o.args 1 1 = 0xFF) (hs : (getSlice b (fld o.args 0 1)).state ≠ .free) :
    mbSliceStatsBody b o =
      (.done 0 (sliceStatsReport b (fld o.args 0 1) none (getSlice b (fld o.args 0 1)).stats), b) := by
  simp [mbSliceStatsBody, ok, hl, hs]

theorem mbSliceStatsBody_lane (hl : fld o.args 1 1 < 64) (hs : (getSlice b (fld o.args 0 1)).state ≠ .free) :
    mbSliceStatsBody b o = (.done 0 (sliceStatsReport b (fld o.args 0 1) (some (fld o.args 1 1))
      (getLane b (fld o.args 0 1) (fld o.args 1 1)).stats), b) := by
  have hlane : fld o.args 1 1 ≠ 0xFF := by omega
  simp [mbSliceStatsBody, ok, hlane, hs]

end ReportBodies

/-- A ready order runs in a state with the slices of the one it was taken from. -/
theorem Ready.getSlice_takenFrom {s : State} {src : OrderSource} {op : Nat} {a : Bytes} {b : Ctl} (h : Ready s src op a b)
    (i : Nat) : getSlice (takenFrom s.toCtl op src) i = getSlice b i := by
  obtain ⟨-, rfl⟩ := h
  exact getSlice_congr (by simp) i

/-- Settles O1, order by order. That a read of log 0 by MB_LOG_READ marks its records, and that a lane below the limit answers its
counters even when DISABLED, are log 26's choices. -/
theorem orderReportsAnswer : Obligations.Order_reports_answer := by
  unfold Obligations.Order_reports_answer
  intro s src a b
  refine ⟨fun h hlen => ?identify, fun h hlen => ?selftest, fun h hform hlog => ?history, fun h hform hlog => ?faultLog,
    fun h hlen => ?faults, fun h hlen => ?details, fun h hform => ?gleanings, fun e h hlen he => ?held, fun h hlen he => ?expired,
    fun h hlen hl hs => ?slice, fun h hlen hl hs hlimit => ?lane⟩
  case identify => exact onCtl_order_done h (by simp [badArgs, hlen]) rfl
  case selftest => exact onCtl_order_done h (by simp [badArgs, hlen]) rfl
  case history => exact onCtl_order_done h (by simp [hform, hlog]) (mbLogReadBody_of_history b _ hlog)
  case faultLog => exact onCtl_order_done h (by simp [hform, hlog]) (mbLogReadBody_of_faults b _ hlog)
  case faults => exact onCtl_order_done h (by simp [badArgs, hlen]) rfl
  case details => exact onCtl_order_done h (by simp [badArgs, hlen]) rfl
  case gleanings => exact onCtl_order_done h hform rfl
  case held => exact onCtl_order_done h (by simp [badArgs, hlen]) (mbOrderStatusBody_of_held b _ he)
  case expired => exact onCtl_order_done h (by simp [badArgs, hlen]) (mbOrderStatusBody_of_expired b _ he)
  case slice => exact onCtl_order_done h (by simp [hlen, hl]) (mbSliceStatsBody_slice b _ hl hs)
  case lane =>
    have hwithin : badLane (takenFrom s.toCtl 0x0008 src) (fld a 0 1) (fld a 1 1) = false := by
      simp [badLane, h.getSlice_takenFrom, hlimit]
    exact onCtl_order_done h (by simp [hlen, hl, hwithin]) (mbSliceStatsBody_lane b _ hl hs)

/-! ### Refusals on arrival (R515) -/

section Arrival
variable {s : State} {src : OrderSource} {op : Nat} {a : Bytes} {r : CatRow} {m : Bool} (body : Body)

/-- The state in which an order taken from its source is answered at once. -/
theorem setCtl_answer_taken (code : Nat) (rsp : Bytes) :
    setCtl s (answer (closeEntry (enter (takenFrom s.toCtl op src)
      (orderEntry (takenFrom s.toCtl op src) (srcOf src) (srcMaster src) op a (.ok [])))
      (takenFrom s.toCtl op src).reeve.nextJseq code) (srcOf src) op code (takenFrom s.toCtl op src).reeve.nextJseq rsp) =
      orderRefused s src op a code rsp := by
  rw [orderEntry_taken, takenFrom_nextJseq]
  rfl

variable (hr : catRow op = some r)
include hr

theorem arrive_of_lantern (hl : s.toCtl.pkg.life = .lantern) (hlan : r.lantern = false) :
    setCtl s (arrive (takenFrom s.toCtl op src) (srcOf src) (srcMaster src) op a (.ok []) m body) =
      orderRefused s src op a 0x11 [] := by
  rw [← setCtl_answer_taken]
  simp [arrive, hr, hl, hlan]

theorem arrive_of_not_permitted (hlan : s.toCtl.pkg.life = .lantern → r.lantern = true)
    (hp : permitted r (srcMaster src) = false) :
    setCtl s (arrive (takenFrom s.toCtl op src) (srcOf src) (srcMaster src) op a (.ok []) m body) =
      orderRefused s src op a 0x12 [] := by
  have hknown : ¬ (s.toCtl.pkg.life = .lantern ∧ (!r.lantern) = true) := fun h => by simp [hlan h.1] at h
  rw [← setCtl_answer_taken]
  simp only [arrive, hr, takenFrom_pkg, if_neg hknown, hp, Bool.not_false, if_true]

variable (hlan : s.toCtl.pkg.life = .lantern → r.lantern = true) (hp : permitted r (srcMaster src) = true)
include hlan hp

theorem arrive_of_malformed (hm : m = true) :
    setCtl s (arrive (takenFrom s.toCtl op src) (srcOf src) (srcMaster src) op a (.ok []) m body) =
      orderRefused s src op a 0x10 [] := by
  have hknown : ¬ (s.toCtl.pkg.life = .lantern ∧ (!r.lantern) = true) := fun h => by simp [hlan h.1] at h
  rw [← setCtl_answer_taken]
  simp only [arrive, hr, takenFrom_pkg, if_neg hknown, hp, hm, Bool.not_true, Bool.false_eq_true, if_false, if_true]

theorem arrive_of_superseded (hm : m = false) {w : Nat}
    (hw : winner s.toCtl (srcMaster src) op (orderObj op a) = some w) :
    setCtl s (arrive (takenFrom s.toCtl op src) (srcOf src) (srcMaster src) op a (.ok []) m body) =
      orderRefused s src op a 3 (leBytes 4 w) := by
  have hknown : ¬ (s.toCtl.pkg.life = .lantern ∧ (!r.lantern) = true) := fun h => by simp [hlan h.1] at h
  have hwt : winner (takenFrom s.toCtl op src) (srcMaster src) op (orderObj op a) = some w := by
    rw [winner_congr (takenFrom_journal _ _ _) (takenFrom_time ..), hw]
  rw [← setCtl_answer_taken]
  simp only [arrive, hr, takenFrom_pkg, if_neg hknown, hp, hm, hwt, Bool.not_true, Bool.false_eq_true, if_false]

/-- An order that no check and no winner stops meets the orders before it on its object. -/
theorem arrive_of_admitted (hm : m = false) (hw : winner s.toCtl (srcMaster src) op (orderObj op a) = none) :
    arrive (takenFrom s.toCtl op src) (srcOf src) (srcMaster src) op a (.ok []) m body =
      proceed (enter (takenFrom s.toCtl op src) (orderEntry s.toCtl (srcOf src) (srcMaster src) op a (.ok [])))
        s.toCtl.reeve.nextJseq (orderEntry s.toCtl (srcOf src) (srcMaster src) op a (.ok [])) body := by
  have hknown : ¬ (s.toCtl.pkg.life = .lantern ∧ (!r.lantern) = true) := fun h => by simp [hlan h.1] at h
  have hwt : winner (takenFrom s.toCtl op src) (srcMaster src) op (orderObj op a) = none := by
    rw [winner_congr (takenFrom_journal _ _ _) (takenFrom_time ..), hw]
  simp only [arrive, hr, takenFrom_pkg, if_neg hknown, hp, hm, hwt, Bool.not_true, Bool.false_eq_true, if_false, orderEntry_taken,
    takenFrom_nextJseq]

end Arrival

/-- An order that fences nothing waits behind the unfinished orders on its object. -/
theorem proceed_of_blocked {d : Ctl} {j : Nat} {e : JEntry} (body : Body) (hf : isFencing e.opcode = false)
    (hb : (blockers d j e.obj).isEmpty = false) :
    proceed d j e body = modEntry d j fun x => { x with state := .waiting } := by
  simp [proceed, hf, hb]

/-! ### Rows of the catalogue (R518) -/

theorem catRow_faultLogRead : catRow 0x0004 = some ⟨0x0004, false, false, true, true, true, false⟩ := rfl

/-- The row of MB_OWNER_MAP_SET: the fabric manager alone may issue it. -/
def ownerMapSetRow : CatRow := ⟨0x0107, false, false, true, false, false, false⟩

theorem catRow_ownerMapSet : catRow 0x0107 = some ownerMapSetRow := rfl

theorem permitted_ownerMapSet (p : Port) : permitted ownerMapSetRow (srcMaster (.pf p)) = false := by cases p <;> rfl

/-- The row of MB_IDENTIFY: any master may issue it, in lantern state too. -/
def identifyRow : CatRow := ⟨0x0001, false, false, true, true, true, true⟩

theorem catRow_identify : catRow 0x0001 = some identifyRow := rfl

theorem permitted_identify (p : Port) : permitted identifyRow (srcMaster (.pf p)) = true := by cases p <;> rfl

theorem isFencing_identify : isFencing 0x0001 = false := rfl

/-! ### MB_IDENTIFY from a PF mailbox -/

section Identify
variable {s : State} {p : Port} {a : Bytes} (hup : reeveUp s.toCtl = true) (hsrc : sourceHolds s.toCtl 0x0001 a (.pf p) = true)
include hup hsrc

theorem exec_mbIdentify_arrives :
    exec (.mbIdentify (.pf p)) s = .next (setCtl s (arrive (takenFrom s.toCtl 0x0001 (.pf p)) (srcOf (.pf p))
      (srcMaster (.pf p)) 0x0001 a (.ok []) (badArgs a 0 []) mbIdentifyBody)) := by
  obtain ⟨m, -, hm, harr⟩ := order_arrives (fun _ a => badArgs a 0 []) mbIdentifyBody hup hsrc
  rw [hm p rfl] at harr
  exact next_setCtl harr

end Identify

/-! ### Envelopes that do not verify (R429) -/

section Envelopes
variable {d : Ctl} {e : Envelope} {op : Nat} (bad : Ctl → Bytes → Bool) (body : Body)

theorem order_env (hup : reeveUp d = true) (image : DmaResult) :
    order d (.env e) op image bad body = envelopeOrder d op e image bad body := by
  simp [order, hup]

theorem envelopeOrder_of_unverified (hmgmt : e.channel ≠ .mgmt) (hfree : chanOrder d e.channel = none) (htc : e.channel ≠ .tc)
    (hopen : openIdentify op e = false) (hbad : envelopeOk d op e = false) (image : DmaResult) :
    envelopeOrder d op e image bad body =
      sendEnvelope d e.channel (responseEnvelope d e.channel op 0x13 e.cookie e.counter 0 []) := by
  simp [envelopeOrder, hmgmt, hfree, htc, hopen, hbad]

end Envelopes

/-! ### Waiting orders (R433) -/

section Waiting
variable {s : State} {j : Nat} {e : JEntry} (hj : Tbl.find? s.toCtl.reeve.journal j = some e)
include hj

theorem exec_orderStart_of_free (hup : reeveUp s.toCtl = true) (hw : e.state = .waiting)
    (hb : ∀ b ∈ blockers s.toCtl j e.obj, j ≤ b.1 ∧ b.2.state ≠ .executing) :
    exec (.orderStart j) s =
      .next (setDev s (runFullReset (withCtl s.toDev fun d => startWaiting d s.mem j e))) := by
  have hfree : (blockers s.toCtl j e.obj).any (holdsUp j) = false := by
    rw [List.any_eq_false]
    intro b hmem
    obtain ⟨hlater, hidle⟩ := hb b hmem
    simp [holdsUp, hidle, Nat.not_lt.2 hlater]
  refine next_setDev ?_
  simp only [hj, hw, hup, hfree]
  simp

theorem exec_orderStart_of_held (h : e.state ≠ .waiting ∨ (blockers s.toCtl j e.obj).any (holdsUp j) = true) :
    exec (.orderStart j) s = .next s := by
  have hstays : e.state ≠ .waiting ∨ (!reeveUp s.toCtl) = true ∨ (blockers s.toCtl j e.obj).any (holdsUp j) = true := by tauto
  have hrun : exec (.orderStart j) s = .next (setDev s s.toDev) := by
    refine next_setDev ?_
    simp only [hj]
    exact if_pos hstays
  exact hrun

end Waiting

/-! ### The statement -/

/-- Settles O53, clause by clause. When ORDER_START starts a waiting order is log 44's choice. -/
theorem orderArrival : Obligations.Order_arrival := by
  unfold Obligations.Order_arrival
  rintro s a _ src rfl hup
  refine ⟨fun hl hsrc => ?lantern, fun p hl hsrc => ?notPermitted, fun p hsrc ha => ?malformed, fun p w hsrc hw => ?superseded,
    ?waits, fun e hch hfree htag hbad => ?auth, fun j e hj hw hb => ?starts, fun j e hj hb => ?heldUp, fun j e hj hw => ?notWaiting⟩
  case lantern =>
    obtain ⟨m, -, -, harr⟩ := order_arrives (fun _ a => badArgs a 4 []) mbFaultLogReadBody hup hsrc
    exact (next_setCtl harr).trans (congrArg _ (arrive_of_lantern _ catRow_faultLogRead hl rfl))
  case notPermitted =>
    obtain ⟨m, -, -, harr⟩ :=
      order_arrives (fun _ a => a.length != 4 || decide (1024 ≤ fld a 0 2)) mbOwnerMapSetBody hup hsrc
    exact (next_setCtl harr).trans (congrArg _ (arrive_of_not_permitted _ catRow_ownerMapSet
      (fun hlan => absurd (hl.symm.trans hlan) (by decide)) (permitted_ownerMapSet p)))
  case malformed =>
    rw [exec_mbIdentify_arrives hup hsrc]
    exact congrArg _ (arrive_of_malformed _ catRow_identify (fun _ => rfl) (permitted_identify p) (by simp [badArgs, ha]))
  case superseded =>
    rw [exec_mbIdentify_arrives hup hsrc]
    exact congrArg _ (arrive_of_superseded _ catRow_identify (fun _ => rfl) (permitted_identify p) rfl hw)
  case waits =>
    rintro p _ hsrc hw rfl hb
    rw [exec_mbIdentify_arrives hup hsrc]
    refine congrArg _ (congrArg _ ?_)
    exact (arrive_of_admitted mbIdentifyBody catRow_identify (fun _ => rfl) (permitted_identify p) rfl hw).trans
      (proceed_of_blocked mbIdentifyBody isFencing_identify hb)
  case auth =>
    have hopen : openIdentify 0x0001 e = false := by simp [openIdentify, htag]
    refine next_setCtl ((order_env _ _ hup _).trans ?_)
    rw [envelopeOrder_of_unverified _ _ (by simp [hch]) (hch ▸ hfree) (by simp [hch]) hopen hbad, hch]
  case starts => exact exec_orderStart_of_free hj hup hw hb
  case heldUp =>
    obtain ⟨b, hmem, hheld⟩ := hb
    exact exec_orderStart_of_held hj (.inr (List.any_eq_true.2 ⟨b, hmem, by simpa [holdsUp] using hheld⟩))
  case notWaiting => exact exec_orderStart_of_held hj (.inl hw)

end Sys2Proof.Machine
end

section
/-! SUPPORT. The frame of the time events (R456, R457, R459): a TIME_ALARM that a translation's outcome decides, though no slice read by
its number is ACTIVE, and the refutation of the statement about the frames. -/

namespace Sys2Proof.Machine
open Sys2Proof

/-- A slice event whose ring page is not translated asks for the translation, and its free outcome decides. -/
theorem sliceEvent_of_untranslated {d : Ctl} {i : Nat} (code n m : Nat) (hevents : eventless (getSlice d i) = false)
    (hfree : freeEntries d i 0 ≠ 0) (hats : (getPort d (getSlice d i).cur).ats = true)
    (hatc : (getPort d (getSlice d i).cur).atc = []) :
    sliceEvent d i code n m =
      let page := (ringPlace (getSlice d i) (getLane d i 0)).toNat / 4096
      let e := drawn (askPage d (getSlice d i).cur i page)
      if Config.translated d.fresh then writeEvent (holdPage e (getSlice d i).cur i page) i code n m else laneZeroFailed e i := by
  simp [sliceEvent, hevents, hfree, hats, atcHolds, hatc]

/-- A package in HOLDOVER past its limit, ATS enabled, whose slice table lists slice 0 twice: FENCED, which a read by number finds, and
ACTIVE behind it. -/
def shadowedState : State := {
  time := { state := .holdover, holdoverLimit := 0 }
  portA := { ats := true }
  slices := [(0, { state := .fenced }), (0, { state := .active })] }

/-- The control state of `shadowedState` when TIME_ALARM of FREERUN is raised. -/
def shadowedAlarm : Ctl := timeFault (modTime shadowedState.toCtl fun t => { t with
  state := .freerun, entered := t.interval, lockStreak := 0, ppsOut := false })

theorem exec_holdoverLimit_shadowed :
    exec .holdoverLimit shadowedState = .next (setCtl shadowedState (sliceEvent shadowedAlarm 0 7 4 0)) := by
  rfl

theorem sliceEvent_shadowed_fresh : (sliceEvent shadowedAlarm 0 7 4 0).fresh = 1 := by
  rw [sliceEvent_of_untranslated 7 4 0 (by decide +kernel) (by decide +kernel) (by decide +kernel) (by decide +kernel)]
  dsimp only
  split
  · decide +kernel
  · decide +kernel

theorem getSlice_shadowed_not_active (i : Nat) : (getSlice shadowedState.toCtl i).state ≠ .active := by
  simp only [getSlice, shadowedState, Tbl.getD, Tbl.find?]
  by_cases hi : 0 = i <;> simp [hi]

/-- Refutes O58: `shadowedState` meets the hypothesis of the second frame, which reads the slices by number, but TIME_ALARM goes to each
listed slice that is ACTIVE, so HOLDOVER_LIMIT asks for a translation there and draws its outcome (R86). The clause lacks the condition
that no entry of the slice table is ACTIVE, or that the table lists each slice once. -/
theorem not_registerAndTimeFrames : ¬ Obligations.Register_and_time_frames := by
  unfold Obligations.Register_and_time_frames
  intro h
  obtain ⟨-, htime⟩ := h
  have hframe := htime shadowedState _ .holdoverLimit
    { domain := 0, sdoId := 0, source := 0, sourcePort := 0, seq := 0, correction := 0 }
    { gmId := 0, priority1 := 0, clockClass := 0, accuracy := 0, variance := 0, priority2 := 0, stepsRemoved := 0
      ptpTimescale := false, utcOffset := 0, utcValid := false }
    { ns := 0 } (.inl getSlice_shadowed_not_active) (by simp) exec_holdoverLimit_shadowed
  have hfresh : (sliceEvent shadowedAlarm 0 7 4 0).fresh = 0 := congrArg (·.fresh) hframe
  exact absurd (sliceEvent_shadowed_fresh.symm.trans hfresh) (by decide)

end Sys2Proof.Machine
end
